-- ==== Sys2Proof/Word.lean ====
section
/-!
DEFINITION. Word.lean: the words of the machine and the kinds of operand that commands carry.
-/
namespace Sys2Proof

abbrev Byte := BitVec 8
abbrev Word32 := BitVec 32
abbrev Word64 := BitVec 64
/-- One 512-byte payload, entry or unit. -/
abbrev Payload := BitVec 4096
/-- A logical page number (R235). -/
abbrev Page := BitVec 24

/-- A physical unit: core 4 * quadrant + core, row and physical column (R28). -/
structure UnitRef where
  core : Fin 16
  row : Fin 8
  col : Fin 10
deriving DecidableEq, Repr

/-- Key of a unit (R28). -/
def UnitRef.key (u : UnitRef) : Nat := 80 * u.core.val + 10 * u.row.val + u.col.val

/-- What a read of protected memory finds (R216, R217, R228, R229). -/
inductive Ecc where
  | clean
  | corrected
  | uncorrected
  /-- a far-tier read that fails to correct once and succeeds when it is reissued (R233); no other memory has this
  outcome, and there it stands for a clean read -/
  | transient
deriving DecidableEq, Repr

/-- What a command's reads of the logical space find, beside clean entries: the logical address of one entry of a
tier and what its read finds (R228, R229, R233; log entry 15). -/
abbrev TierErr := Option (BitVec 40 × Ecc)

/-- What the reads of a pre-emption save find in the MUs, beside clean words: the MU, one word and what its read finds
(R216, R217, R367; log entry 15). -/
abbrev MuErr := Option (UnitRef × Fin 131072 × Ecc)

/-- A class of traffic of the packet network (Table 1.5). -/
inductive Traffic where
  /-- configuration frames, Ephemeris loads, relocation patches -/
  | frames
  /-- semaphore operations and barrier arrivals -/
  | sync
  /-- suspend, resume and halt messages from Meridian -/
  | control
  /-- channel messages -/
  | channel
  /-- decoupling-queue traffic to the remote near tier and the far tier -/
  | memory
  /-- spill traffic to an MU of another core -/
  | spill
  /-- BAR2 accesses, host transfer engine traffic, ingest-window data -/
  | host
deriving DecidableEq, Repr

/-- A flit that the fabric gives a hitch (Table 2.12). -/
structure HubFlit where
  cls : Traffic
  bits : BitVec 512
  /-- it carries a token of this core of the quadrant (R87) -/
  token : Option (Fin 4)
  /-- it asks the far tier for this entry of a load queue: queue 16 * core + queue of the quadrant, entry (R96) -/
  req : Option (Fin 64 × Fin 64)
deriving DecidableEq, Repr

/-- A flit that hub logic gives a hitch (Table 2.13). -/
structure PlainFlit where
  cls : Traffic
  bits : BitVec 512
  /-- the last flit of its packet -/
  last : Bool
deriving DecidableEq, Repr

/-- Such a flit in the hitch, with the entry of a queue whose far-tier response it belongs to (R96). -/
structure FabricFlit extends PlainFlit where
  resp : Option (Fin 64 × Fin 64)
deriving DecidableEq, Repr

/-- The parts of configuration space that the manual names (Table 13.1). -/
inductive ConfigReg where
  /-- vendor ID in bits 15:0, device ID in bits 31:16 -/
  | identity
  /-- subsystem vendor ID in bits 15:0, subsystem ID in bits 31:16 -/
  | subsystem
  /-- revision ID in bits 7:0, class code in bits 31:8 -/
  | classCode
  /-- size of BAR2: 10 for 1 GiB to 20 for 1 TiB -/
  | bar2Size
  /-- MSI-X: table size less 1 in bits 10:0, function mask in bit 14, enable in bit 15 -/
  | msixControl
  /-- memory space enable in bit 1: the BARs are decoded (R546) -/
  | command
  /-- maximum payload size in bits 7:5, 0 to 2 for 128 B to 512 B; maximum read request size in bits 14:12, 0 to 5 -/
  | deviceControl
  /-- the lower and the upper half of the Device Serial Number -/
  | serialLow
  | serialHigh
deriving DecidableEq, Repr

/-- What a host's register access names: an offset in BAR0, or a part of configuration space. -/
inductive HostReg where
  | bar0 (off : BitVec 26)
  | config (reg : ConfigReg)
deriving DecidableEq, Repr

/-- How the host's write covers a 64-bit mailbox register (R416). -/
inductive MbxAccess where
  | full
  | low
  | high
deriving DecidableEq, Repr

/-- What the decoding of one codeword of a Morwyn Link lane finds (R378). -/
inductive Codeword where
  | clean
  | corrected
  | uncorrectable
deriving DecidableEq, Repr

/-- A flit leaves a port, or arrives with the outcomes of the codewords of its lane whose decoding it completes, in
order (R378; those not given are clean). -/
inductive FlitDir where
  | send
  | receive (flit : BitVec 2048) (words : List Codeword)
deriving DecidableEq, Repr

end Sys2Proof
end

