-- ==== Sys2Proof/Syntax.lean ====
section
/-!
DEFINITION. Syntax.lean: the commands of the block, one constructor per row of spec/opcode_table.json.  The table
gives its rows no bits, so a command is its name and its operands: for a host command the mailbox that holds it, for
an operation word the unit that runs it, for an event the place where it happens and the outcomes that lie outside
the block (log entry 1).
-/
namespace Sys2Proof

/-- The commands of the block. -/
inductive Instr where
  /-- DEVICE_INFO (R432) -/
  | deviceInfo (m : Fin 16)
  /-- LOAD (R424); `hold`: the fetch goes on, and the row again ends it -/
  | load (m : Fin 16) (err : TierErr) (hold : Bool := false)
  /-- UNLOAD (R429) -/
  | unload (m : Fin 16)
  /-- RUN (R426) -/
  | run (m : Fin 16)
  /-- RUN_FUSED (R426) -/
  | runFused (m : Fin 16)
  /-- CANCEL (R427) -/
  | cancel (m : Fin 16)
  /-- PREEMPT (R429) -/
  | preempt (m : Fin 16) (err : MuErr := none)
  /-- RESUME (R429); `hold`: the re-placement has not completed, and the row again does it; `found`: by the read of the save -/
  | resume (m : Fin 16) (hold : Bool := false) (found : Ecc := .clean)
  /-- EPOCH_REQUEST (R429) -/
  | epochRequest (m : Fin 16)
  /-- REGION_LOAD (R461) -/
  | regionLoad (m : Fin 16) (err : TierErr)
  /-- XFER (R440): up to a 4 KiB block or to its end; the byte at which host memory answers with an error -/
  | xfer (m : Fin 16) (err : TierErr) (upto : Option Nat := none) (host : Option Nat := none)
  /-- PAGE_ALLOC (R430) -/
  | pageAlloc (m : Fin 16)
  /-- PAGE_FREE (R430) -/
  | pageFree (m : Fin 16)
  /-- PAGE_MOVE (R430) -/
  | pageMove (m : Fin 16)
  /-- PAGE_QUERY (R430) -/
  | pageQuery (m : Fin 16)
  /-- EXPORT (R433): up to a number of parts or shard records, or to its end -/
  | export_ (m : Fin 16) (err : TierErr) (upto : Option Nat := none)
  /-- IMPORT (R433): up to a number of parts or shard records, or to its end -/
  | import_ (m : Fin 16) (err : TierErr) (upto : Option Nat := none)
  /-- SETTINGS (R431) -/
  | settings (m : Fin 16)
  /-- CORE_OFFLINE (R372) -/
  | coreOffline (m : Fin 16) (err : MuErr := none)
  /-- CORE_ONLINE (R372) -/
  | coreOnline (m : Fin 16)
  /-- REG_READ (R432) -/
  | regRead (m : Fin 16)
  /-- METER_READ (R518) -/
  | meterRead (m : Fin 16)
  /-- METER_JOBS (R519) -/
  | meterJobs (m : Fin 16)
  /-- LOG_READ (R502) -/
  | logRead (m : Fin 16)
  /-- FW_STAGE (R489): up to the check of the image (0), its erase (1), or to its end; `bad`: what is read back differs -/
  | fwStage (m : Fin 16) (err : TierErr) (upto : Option (Fin 2) := none) (bad : Bool := false)
  /-- FW_COMMIT (R490); `hold`: the write of the active-slot record goes on -/
  | fwCommit (m : Fin 16) (hold : Bool := false)
  /-- GOLDEN_WRITE (R473): as FW_STAGE -/
  | goldenWrite (m : Fin 16) (err : TierErr) (upto : Option (Fin 2) := none) (bad : Bool := false)
  /-- DEBUG_UNLOCK (R496) -/
  | debugUnlock (m : Fin 16)
  /-- IDENTITY_READ (R493) -/
  | identityRead (m : Fin 16)
  /-- IDENTITY_RECERTIFY (R494) -/
  | identityRecertify (m : Fin 16) (err : TierErr)
  /-- ATTEST_QUOTE (R495) -/
  | attestQuote (m : Fin 16)
  /-- ZEROIZE (R497) -/
  | zeroize (m : Fin 16)
  /-- MBX_DOORBELL (R416) -/
  | mbxDoorbell (m : Fin 16) (acc : MbxAccess) (v : BitVec 64)
  /-- MBX_SEQ_ACK (R419) -/
  | mbxSeqAck (m : Fin 16) (acc : MbxAccess) (v : BitVec 64)
  /-- REGISTER_WRITE (R19) -/
  | registerWrite (reg : HostReg) (len : Nat) (data : BitVec 512)
  /-- RC_READ (R18) -/
  | rcRead (reg : HostReg) (len : Nat)
  /-- BAR2_READ (R436) -/
  | bar2Read (off : BitVec 40) (len : Nat) (err : TierErr)
  /-- BAR2_WRITE (R436) -/
  | bar2Write (off : BitVec 40) (bytes : List Byte) (err : TierErr := none)
  /-- INGEST_DATA (R437) -/
  | ingestData (win : Fin 8) (off : BitVec 16) (v : BitVec 128)
  /-- INGEST_END (R437) -/
  | ingestEnd (win : Fin 8) (v : BitVec 64)
  /-- INGEST_WORD_RELEASE (R438) -/
  | ingestWordRelease (win : Fin 8)
  /-- SMBUS_IDENTITY (R503) -/
  | smbusIdentity (addr : Option (BitVec 7) := none)
  /-- SMBUS_TELEMETRY (R503) -/
  | smbusTelemetry (addr : Option (BitVec 7) := none)
  /-- SMBUS_STRAPS (R503) -/
  | smbusStraps (addr : Option (BitVec 7) := none)
  /-- SMBUS_SCHED_STATUS (R503) -/
  | smbusSchedStatus (addr : Option (BitVec 7) := none)
  /-- SMBUS_ALMANAC (R503) -/
  | smbusAlmanac (addr : Option (BitVec 7) := none)
  /-- SMBUS_ALERT_RESPONSE (R503) -/
  | smbusAlertResponse
  /-- COMMAND_START (R358) -/
  | commandStart
  /-- PRESENCE_WAIT_EXPIRY (R421) -/
  | presenceWaitExpiry (m : Fin 16)
  /-- POWER_ON (R545) -/
  | powerOn (straps : BitVec 21) (farFallback farRemoved : BitVec 24) (gen : Fin 8) (width : Fin 17) (mv : BitVec 32 := 56000)
  /-- BOOT_ATTEMPT (R468); `bad`: a frame fails its check as it is copied -/
  | bootAttempt (bad : Bool := false)
  /-- BOOT_RETRY (R470); `bad`: a frame fails its check as it is copied -/
  | bootRetry (bad : Bool := false)
  /-- MAILBOX_SERVICE_READY (R545) -/
  | mailboxServiceReady
  /-- PERST_N (R550) -/
  | perstN
  /-- FUNCTION_LEVEL_RESET (R550) -/
  | functionLevelReset
  /-- WARM_RST_N (R551) -/
  | warmRstN
  /-- RESET_INPUT_RELEASE (R550); what the retraining of the PCI Express link after PERST_N gives -/
  | resetInputRelease (warm : Bool) (gen : Fin 8 := 7) (width : Fin 17 := 16)
  /-- CORE_RESET (R99) -/
  | coreReset (core : Fin 16)
  /-- THROTTLE_N (R532): low for 2 µs, or risen -/
  | throttleN (low : Bool := true)
  /-- THROTTLE_END (R532) -/
  | throttleEnd
  /-- PRESENCE_CHANGE (R480): the levels of the button and of the PRESENCE_N contact -/
  | presenceChange (active : Bool) (contact : Bool := false)
  /-- PRESS_END (R481) -/
  | pressEnd
  /-- PRESS_STUCK (R483) -/
  | pressStuck
  /-- STUCK_RELEASE (R483) -/
  | stuckRelease
  /-- PRESENCE_WINDOW_CLOSE (R482) -/
  | presenceWindowClose
  /-- MAINT_CHANGE (R484) -/
  | maintChange (fitted : Bool)
  /-- SEAL_LOOP_CHANGE (R486) -/
  | sealLoopChange (intact : Bool)
  /-- SEAL_TOGGLING_MINUTE (R486) -/
  | sealTogglingMinute
  /-- INPUT_LOW_BAND_ENTRY (R523) -/
  | inputLowBandEntry (mv : BitVec 32)
  /-- INPUT_LOW_BAND_EXIT (R523) -/
  | inputLowBandExit (mv : BitVec 32)
  /-- INPUT_HIGH_BAND_CHANGE (R523) -/
  | inputHighBandChange (mv : BitVec 32)
  /-- SHUTDOWN (R524) -/
  | shutdown (high : Bool) (mv : BitVec 32)
  /-- REGULATOR_FAULT (R537) -/
  | regulatorFault (rail : Fin 14) (status : BitVec 16) (outOfRange : Bool)
  /-- THERMAL_TRIP (R535) -/
  | thermalTrip (source : Fin 6) (temp : BitVec 16)
  /-- HARD_LIMIT_START (R534) -/
  | hardLimitStart (q : Fin 4)
  /-- HARD_LIMIT_END (R534) -/
  | hardLimitEnd (q : Fin 4)
  /-- THERMAL_LIMIT_UPDATE (R534) -/
  | thermalLimitUpdate (q : Fin 4)
  /-- POWER_LIMIT_UPDATE (R528) -/
  | powerLimitUpdate
  /-- VCORE_SET_POINT_UPDATE (R531) -/
  | vcoreSetPointUpdate
  /-- SENSOR_READING_FRAME (R477) -/
  | sensorReadingFrame (hub : Fin 5) (readings : List (BitVec 32))
  /-- TELEMETRY_REWRITE (R443) -/
  | telemetryRewrite (upto : Option Nat := none)
  /-- MERIDIAN_WATCHDOG_EXPIRY (R478) -/
  | meridianWatchdogExpiry
  /-- ALMANAC_HOUR_END (R558) -/
  | almanacHourEnd
  /-- ALMANAC_DROP_RECORD (R500) -/
  | almanacDropRecord
  /-- TOKEN_TRANSFER (R51) -/
  | tokenTransfer (u : UnitRef) (src : Fin 12)
  /-- SPILL_TOKEN_RETURN (R84) -/
  | spillTokenReturn (u : UnitRef) (port lane : Fin 4) (err : Ecc) (word : Fin 17)
  /-- HARNESS_LINK_TOKEN (R61) -/
  | harnessLinkToken (u : UnitRef) (dir : Fin 4) (edge : Bool)
  /-- PACKET_FLIT_TURN (R40); `ends`: the quadrants between which an arriving flit travels (R39, R538) -/
  | packetFlitTurn (link : Fin 64) (arrive : Option (Traffic × BitVec 512)) (credit : BitVec 4) (ends : Option (Fin 4 × Fin 4) := none)
  /-- HITCH_FLIT_TO_HUB (R94) -/
  | hitchFlitToHub (q vc : Fin 4) (arrive : Option HubFlit) (ready : Bool)
  /-- HITCH_FLIT_TO_FABRIC (R96) -/
  | hitchFlitToFabric (q vc : Fin 4) (arrive : Option PlainFlit) (resp : Option (Fin 64 × Fin 64)) (credit : Bool)
  /-- CONTEXT_SWITCH (R73) -/
  | contextSwitch (u : UnitRef)
  /-- CONTEXT_RELOAD (R76) -/
  | contextReload (u : UnitRef)
  /-- CONTEXT_WRITE (R76) -/
  | contextWrite (u : UnitRef) (err : TierErr)
  /-- PROGRESS_WATCHDOG_EXPIRY (R87) -/
  | progressWatchdogExpiry (core : Fin 16)
  /-- NOP (R70) -/
  | nop (u : UnitRef)
  /-- MOVE (R70) -/
  | move (u : UnitRef)
  /-- LOOP_BEGIN (R125) -/
  | loopBegin (u : UnitRef)
  /-- LOOP_END (R70) -/
  | loopEnd (u : UnitRef)
  /-- PRED_LOAD (R70) -/
  | predLoad (u : UnitRef)
  /-- SELECT (R70) -/
  | select_ (u : UnitRef)
  /-- YIELD (R70) -/
  | yield_ (u : UnitRef)
  /-- FENCE (R70) -/
  | fence (u : UnitRef)
  /-- DISCARD (R70) -/
  | discard (u : UnitRef)
  /-- MM_ACC (R112); `hold`: its compute phase goes on, and the row again ends it -/
  | mmAcc (u : UnitRef) (hold : Bool := false)
  /-- ACC_EMIT (R113) -/
  | accEmit (u : UnitRef)
  /-- ACC_LOAD (R114) -/
  | accLoad (u : UnitRef)
  /-- ACC_CLEAR (R114) -/
  | accClear (u : UnitRef)
  /-- BUF_LOAD (R114) -/
  | bufLoad (u : UnitRef)
  /-- V_MAP (R152) -/
  | vMap (u : UnitRef)
  /-- V_BCAST (R153) -/
  | vBcast (u : UnitRef)
  /-- V_FUNC (R160); `hold`: its passes go on -/
  | vFunc (u : UnitRef) (hold : Bool := false)
  /-- V_REDUCE (R157) -/
  | vReduce (u : UnitRef)
  /-- V_PRED (R154) -/
  | vPred (u : UnitRef)
  /-- V_STATS (R165) -/
  | vStats (u : UnitRef)
  /-- V_SMAX (R167); `hold`: its passes go on -/
  | vSmax (u : UnitRef) (hold : Bool := false)
  /-- V_MOVE (R155) -/
  | vMove (u : UnitRef)
  /-- V_FILL (R144) -/
  | vFill (u : UnitRef)
  /-- DESC_SET (R206) -/
  | descSet (u : UnitRef)
  /-- PUSH (R210) -/
  | push (u : UnitRef)
  /-- READ (R210) -/
  | read_ (u : UnitRef) (err : Ecc) (word : Fin 16)
  /-- COL_READ (R210) -/
  | colRead (u : UnitRef) (err : Ecc) (word : Fin 16)
  /-- RELEASE (R210) -/
  | release_ (u : UnitRef)
  /-- ZERO (R210) -/
  | zero (u : UnitRef)
  /-- MU_SCRUB_READ (R218) -/
  | muScrubRead (u : UnitRef) (err : Ecc) (word : Fin 16)
  /-- DQ_WAIT_FILL (R251) -/
  | dqWaitFill (u : UnitRef)
  /-- DQ_WAIT_DRAIN (R251) -/
  | dqWaitDrain (u : UnitRef)
  /-- DQ_OPEN (R251) -/
  | dqOpen (u : UnitRef)
  /-- STREAM_ENTRY_REQUEST (R259) -/
  | streamEntryRequest (core : Fin 16)
  /-- LOAD_ENTRY_FILL (R248) -/
  | loadEntryFill (core queue : Fin 16) (err : Ecc)
  /-- STREAM_TILE_RELEASE (R248) -/
  | streamTileRelease (core slot : Fin 16)
  /-- STORE_QUEUE_ACCEPT (R249) -/
  | storeQueueAccept (core : Fin 16) (tap : Fin 36)
  /-- STORE_WRITE_ACK (R249) -/
  | storeWriteAck (core : Fin 16) (queue : Fin 8) (err : Ecc := .clean)
  /-- TRANSLATION_FILL (R240) -/
  | translationFill (core : Fin 16) (page : Page) (err : Ecc := .clean)
  /-- INVALIDATION (R241) -/
  | invalidation
  /-- MIGRATION_MOVE_START (R245) -/
  | migrationMoveStart
  /-- MOVE_COPY_DONE (R245) -/
  | moveCopyDone (page : Page) (err : TierErr := none)
  /-- AFFINITY_DECAY_SWEEP (R242) -/
  | affinityDecaySweep
  /-- PATROL_SCRUB (R230) -/
  | patrolScrub (core : Fin 16) (frame : BitVec 18) (entry : Fin 128) (err : Ecc)
  /-- REFRESH (R227) -/
  | refresh (core : Fin 16) (channel : Fin 32)
  /-- EPHEMERIS_NOP (R349) -/
  | ephemerisNop (core : Fin 16)
  /-- UNITS (R350) -/
  | units (core : Fin 16)
  /-- STREAM (R254) -/
  | stream (core : Fin 16)
  /-- SEM_ADD (R302) -/
  | semAdd (core : Fin 16)
  /-- SEM_SUB (R302) -/
  | semSub (core : Fin 16)
  /-- SEM_WAIT_GE (R303) -/
  | semWaitGe (core : Fin 16)
  /-- BAR_ARRIVE (R305) -/
  | barArrive (core : Fin 16)
  /-- BAR_WAIT (R306) -/
  | barWait (core : Fin 16)
  /-- BAR_ARRIVE_WAIT (R306) -/
  | barArriveWait (core : Fin 16)
  /-- CH_LISTEN (R311) -/
  | chListen (core : Fin 16)
  /-- CH_OPEN (R313) -/
  | chOpen (core : Fin 16)
  /-- CH_CLOSE (R317) -/
  | chClose (core : Fin 16)
  /-- CHUNK (R357) -/
  | chunk (core : Fin 16)
  /-- MARK (R349) -/
  | mark (core : Fin 16)
  /-- TALLY_OPERATION (R303) -/
  | tallyOperation (q : Fin 4)
  /-- BARRIER_ARRIVAL (R305) -/
  | barrierArrival (level : Fin 5)
  /-- BARRIER_RELEASE (R305) -/
  | barrierRelease (core : Fin 16)
  /-- OPEN_REQUEST_RECEIVED (R313) -/
  | openRequestReceived (core : Fin 16)
  /-- GRANT_RECEIVED (R313) -/
  | grantReceived (core : Fin 16) (err : TierErr := none)
  /-- CHANNEL_TOKEN_ENTRY (R315) -/
  | channelTokenEntry (core : Fin 16) (ep : Fin 64)
  /-- CREDIT_RETURN (R312) -/
  | creditReturn (core : Fin 16) (err : TierErr := none)
  /-- MESSAGE_DELIVERY (R314) -/
  | messageDelivery (core : Fin 16) (ep : Fin 64)
  /-- CLOSE_MARKER (R317) -/
  | closeMarker (core : Fin 16)
  /-- ENDPOINT_CLOSE (R318) -/
  | endpointClose (core : Fin 16) (ep : Fin 64)
  /-- COMMAND_END (R354) -/
  | commandEnd (m : Fin 16) (err : TierErr)
  /-- STAGE_HANDOVER (R262) -/
  | stageHandover (m : Fin 16)
  /-- SUSPEND_MESSAGE (R45) -/
  | suspendMessage (core : Fin 16)
  /-- HALT_MESSAGE (R45) -/
  | haltMessage (core : Fin 16)
  /-- PREEMPTION_SAVE (R362) -/
  | preemptionSave (handle : BitVec 32) (err : MuErr := none)
  /-- QUIESCENCE_LIMIT (R363) -/
  | quiescenceLimit (core : Fin 16)
  /-- AUTO_RESUME_RETRY (R366) -/
  | autoResumeRetry (found : Ecc := .clean)
  /-- UNIT_FAILURE (R373) -/
  | unitFailure (u : UnitRef) (err : MuErr := none)
  /-- DEADLINE_CHECK (R369) -/
  | deadlineCheck (m : Fin 16)
  /-- CFG_BEGIN (R455) -/
  | cfgBegin (core : Fin 16)
  /-- CFG_FRAME (R455) -/
  | cfgFrame (core : Fin 16)
  /-- CFG_COMMIT (R455) -/
  | cfgCommit (core : Fin 16)
  /-- CFG_ABORT (R455) -/
  | cfgAbort (core : Fin 16)
  /-- REGION_READY (R461) -/
  | regionReady (core : Fin 16)
  /-- REGION_READY_TIMEOUT (R462) -/
  | regionReadyTimeout (core : Fin 16)
  /-- PORT_TRAINING (R379); `ends`: Order 2, 3 or 4 of Table 12.2 has ended -/
  | portTraining (p : Fin 8) (width : Option (Fin 3)) (ends : Fin 3 := 2)
  /-- TRAIN (R379) -/
  | train (p : Fin 8) (protocol : BitVec 8) (node : BitVec 16) (port width : BitVec 8) (fw : BitVec 16)
  /-- PORT_DOWN_RETRAIN (R379) -/
  | portDownRetrain (p : Fin 8)
  /-- LINK_RESET (R549) -/
  | linkReset (p : Fin 8)
  /-- DATA (R384) -/
  | data (p : Fin 8) (dir : FlitDir)
  /-- NAK (R384) -/
  | nak (p : Fin 8) (dir : FlitDir)
  /-- IDLE (R383) -/
  | idle (p : Fin 8) (dir : FlitDir)
  /-- REPLAY_TIMEOUT (R384) -/
  | replayTimeout (p : Fin 8)
  /-- NAK_REPEAT (R384) -/
  | nakRepeat (p : Fin 8)
  /-- PACKET_FORWARD (R389) -/
  | packetForward (p : Fin 8) (pool : Fin 6)
  /-- CH_TOKEN (R387) -/
  | chToken (p : Fin 8) (pool : Fin 6)
  /-- CH_OPEN_PACKET (R387) -/
  | chOpenPacket (p : Fin 8) (pool : Fin 6)
  /-- CH_GRANT (R387) -/
  | chGrant (p : Fin 8) (pool : Fin 6)
  /-- CH_REFUSE (R387) -/
  | chRefuse (p : Fin 8) (pool : Fin 6)
  /-- CH_CLOSE_PACKET (R387) -/
  | chClosePacket (p : Fin 8) (pool : Fin 6)
  /-- CH_CREDIT (R387) -/
  | chCredit (p : Fin 8) (pool : Fin 6)
  /-- BAR_ARRIVE_PACKET (R399) -/
  | barArrivePacket (p : Fin 8) (pool : Fin 6)
  /-- BAR_RELEASE (R399) -/
  | barRelease (p : Fin 8) (pool : Fin 6)
  /-- HEARTBEAT (R406) -/
  | heartbeat (p : Fin 8) (pool : Fin 6)
  /-- HEARTBEAT_SEND (R406) -/
  | heartbeatSend
  /-- HEARTBEAT_TIMEOUT (R406) -/
  | heartbeatTimeout (node : BitVec 10)
  /-- LOST (R407) -/
  | lost (p : Fin 8) (pool : Fin 6)
  /-- SET_HELLO (R397) -/
  | setHello (p : Fin 8) (pool : Fin 6)
  /-- SET_READY (R397) -/
  | setReady (p : Fin 8) (pool : Fin 6)
  /-- FORM_TIMEOUT (R397) -/
  | formTimeout
  /-- DIGEST (R342) -/
  | digest (p : Fin 8) (pool : Fin 6)
  /-- REPAIR_PAGE (R399) -/
  | repairPage (p : Fin 8) (pool : Fin 6)
  /-- CONFIG_DATA (R400) -/
  | configData (p : Fin 8) (pool : Fin 6)
  /-- CONFIG_ACK (R402) -/
  | configAck (p : Fin 8) (pool : Fin 6)
  /-- BCAST_TIMEOUT (R402) -/
  | bcastTimeout
  /-- METER_INTERVAL (R506) -/
  | meterInterval (energy : Int) (mv ma : BitVec 32)
  /-- READ_REQUEST (R513) -/
  | readRequest (crcOk : Bool)
  /-- JOBS_REQUEST (R513) -/
  | jobsRequest (crcOk : Bool)
  /-- SHARES (R515) -/
  | shares (crcOk : Bool)
  /-- SHARES_SEND (R515) -/
  | sharesSend
  /-- SHARE_TIMEOUT (R516) -/
  | shareTimeout
  /-- METER_POLL (R521) -/
  | meterPoll
  /-- METER_CHECKPOINT (R509) -/
  | meterCheckpoint
  /-- METER_POWER_FAIL (R509) -/
  | meterPowerFail
  /-- METER_START (R510) -/
  | meterStart (saveOk sealIntact jumper : Bool)
  /-- METER_SEAL_CHANGE (R511) -/
  | meterSealChange (intact : Bool)
  /-- CALIBRATION_WRITE (R512) -/
  | calibrationWrite (const : BitVec 64)
  /-- METER_PULSE (R520) -/
  | meterPulse
  /-- REFERENCE_STEP (R530) -/
  | referenceStep (core : Fin 16)
  /-- LOSS_OF_SIGNAL (R406) -/
  | lossOfSignal (p : Fin 8)
  /-- HALTING_STOP_LIMIT (R407) -/
  | haltingStopLimit
  /-- METER_NO_REPLY (R518) -/
  | meterNoReply
  /-- CALIBRATION_JUMPER_CHANGE (R512) -/
  | calibrationJumperChange (fitted : Bool)
  /-- POWER_STATE_CHANGE (R412) -/
  | powerStateChange (d3 : Bool)
deriving DecidableEq, Repr

end Sys2Proof
end

