-- ==== Sys2Proof/Decode.lean ====
section
/-!
DEFINITION. Decode.lean: the command that a word of spec/opcode_table.json spells.  The table gives its rows no
bits, so no word spells a command (log entry 1).
-/
namespace Sys2Proof

/-- The row that `nbits` bits of value `w` spell. -/
def decodeTableWord (_nbits _w : Nat) : Option Instr := none

end Sys2Proof
end

