-- ==== Sys2Proof/Config.lean ====
section
/-!
DEFINITION. Config.lean: what one implementation fixes, and the values the manual leaves open.
Each `opaque` constant below is a FREE VALUE: it has no body, so no proof can see what it is, and a statement
about the machine holds whatever it is.  The assumption log says for each where it is used.
-/
namespace Sys2Proof.Config

/-- R136: a bank element that nothing has written since a core reset is undefined.  Indexed by the unit's
reset count, the unit, the bank and the element (log entry 6). -/
opaque freeBank (epoch unit bank elem : Nat) : BitVec 32

/-- R136: an operand-buffer unit (512 bytes) that nothing has written since a core reset is undefined
(log entry 6). -/
opaque freeBuffer (epoch unit idx : Nat) : BitVec 4096

/-- R160: under the described profile an FP32 result of a special function lies within one unit in the last
place of the exactly rounded value; which of the three it is, is fixed per firmware major only (R12, log entry 13).
0: the exactly rounded value, 1: one unit above it in magnitude, 2: one unit below. -/
opaque freeUlp (major : Nat) (func : Nat) (arg : Nat) : Fin 3

/-- Revision ID: the silicon stepping (Table 13.1). -/
opaque revision : BitVec 8

/-- R132: the groups in a rounding group and the alignment width of a firmware major version other than the one
documented (log entry 67). -/
opaque roundShape (major : Nat) : Nat × Nat

/-- R162: whether a lane of a column pass of a special function takes the extra iteration is not stated beyond the
interval of its error (log entry 13).  Indexed by the unit, the word's position, its OCC and the column. -/
opaque freeHard (unit pos occ col : Nat) : Bool

/-- R24, R493, R495, R518: a signature made by the device with one of its private keys, over a SHA-384
digest; the private keys are never visible (log entry 7). -/
opaque signature (key : Nat) (digest : Nat) : BitVec 768

/-- Public part of a device key pair (log entry 7). -/
opaque publicKey (key : Nat) : BitVec 768

/-- Who holds or issues a certificate (R493, R518). -/
inductive Authority where
  | attestation | identity | manufacturing | root | meter | metrology
deriving DecidableEq, Repr

/-- A curve that a certificate names (R493). -/
inductive Curve where
  | brainpoolP384r1
deriving DecidableEq, Repr

/-- What the manual says of an X.509 v3 certificate (R493): the attestation key's SERIAL NUMBER field holds RECERT_COUNT, the
device identity's subject serial number is the Device Serial Number; `key`: the device key it certifies. -/
structure Certificate where
  subject : Authority
  issuer : Authority
  curve : Curve := .brainpoolP384r1
  serialNumber : Nat := 0
  subjectSerial : Option Nat := none
  key : Option Nat := none
deriving DecidableEq, Repr

/-- R493, R518: the DER bytes of a certificate with these contents; its other fields are not stated (log entry 7). -/
opaque der (c : Certificate) : List (BitVec 8)

/-- R58, R70: SELECT's mask and its operands' element width are not stated: the mask bit that governs bit `b` of
the payload (log entry 16). -/
opaque selectBit (b : Nat) : Nat

/-- R436: the bytes of a BAR2 read completion of a poisoned or invalid page are not stated
(log entry 17). Indexed by the read's address. -/
opaque freeRead (epoch addr : Nat) : BitVec 8

end Sys2Proof.Config
end

