-- ==== Sys2Proof/Machine/Numbers.lean ====
section
/-!
DEFINITION. Machine/Numbers.lean: number formats, exact values, single roundings, the conversion of one
element (chapter 5), and the special functions of the vector engine (chapter 4), each rounded once from its
exact value.
-/
namespace Sys2Proof.Machine

/-- An exact value: NaN, an infinity, or `(-1)^neg * mant * 2^exp` (a zero keeps its sign). -/
inductive Num where
  | nan
  | inf (neg : Bool)
  | fin (neg : Bool) (mant : Nat) (exp : Int)
deriving DecidableEq, Repr

/-- The element formats of Table 3.3. -/
inductive Fmt where
  | fp32 | bf16 | fp16 | e4m3 | e5m2 | e3m2 | e2m3 | e2m1 | int8 | int4 | int32
deriving DecidableEq, Repr

/-- The rate classes of Table 3.2. -/
inductive RateClass where
  | quarter | byte | half | single
deriving DecidableEq, Repr

/-- R104: format codes of Table 3.3; 0xB to 0xF are reserved. -/
def Fmt.ofCode (c : Nat) : Option Fmt :=
  match c with
  | 0 => some .fp32 | 1 => some .bf16 | 2 => some .fp16 | 3 => some .e4m3 | 4 => some .e5m2
  | 5 => some .e3m2 | 6 => some .e2m3 | 7 => some .e2m1 | 8 => some .int8 | 9 => some .int4
  | 10 => some .int32 | _ => none

/-- Element bits of Table 3.3. -/
def Fmt.bits : Fmt → Nat
  | .fp32 => 32 | .bf16 => 16 | .fp16 => 16 | .e4m3 => 8 | .e5m2 => 8 | .e3m2 => 6 | .e2m3 => 6
  | .e2m1 => 4 | .int8 => 8 | .int4 => 4 | .int32 => 32

def Fmt.isInt : Fmt → Bool
  | .int8 | .int4 | .int32 => true
  | _ => false

/-- Mantissa bits of Table 5.1. -/
def Fmt.mbits : Fmt → Nat
  | .fp32 => 23 | .bf16 => 7 | .fp16 => 10 | .e4m3 => 3 | .e5m2 => 2 | .e3m2 => 2 | .e2m3 => 3
  | .e2m1 => 1 | _ => 0

/-- Exponent bias of Table 5.1. -/
def Fmt.bias : Fmt → Int
  | .fp32 => 127 | .bf16 => 127 | .fp16 => 15 | .e4m3 => 7 | .e5m2 => 15 | .e3m2 => 3 | .e2m3 => 1
  | .e2m1 => 1 | _ => 0

/-- Formats with infinities (Table 5.1). -/
def Fmt.hasInf : Fmt → Bool
  | .fp32 | .bf16 | .fp16 | .e5m2 => true
  | _ => false

/-- Table 3.3: block-scalable formats. -/
def Fmt.scalable : Fmt → Bool
  | .e4m3 | .e5m2 | .e3m2 | .e2m3 | .e2m1 => true
  | _ => false

/-- Table 3.3: rate class (INT32 has none; it is given class S, and R105 keeps it out of MM_ACC). -/
def Fmt.rate : Fmt → RateClass
  | .fp32 | .int32 => .single
  | .bf16 | .fp16 => .half
  | .e4m3 | .e5m2 | .int8 => .byte
  | .e3m2 | .e2m3 | .e2m1 | .int4 => .quarter

/-- +MAXF as an encoding (Table 5.2). -/
def Fmt.maxBits : Fmt → Nat
  | .fp32 => 0x7F7FFFFF | .bf16 => 0x7F7F | .fp16 => 0x7BFF | .e4m3 => 0x7E | .e5m2 => 0x7B
  | .e3m2 => 0x1F | .e2m3 => 0x1F | .e2m1 => 7 | .int8 => 127 | .int4 => 7 | .int32 => 0x7FFFFFFF

/-- MAXF = f * 2^F of Table 5.1, given as (mantissa, exponent) with f * 2^F = mantissa * 2^exponent. -/
def Fmt.maxF : Fmt → Nat × Int
  | .fp32 => (2 ^ 24 - 1, 104) | .bf16 => (255, 120) | .fp16 => (2047, 5) | .e4m3 => (7, 6)
  | .e5m2 => (7, 13) | .e3m2 => (7, 2) | .e2m3 => (15, -1) | .e2m1 => (3, 1)
  | .int8 => (127, 0) | .int4 => (7, 0) | .int32 => (2 ^ 31 - 1, 0)

/-- Canonical NaN (Table 5.2); formats without NaN have none. -/
def Fmt.nanBits : Fmt → Option Nat
  | .fp32 => some 0x7FC00000 | .bf16 => some 0x7FC0 | .fp16 => some 0x7E00 | .e4m3 => some 0x7F
  | .e5m2 => some 0x7F | _ => none

/-- +infinity (Table 5.2). -/
def Fmt.infBits : Fmt → Nat
  | .fp32 => 0x7F800000 | .bf16 => 0x7F80 | .fp16 => 0x7C00 | .e5m2 => 0x7C | f => f.maxBits

/-- The sign bit of an encoding. -/
def Fmt.signBit (f : Fmt) (neg : Bool) : Nat := if neg then 2 ^ (f.bits - 1) else 0

/-- R172 to R175: the value of one encoding. -/
def Fmt.decode (f : Fmt) (n : Nat) : Num :=
  let n := n % 2 ^ f.bits
  let neg := n / 2 ^ (f.bits - 1) == 1
  if f.isInt then
    if neg then .fin true (2 ^ f.bits - n) 0 else .fin false n 0
  else
    let b := n % 2 ^ (f.bits - 1)
    let e := b / 2 ^ f.mbits
    let m := b % 2 ^ f.mbits
    let top := 2 ^ (f.bits - 1 - f.mbits) - 1
    if f.hasInf && e == top then (if m == 0 then .inf neg else .nan)
    else if f == .e4m3 && b == 0x7F then .nan
    else if e == 0 then .fin neg m (1 - f.bias - f.mbits)
    else .fin neg (2 ^ f.mbits + m) ((e : Int) - f.bias - f.mbits)

/-- Floor of the binary logarithm of a positive finite magnitude `m * 2^e`. -/
def magExp (m : Nat) (e : Int) : Int := (Nat.log2 m : Int) + e

/-- `m * 2^k` for `k ≥ 0`, floor of it for `k < 0`. -/
def shiftInt (m : Nat) (k : Int) : Nat := if 0 ≤ k then m <<< k.toNat else m >>> (-k).toNat

/-- `m1 * 2^e1 ≤ m2 * 2^e2`. -/
def magLe (m1 : Nat) (e1 : Int) (m2 : Nat) (e2 : Int) : Bool :=
  let e := min e1 e2
  decide (m1 <<< (e1 - e).toNat ≤ m2 <<< (e2 - e).toNat)

/-- The rounding modes of R181, the stochastic one with its draw (R184). -/
inductive RMode where
  | nearestEven
  | towardZero
  | stochastic (draw : Nat)
deriving DecidableEq, Repr

/-- R181, R184: the number of quanta `2^q` that the magnitude `m * 2^e` rounds to. -/
def roundQuanta (mode : RMode) (m : Nat) (e q : Int) : Nat :=
  if q ≤ e then m <<< (e - q).toNat
  else
    let sh := (q - e).toNat
    let lo := m >>> sh
    let rem := m - (lo <<< sh)
    match mode with
    | .towardZero => lo
    | .nearestEven =>
      let half := 2 ^ (sh - 1)
      if half < rem || (rem == half && lo % 2 == 1) then lo + 1 else lo
    | .stochastic draw => if 65536 ≤ rem * 65536 / 2 ^ sh + draw then lo + 1 else lo

/-- One converted element: its bits, the saturations and the flushes it counts. -/
structure Elem where
  bits : Nat
  sat : Nat
  flush : Nat
deriving DecidableEq, Repr

/-- R181 and Table 5.4: round a value and place it in the target format. -/
def Fmt.convert (f : Fmt) (mode : RMode) (y : Num) : Elem :=
  match y with
  | .nan => match f.nanBits with
    | some b => ⟨b, 0, 0⟩
    | none => ⟨0, 1, 0⟩
  | .inf neg =>
    if f.isInt then
      ⟨if neg then f.maxBits + 1 else f.maxBits, 1, 0⟩
    else if f.hasInf then ⟨f.signBit neg + f.infBits, 0, 0⟩
    else ⟨f.signBit neg + f.maxBits, 1, 0⟩
  | .fin neg m e =>
    if m == 0 then ⟨if f.isInt then 0 else f.signBit neg, 0, 0⟩
    else if f.isInt then
      let k := roundQuanta mode m e 0
      if k == 0 then ⟨0, 0, 1⟩
      else if neg then
        if f.maxBits + 1 < k then ⟨f.maxBits + 1, 1, 0⟩ else ⟨2 ^ f.bits - k, 0, 0⟩
      else if f.maxBits < k then ⟨f.maxBits, 1, 0⟩ else ⟨k, 0, 0⟩
    else
      let emin := 1 - f.bias
      let ey := max (magExp m e) emin
      let k := roundQuanta mode m e (ey - f.mbits)
      if k == 0 then ⟨f.signBit neg, 0, 1⟩
      else
        let b := ((ey - emin).toNat <<< f.mbits) + k
        if f.maxBits < b then
          if mode != .towardZero && (f == .fp32 || f == .bf16 || f == .fp16) then
            ⟨f.signBit neg + f.infBits, 1, 0⟩
          else ⟨f.signBit neg + f.maxBits, 1, 0⟩
        else ⟨f.signBit neg + b, 0, 0⟩

/-- The value of an FP32 word. -/
def f32 (b : BitVec 32) : Num := Fmt.decode .fp32 b.toNat

/-- One rounding to FP32 (R194): the word and the saturations of Tables 5.9 and 5.10 (no flush is counted). -/
def roundF32 (x : Num) : BitVec 32 × Nat :=
  let r := Fmt.convert .fp32 .nearestEven x
  (BitVec.ofNat 32 r.bits, r.sat)

def Num.neg : Num → Num
  | .nan => .nan
  | .inf s => .inf (!s)
  | .fin s m e => .fin (!s) m e

def Num.abs : Num → Num
  | .nan => .nan
  | .inf _ => .inf false
  | .fin _ m e => .fin false m e

def Num.isNan : Num → Bool
  | .nan => true
  | _ => false

def Num.isFin : Num → Bool
  | .fin _ _ _ => true
  | _ => false

def Num.isZero : Num → Bool
  | .fin _ m _ => m == 0
  | _ => false

def Num.isNeg : Num → Bool
  | .nan => false
  | .inf s => s
  | .fin s _ _ => s

/-- Multiply by `2^k`, exactly. -/
def Num.scale2 (k : Int) : Num → Num
  | .fin s m e => .fin s m (e + k)
  | x => x

/-- Table 5.10, the exact product. -/
def Num.mul : Num → Num → Num
  | .nan, _ => .nan
  | _, .nan => .nan
  | .inf a, .inf b => .inf (a != b)
  | .inf a, .fin b m _ => if m == 0 then .nan else .inf (a != b)
  | .fin a m _, .inf b => if m == 0 then .nan else .inf (a != b)
  | .fin a m e, .fin b n g => .fin (a != b) (m * n) (e + g)

/-- Signed integer `±m * 2^(e - base)` for `base ≤ e`. -/
def signedAt (base : Int) : Num → Int
  | .fin s m e => let v : Int := (m <<< (e - base).toNat : Nat); if s then -v else v
  | _ => 0

/-- Table 5.9, the exact sum (before its rounding). -/
def exactSum (ts : List Num) : Num :=
  if ts.any Num.isNan then .nan
  else if ts.any (· == .inf false) && ts.any (· == .inf true) then .nan
  else if ts.any (· == .inf false) then .inf false
  else if ts.any (· == .inf true) then .inf true
  else if ts.all (fun t => t.isNeg && t.isZero) then .fin true 0 0
  else
    let base := ts.foldl (fun b t => match t with
      | .fin _ m e => if m == 0 then b else min b e
      | _ => b) (0 : Int)
    let s := ts.foldl (fun a t => if t.isZero then a else a + signedAt base t) (0 : Int)
    if s == 0 then .fin false 0 0 else .fin (decide (s < 0)) s.natAbs base

/-- R195: the order used by MAX, MIN and the comparisons; -0 lies below +0 when `zeros` is set. -/
def Num.lt (zeros : Bool) (a b : Num) : Bool :=
  match a, b with
  | .nan, _ => false
  | _, .nan => false
  | .inf s, .inf t => s && !t
  | .inf s, .fin _ _ _ => s
  | .fin _ _ _, .inf t => !t
  | .fin s m e, .fin t n g =>
    if m == 0 && n == 0 then zeros && s && !t
    else
      let base := min e g
      decide (signedAt base (.fin s m e) < signedAt base (.fin t n g))

/-- R195: MAX gives NaN when either operand is NaN. -/
def Num.max (a b : Num) : Num :=
  if a.isNan || b.isNan then .nan else if a.lt true b then b else a

/-- R195: MIN gives NaN when either operand is NaN. -/
def Num.min (a b : Num) : Num :=
  if a.isNan || b.isNan then .nan else if b.lt true a then b else a

/-- R180: the block scale for a block whose largest finite magnitude is `m * 2^e` (zero: 127). -/
def chooseScale (m : Nat) (e : Int) (f : Fmt) : Nat :=
  if m == 0 then 127
  else
    let (fm, fe) := f.maxF
    let big := magExp m e
    let top := magExp fm fe
    let s := if magLe m (e - big) fm (fe - top) then big - top + 127 else big - top + 128
    if s < 0 then 0 else if 254 < s then 254 else s.toNat

/-- R179: the FP32 magnitude recorded for an exact integer magnitude, rounded away from zero. -/
def magF32Up (m : Nat) : Nat :=
  if m == 0 then 0
  else
    let k := Nat.log2 m
    let sh := k - 23
    let q := (m + 2 ^ sh - 1) >>> sh
    (Fmt.convert .fp32 .nearestEven (.fin false q sh)).bits

/-- R185: the mixing function. -/
def mix32 (h : BitVec 32) : BitVec 32 :=
  let h := h ^^^ (h >>> 16)
  let h := h * 0x7FEB352D#32
  let h := h ^^^ (h >>> 15)
  let h := h * 0x846CA68B#32
  h ^^^ (h >>> 16)

/-- R185: the stochastic-rounding draw. -/
def srDraw (seed : BitVec 64) (step : BitVec 32) (index : BitVec 64) : Nat :=
  let a := mix32 (seed.truncate 32 ^^^ index.truncate 32)
  let b := a ^^^ (seed >>> 32).truncate 32 ^^^ (index >>> 32).truncate 32 ^^^ step.rotateLeft 16
  (mix32 b).toNat >>> 16

/-! ## Special functions (R160, R161, R196)

A result is an exact value, or a value truncated far below every rounding boundary with a sticky low bit set
(so that one later rounding of it equals the rounding of the exact real number). -/

/-- Integer square root by Newton's method; `fuel` bounds the iterations. -/
def isqrtLoop (fuel n x : Nat) : Nat :=
  match fuel with
  | 0 => x
  | fuel + 1 => let y := (x + n / x) / 2; if x ≤ y then x else isqrtLoop fuel n y

def isqrt (n : Nat) : Nat :=
  if n == 0 then 0 else isqrtLoop (Nat.log2 n + 4) n (2 ^ (Nat.log2 n / 2 + 1))

/-- Sum of `r^n / n!` in fixed point with `p` fraction bits, `0 ≤ r`. -/
def expLoop (fuel p r n term acc : Nat) : Nat :=
  match fuel with
  | 0 => acc
  | fuel + 1 =>
    let t := ((term * r) >>> p) / n
    if t == 0 then acc else expLoop fuel p r (n + 1) t (acc + t)

/-- `e^r`, `r` in fixed point. -/
def expFix (p r : Nat) : Nat := expLoop (p + 16) p r 1 (2 ^ p) (2 ^ p)

/-- Sum of `z^(2k+1)/(2k+1)` (inverse hyperbolic tangent), fixed point. -/
def atanhLoop (fuel p z2 k pow acc : Nat) : Nat :=
  match fuel with
  | 0 => acc
  | fuel + 1 =>
    if pow == 0 then acc else atanhLoop fuel p z2 (k + 1) ((pow * z2) >>> p) (acc + pow / (2 * k + 1))

def atanhFix (p z : Nat) : Nat := atanhLoop (p + 16) p ((z * z) >>> p) 0 z 0

/-- ln 2 in fixed point. -/
def ln2Fix (p : Nat) : Nat := 2 * atanhFix p (2 ^ p / 3)

/-- Alternating sum of `(1/x)^(2k+1)/(2k+1)` (arc tangent of 1/x), fixed point. -/
def atanInvLoop (fuel x2 k : Nat) (pow : Nat) (acc : Int) : Int :=
  match fuel with
  | 0 => acc
  | fuel + 1 =>
    if pow == 0 then acc
    else atanInvLoop fuel x2 (k + 1) (pow / x2)
      (if k % 2 == 0 then acc + (pow / (2 * k + 1) : Nat) else acc - (pow / (2 * k + 1) : Nat))

/-- π in fixed point, by Machin's formula. -/
def piFix (p : Nat) : Nat :=
  let g := p + 16
  ((16 * atanInvLoop (g + 8) 25 0 (2 ^ g / 5) 0 - 4 * atanInvLoop (g + 8) 57121 0 (2 ^ g / 239) 0).toNat) >>> 16

/-- `e^x` for `x = ±v * 2^-p`: (L, k) with the value near `L * 2^(k - p)`. -/
def expGen (p : Nat) (neg : Bool) (v : Nat) : Nat × Int :=
  let l := ln2Fix p
  let x : Int := if neg then -(v : Int) else v
  let k := x / (l : Int)
  (expFix p (x - k * l).toNat, k)

/-- `e^-v` as a fixed-point number with `p` fraction bits. -/
def expNegFix (p v : Nat) : Nat := let (l, k) := expGen p true v; shiftInt l k

/-- Natural logarithm of `y` in [1, 2), fixed point. -/
def lnFix (p y : Nat) : Nat := 2 * atanhFix p (((y - 2 ^ p) <<< p) / (y + 2 ^ p))

/-- Natural logarithm of `m * 2^e` (`m` positive), as a signed fixed-point number. -/
def lnGen (p m : Nat) (e : Int) : Int :=
  let k := magExp m e
  let y := shiftInt m ((p : Int) - Nat.log2 m)
  if 3 * 2 ^ p ≤ 2 * y then
    -- y in [1.5, 2): y / 2 in [0.75, 1), its logarithm is minus that of 2 / y
    (k + 1) * (ln2Fix p : Int) - (lnFix p ((2 ^ (2 * p + 1)) / y) : Int)
  else k * (ln2Fix p : Int) + (lnFix p y : Int)

/-- Sine and cosine sums of `r` (fixed point): terms `r^n / n!` with the signs of the series. -/
def trigLoop (fuel p r2 n : Nat) (neg : Bool) (term : Nat) (acc : Int) : Int :=
  match fuel with
  | 0 => acc
  | fuel + 1 =>
    if term == 0 then acc
    else trigLoop fuel p r2 (n + 2) (!neg) (((term * r2) >>> p) / ((n + 1) * (n + 2)))
      (if neg then acc - (term : Int) else acc + (term : Int))

def sinFix (p r : Nat) : Nat := (trigLoop (p + 16) p ((r * r) >>> p) 1 false r 0).toNat
def cosFix (p r : Nat) : Nat := (trigLoop (p + 16) p ((r * r) >>> p) 0 false (2 ^ p) 0).toNat

/-- Sum of `(2 t^2)^n / (1 * 3 * ... * (2n+1))`, fixed point (`u = 2 t^2`). -/
def erfLoop (fuel p u n term acc : Nat) : Nat :=
  match fuel with
  | 0 => acc
  | fuel + 1 =>
    let t := ((term * u) >>> p) / (2 * n + 3)
    if t == 0 then acc else erfLoop fuel p u (n + 1) t (acc + t)

/-- `erf t` for `t ≥ 0` (fixed point), with `t2 = t^2` in fixed point. -/
def erfFix (p t t2 : Nat) : Nat :=
  let s := erfLoop (4 * p + 1024) p (2 * t2) 0 (2 ^ p) (2 ^ p)
  let (l, k) := expGen p true t2
  let c := isqrt ((2 ^ (3 * p + 2)) / piFix p)        -- 2 / sqrt π
  shiftInt (((((((s * l) >>> p) * t)) >>> p) * c) >>> p) k

/-- A fixed-point approximation within 2^20 units, when it settles every rounding: dropped by 40 bits. -/
def settle (l : Nat) : Option Nat :=
  let lo := (l - 2 ^ 20) >>> 40
  if lo == (l + 2 ^ 20) >>> 40 && decide (2 ^ 70 ≤ lo) then some lo else none

/-- A value just below `m * 2^e` in magnitude, nearer than any rounding boundary. -/
def justBelow (neg : Bool) (m : Nat) (e : Int) : Num := .fin neg ((m <<< 200) - 1) (e - 200)

/-- The transcendental functions: a fixed-point approximation `(neg, L)` of `f(x)` with `p` fraction bits. -/
def approx (func p : Nat) (neg : Bool) (m : Nat) (e : Int) : Bool × Nat × Int :=
  let v := shiftInt m (e + p)                 -- |x|, fixed point
  let one := 2 ^ p
  match func with
  | 0x03 => let (l, k) := expGen p neg v; (false, l, k)
  | 0x04 =>
    let x : Int := if neg then -(v : Int) else v
    let k := x / (one : Int)
    let r := (x - k * one).toNat
    (false, expFix p ((r * ln2Fix p) >>> p), k)
  | 0x05 => let l := lnGen p m e; (decide (l < 0), l.natAbs, 0)
  | 0x06 => let l := lnGen p m e; (decide (l < 0), (l.natAbs <<< p) / ln2Fix p, 0)
  | 0x07 =>
    let q := expNegFix p v
    (false, (if neg then q <<< p else one <<< p) / (one + q), 0)
  | 0x08 =>
    let q := expNegFix p (2 * v)
    (neg, ((one - q) <<< p) / (one + q), 0)
  | 0x09 => (neg, erfFix p v ((v * v) >>> p), 0)
  | 0x0A =>
    let t2 := (v * v) >>> (p + 1)
    let t := isqrt ((v * v) / 2)
    let q := erfFix p t t2
    (neg, (v * (if neg then one - q else one + q)) >>> (p + 1), 0)
  | 0x0B =>
    let q := expNegFix p v
    (neg, (v * ((if neg then q <<< p else one <<< p) / (one + q))) >>> p, 0)
  | _ =>
    let extra := (max 0 (magExp m e + 2)).toNat
    let g := p + extra
    let half := piFix g / 2
    let x := shiftInt m (e + g)
    let n := x / half
    let r := (x % half) >>> extra
    let k := (n + (if func == 0x0D then 1 else 0)) % 4
    let l := if k % 2 == 0 then sinFix p r else cosFix p r
    ((decide (2 ≤ k)) != (neg && func != 0x0D), l, 0)

/-- R162: a wider evaluation follows whenever the interval of the result holds a rounding boundary. -/
def zivLoop (fuel func p : Nat) (neg : Bool) (m : Nat) (e : Int) : Num :=
  let (s, l, k) := approx func p neg m e
  match settle l with
  | some q => .fin s (2 * q + 1) (k - p + 39)
  | none =>
    match fuel with
    | 0 => .fin s (2 * l + 1) (k - p - 1)
    | fuel + 1 => zivLoop fuel func (2 * p) neg m e

/-- The exact value of a special function at a finite nonzero argument, ready for its one rounding. -/
def funcOrdinary (func : Nat) (neg : Bool) (m : Nat) (e : Int) : Num :=
  let big := magExp m e
  let one := fun (n : Nat) (k : Int) => magLe m e n k && magLe n k m e     -- |x| = n * 2^k
  match func with
  | 0x00 =>
    let n := Nat.log2 m + 200
    let q := 2 ^ n / m
    .fin neg (2 * q + (if q * m == 2 ^ n then 0 else 1)) (-(n : Int) - e - 1)
  | 0x01 =>
    if neg then .nan
    else
      let m' := if e % 2 == 0 then m else 2 * m
      let e' := if e % 2 == 0 then e else e - 1
      let n := Nat.log2 m + 200
      let q := isqrt (2 ^ (2 * n) / m')
      .fin false (2 * q + (if q * q * m' == 2 ^ (2 * n) then 0 else 1)) (-(n : Int) - e' / 2 - 1)
  | 0x02 =>
    if neg then .nan
    else
      let m' := if e % 2 == 0 then m else 2 * m
      let e' := if e % 2 == 0 then e else e - 1
      let q := isqrt (m' <<< 400)
      .fin false (2 * q + (if q * q == m' <<< 400 then 0 else 1)) (e' / 2 - 200 - 1)
  | 0x03 =>
    if 10 ≤ big then .fin false 3 (if neg then -2000 else 2000) else zivLoop 6 func 192 neg m e
  | 0x04 =>
    if 11 ≤ big then .fin false 3 (if neg then -2000 else 2000)
    else if 0 ≤ e || m % 2 ^ (-e).toNat == 0 then
      let k : Int := shiftInt m e
      .fin false 1 (if neg then -k else k)
    else zivLoop 6 func 192 neg m e
  | 0x05 => if neg then .nan else if one 1 0 then .fin false 0 0 else zivLoop 6 func 192 neg m e
  | 0x06 =>
    if neg then .nan
    else if m == 2 ^ Nat.log2 m then
      if big == 0 then .fin false 0 0 else .fin (decide (big < 0)) big.natAbs 0
    else zivLoop 6 func 192 neg m e
  | 0x07 =>
    if 8 ≤ big then (if neg then .fin false 1 (-400) else justBelow false 1 0) else zivLoop 6 func 192 neg m e
  | 0x08 => if 7 ≤ big then justBelow neg 1 0 else zivLoop 6 func 192 neg m e
  | 0x09 => if 4 ≤ big then justBelow neg 1 0 else zivLoop 6 func 192 neg m e
  | 0x0A =>
    if 5 ≤ big then (if neg then .fin true 1 (-400) else justBelow false m e) else zivLoop 6 func 512 neg m e
  | 0x0B =>
    if 8 ≤ big then (if neg then .fin true 1 (-300) else justBelow false m e) else zivLoop 6 func 192 neg m e
  | 0x0C => zivLoop 6 func 192 neg m e
  | _ => zivLoop 6 func 192 neg m e

/-- R196, Table 5.11: special functions at special arguments; every other argument by its exact value. -/
def funcVal (func : Nat) (x : Num) : Num :=
  match x with
  | .nan => .nan
  | .inf neg =>
    match func with
    | 0x00 => .fin neg 0 0
    | 0x01 => if neg then .nan else .fin false 0 0
    | 0x02 => if neg then .nan else .inf false
    | 0x03 | 0x04 => if neg then .fin false 0 0 else .inf false
    | 0x05 | 0x06 => if neg then .nan else .inf false
    | 0x07 => if neg then .fin false 0 0 else .fin false 1 0
    | 0x08 | 0x09 => .fin neg 1 0
    | 0x0A | 0x0B => if neg then .fin true 0 0 else .inf false
    | _ => .nan
  | .fin neg m e =>
    if m == 0 then
      match func with
      | 0x00 | 0x01 => .inf neg
      | 0x02 => .fin neg 0 0
      | 0x03 | 0x04 => .fin false 1 0
      | 0x05 | 0x06 => .inf true
      | 0x07 => .fin false 1 (-1)
      | 0x08 | 0x09 | 0x0A | 0x0B | 0x0C => .fin neg 0 0
      | _ => .fin false 1 0
    else funcOrdinary func neg m e

/-- R160, described profile: an FP32 result lies within one unit in the last place of the exact rounding; which value it
is may differ between firmware major versions (R12). -/
def nudgeUlp (major func : Nat) (arg : Num) (r : BitVec 32) : BitVec 32 :=
  match arg with
  | .fin neg m e =>
    if m == 0 then r
    else
      let mag := r.toNat % 2 ^ 31
      if mag == 0 || 0x7F7FFFFF < mag then r
      else match Config.freeUlp major func ((m * 2 + neg.toNat) * 2048 + (e + 1024).toNat) with
        | 0 => r
        | 1 => if mag == 0x7F7FFFFF then r else r + 1
        | _ => r - 1
  | _ => r

end Sys2Proof.Machine
end

