-- ==== Sys2Proof/Machine/Memory.lean ====
section
/-!
DEFINITION. Machine/Memory.lean: sparse storage in one canonical form.  A `Ram w` lists (address, cell) pairs with
strictly rising addresses and no cell of value 0; an unlisted address reads as 0 (log entry 5).  `Memory` is the
byte-wide one (Host.Cell).  A `Tab` is a table with rising keys whose absent entries stand for a default.
-/
namespace Sys2Proof.Machine

/-- Sparse storage of `w`-bit cells. -/
abbrev Ram (w : Nat) := List (Nat × BitVec w)

/-- Byte-addressed memory: a list of cells in canonical form. -/
abbrev Memory := List Host.Cell

/-- Rising keys, and no cell that equals what an unlisted address reads as. -/
def Ram.wf {w : Nat} : Ram w → Bool
  | [] => true
  | [(_, v)] => v != 0
  | (a, v) :: (b, u) :: rest => v != 0 && decide (a < b) && Ram.wf ((b, u) :: rest)

/-- The canonical form of a memory. -/
def Memory.wf (m : Memory) : Bool := Ram.wf m

/-- Read one cell; an unlisted address reads as 0. -/
def Ram.read {w : Nat} (m : Ram w) (a : Nat) : BitVec w :=
  match m with
  | [] => 0
  | (b, v) :: rest => if a = b then v else Ram.read rest a

/-- The nonzero cells of a number cut into `n` cells of `w` bits, from address `a` up. -/
def Ram.cells (w a : Nat) : Nat → Nat → Ram w
  | 0, _ => []
  | n + 1, v =>
    let c := BitVec.ofNat w v
    let rest := Ram.cells w (a + 1) n (v >>> w)
    if c = 0 then rest else (a, c) :: rest

/-- Replace the `n` cells from address `a` by the little-endian number `v`. -/
def Ram.blit {w : Nat} (m : Ram w) (a n v : Nat) : Ram w :=
  m.filter (fun c => decide (c.1 < a)) ++ Ram.cells w a n v ++ m.filter (fun c => decide (a + n ≤ c.1))

/-- The `n` cells from address `a` read 0 again. -/
def Ram.clear {w : Nat} (m : Ram w) (a n : Nat) : Ram w := m.filter (fun c => decide (c.1 < a) || decide (a + n ≤ c.1))

/-- Write one cell. -/
def Ram.write {w : Nat} (m : Ram w) (a : Nat) (v : BitVec w) : Ram w := Ram.blit m a 1 v.toNat

/-- The `n` cells from address `a` as one little-endian number. -/
def Ram.slice {w : Nat} (m : Ram w) (a n : Nat) : Nat :=
  m.foldl (fun acc c => if a ≤ c.1 && decide (c.1 < a + n) then acc + (c.2.toNat <<< (w * (c.1 - a))) else acc) 0

/-- Little-endian bytes as a number. -/
def bytesToNat : List (BitVec 8) → Nat
  | [] => 0
  | b :: rest => b.toNat + 256 * bytesToNat rest

/-- The `n` low bytes of a number, least significant first. -/
def natToBytes : Nat → Nat → List (BitVec 8)
  | 0, _ => []
  | n + 1, v => BitVec.ofNat 8 v :: natToBytes n (v / 256)

/-- A table with rising keys. -/
abbrev Tab (α : Type) := List (Nat × α)

def Tab.find {α : Type} (t : Tab α) (k : Nat) : Option α :=
  match t with
  | [] => none
  | (j, v) :: rest => if k = j then some v else Tab.find rest k

/-- An entry, or the default where it is absent. -/
def Tab.getD {α : Type} (t : Tab α) (k : Nat) (d : α) : α := (Tab.find t k).getD d

/-- Set one entry, keeping the keys rising. -/
def Tab.set {α : Type} (t : Tab α) (k : Nat) (v : α) : Tab α :=
  match t with
  | [] => [(k, v)]
  | (j, u) :: rest =>
    if k < j then (k, v) :: (j, u) :: rest
    else if k = j then (k, v) :: rest
    else (j, u) :: Tab.set rest k v

def Tab.erase {α : Type} (t : Tab α) (k : Nat) : Tab α := t.filter (fun e => e.1 != k)

def Tab.keys {α : Type} (t : Tab α) : List Nat := t.map (·.1)

/-- Set entries `k`, `k + 1`, ... to the values of a list. -/
def Tab.setAll {α : Type} (t : Tab α) (k : Nat) : List α → Tab α
  | [] => t
  | v :: rest => Tab.setAll (Tab.set t k v) (k + 1) rest

end Sys2Proof.Machine
end

