-- ==== Sys2Proof/Machine/CoreTypes.lean ====
section
/-!
DEFINITION. Machine/CoreTypes.lean: the state of the units, of one core and of one quadrant supervisor, as plain
data (chapters 2, 3, 4, 6, 7, 9 and 11).
-/
namespace Sys2Proof.Machine

/-- R56: a 512-byte payload and its 32-bit tag. -/
structure Token where
  payload : BitVec 4096
  tag : BitVec 32
deriving DecidableEq, Repr

/-- An open loop of a context (R70, R125). -/
structure Loop where
  /-- index of the LOOP_BEGIN -/
  first : Nat
  /-- index of the matching LOOP_END -/
  last : Nat
  /-- effective trip count -/
  trips : Nat
  /-- trips completed -/
  trip : Nat
  /-- length register, 15 for none -/
  lenReg : Nat
deriving DecidableEq, Repr

/-- A started, unretired word of a unit (R72, R115, R209). -/
structure Flight where
  pos : Nat
  word : BitVec 128
  ctx : Nat
  /-- tokens or slots taken so far from source A (or written, released, sent: the word's own count) -/
  takenA : Nat := 0
  /-- tokens taken so far from source B -/
  takenB : Nat := 0
  /-- the effect is formed; only tokens wait to be sent -/
  done : Bool := false
  /-- its read found an uncorrected error: it never completes (R217) -/
  failed : Bool := false
  /-- tokens formed and not yet presented at the ports of OUT_MASK -/
  outbox : List Token := []
  /-- ports at which the last presented token still waits for its acknowledge -/
  waits : List Nat := []
  /-- tokens taken and not yet used -/
  inbox : List Token := []
  /-- effective extents fixed when the word started: rows, columns, K -/
  m : Nat := 0
  n : Nat := 0
  k : Nat := 0
  /-- OCC of the word's record when it started (R187) -/
  occ : Nat := 0
  /-- counts and running maximum of this run (R188) -/
  sat : Nat := 0
  flush : Nat := 0
  runmax : Nat := 0
deriving DecidableEq, Repr

/-- One stored context of a unit (Table 2.6). -/
structure Ctx where
  /-- index of the image loaded, none while no image is loaded -/
  image : Option Nat := none
  words : Ram 128 := []
  consts : Ram 64 := []
  routes : Ram 32 := []
  /-- ownership pattern entries, key 64 * link + entry -/
  patterns : Ram 16 := []
  /-- lane capacities, byte p for port p -/
  caps : BitVec 32 := 0
  /-- output channel table, four u16 entries (R557) -/
  outTab : BitVec 64 := 0
  predInit : Ram 2048 := []
  pred : Ram 2048 := []
  pos : Nat := 0
  loops : List Loop := []
  /-- the last word retired was a YIELD, or the context has not been started -/
  yielded : Bool := true
  expect : Ram 32 := []
  /-- conversion records (Table 5.7), key word position -/
  records : Ram 128 := []
  /-- position of each outgoing link in its pattern: (entry, tokens carried of the entry) -/
  linkPos : Tab (Nat × Nat) := []
deriving DecidableEq, Repr

/-- A reload of one context by the sequencer (R76). -/
structure Reload where
  ctx : Nat
  image : Nat
  /-- lane k is held: the reload has begun -/
  begun : Bool
  /-- context writes made -/
  count : Nat
  writes : Ram 128
deriving DecidableEq, Repr

/-- An accumulator bank (R101): elements not listed read 0 when `zeroed`, else they are undefined (R136). -/
structure Bank where
  zeroed : Bool := false
  cells : Tab (BitVec 32) := []
deriving DecidableEq, Repr

/-- One entry of the finished-tile queue (R139). -/
structure FtqEntry where
  fmt : Nat
  scale : Nat
  nw : Nat
  ctx : Nat
  ready : Bool
  units : List (BitVec 4096)
deriving DecidableEq, Repr

/-- What only a CU holds (Tables 3.1, 3.8, 4.1, 4.10, 5.13). -/
structure Cu where
  bank0 : Bank := {}
  bank1 : Bank := {}
  /-- operand buffer, key 128 * half + unit -/
  buf : Tab (BitVec 4096) := []
  /-- units never written read 0 (after a resumption, R362) rather than being undefined (R136) -/
  bufZeroed : Bool := false
  ftq : List FtqEntry := []
  mmSteps : Nat := 0
  skippedTrips : Nat := 0
  vecSteps : Nat := 0
  sfuHard : Nat := 0
  ftqWait : Nat := 0
  satTotal : Nat := 0
  flushTotal : Nat := 0
  runmax : Nat := 0
deriving DecidableEq, Repr

/-- A circular region (Tables 6.2, 6.6). -/
structure Desc where
  cfg : BitVec 28 := 0
  valid : Bool := false
  head : Nat := 0
  tail : Nat := 0
  count : Nat := 0
deriving DecidableEq, Repr

/-- A spill descriptor (Table 6.6). -/
structure SpillDesc where
  base : Nat := 0
  cap : Nat := 0
  valid : Bool := false
  owner : BitVec 32 := 0xFFFFFFFF#32
  head : Nat := 0
  tail : Nat := 0
  count : Nat := 0
  /-- a read of its oldest entry found an uncorrected error: the token is never delivered (R217) -/
  failed : Bool := false
deriving DecidableEq, Repr

/-- What only an MU holds (Tables 6.1, 6.6). -/
structure Mu where
  ram : Ram 256 := []
  descs : Tab Desc := []
  spills : Tab SpillDesc := []
  classMap : BitVec 64 := 0
  usedSlots : Nat := 0
  /-- steps of zeroing left (R219); INIT_BUSY while not 0 -/
  initLeft : Nat := 0
  eccFatal : Bool := false
  corrAct : Nat := 0
  corrWgt : Nat := 0
  fatalWord : Nat := 0
  fatalClass : Bool := false
  fatalScrub : Bool := false
  fatalValid : Bool := false
  scrubPos : Nat := 0
  scrubPasses : BitVec 32 := 0
  bankSteps : Nat := 0
  /-- words of a corrected error that wait to be written back (R216) -/
  writeBack : List Nat := []
  /-- steps until the scrubber may read again (R218) -/
  scrubWait : Nat := 0
  /-- weight-class segments with an uncorrected error found while the section was not running (R218) -/
  scrubBad : Bool := false
deriving DecidableEq, Repr

/-- One CU or MU with its harness node. -/
structure Unit where
  ctxs : Tab Ctx := []
  active : Nat := 0
  idle : Bool := true
  /-- a switch command waiting at the context port -/
  switchReq : Option Nat := none
  reload : Option Reload := none
  /-- lane tokens, key 4 * port + lane -/
  lanes : Tab (List Token) := []
  /-- lanes held by a configuration load, as a mask over contexts -/
  held : Nat := 0
  /-- the node's border links are FENCED, as a mask over links -/
  fenced : Nat := 0
  /-- token presented at each output port -/
  out : Tab Token := []
  /-- token held at the node by incoming link: 0 to 3 left, right, up, down; 4 to 7 the edge links -/
  latch : Tab Token := []
  flight : List Flight := []
  /-- one of its ports has completed Order 4 since the last reference step (R261) -/
  moved : Bool := false
  /-- stall counters, key cause 0 to 6 (Table 7.8) -/
  stalls : Tab Nat := []
  /-- resets so far: indexes the undefined contents -/
  epoch : Nat := 0
  cu : Cu := {}
  mu : Mu := {}
deriving DecidableEq, Repr

/-- A message of the CONTROL channel to a core sequencer (R44, R455). -/
inductive CtrlMsg where
  | suspend
  | resume
  | halt
  | cfgBegin (mode ctx units : Nat)
  /-- a frame of 4,116 bytes, with the image of its context (log entry 22) -/
  | cfgFrame (image : Option Nat) (frame : Memory)
  | cfgCommit
  | cfgAbort
deriving DecidableEq, Repr

/-- EPH_STATUS.STATE (Table 11.9). -/
inductive SeqState where
  | idle | issuing | waiting | suspended | finished | halted
deriving DecidableEq, Repr

/-- The Ephemeris of one core and its sequencer (Tables 11.1, 11.3, 11.9). -/
structure Seq where
  state : SeqState := .idle
  entries : Ram 256 := []
  count : Nat := 0
  cycleFirst : Nat := 0
  cycleLast : Nat := 0
  lenReg : Nat := 15
  trips : Nat := 0
  /-- entry in progress, or next to start -/
  entry : Nat := 0
  /-- the entry has been started and has not retired -/
  started : Bool := false
  /-- its one-time part is done: an arrival or a start that is not repeated (R300, R352) -/
  acted : Bool := false
  tripsDone : Nat := 0
  retired : Nat := 0
  chunks : Nat := 0
  /-- units a UNITS entry still waits for: 4 * unit + 2 * (reload due) + (switch due) -/
  unitsLeft : List Nat := []
  /-- rounds of a barrier that the core has arrived at, key 2 * barrier, and releases received, key 2 * barrier + 1 -/
  rounds : Tab Nat := []
  /-- the wait outstanding at a tally has been released -/
  waitDone : Bool := false
  /-- barrier and round of a marked release: the core stops after the wait that retires on it (Tables 11.8, 12.8) -/
  stopAt : Option (Nat × Nat) := none
  /-- that release ends an epoch; and: the core has stopped at it, and goes on only with the next command (Table 12.8) -/
  markEpoch : Bool := false
  epochStop : Bool := false
deriving DecidableEq, Repr

/-- R455: the configuration stream open at a core. -/
structure CfgState where
  open_ : Bool := false
  mode : Nat := 0
  ctx : Nat := 0
  /-- mask of the units named, bit 10 * row + column -/
  units : Nat := 0
  ready : Nat := 0
  frames : Nat := 0
  /-- frames staged, with their images (MODE 2) -/
  staged : List (Option Nat × Memory) := []
deriving DecidableEq, Repr

/-- One entry of a load queue (R248). -/
structure LoadEntry where
  slot : Nat
  tile : Nat
  idx : Nat
  addr : Nat
  data : Option (BitVec 4096)
deriving DecidableEq, Repr

/-- One entry of a store queue (R249). -/
structure StoreEntry where
  slot : Nat
  tile : Nat
  addr : Nat
  data : BitVec 4096
  /-- the stream engine has requested the write (R259) -/
  issued : Bool := false
deriving DecidableEq, Repr

/-- One stream slot (R254, Table 7.10). -/
structure Slot where
  active : Bool := false
  desc : Nat := 0
  /-- the descriptor's 48 bytes -/
  words : BitVec 384 := 0
  /-- effective counts 0 to 2 -/
  c0 : Nat := 0
  c1 : Nat := 0
  c2 : Nat := 0
  /-- oldest tile not wholly sent or written -/
  tile : Nat := 0
  /-- entries sent of that tile and of the tiles after it -/
  sent : List Nat := []
  /-- next tile and entry to request or accept -/
  reqTile : Nat := 0
  reqIdx : Nat := 0
  /-- entries written of store tiles -/
  written : Nat := 0
  done : BitVec 32 := 0
  gate : BitVec 32 := 0
  pending : Nat := 0
  bytes : Nat := 0
  /-- filled tiles counted in DONE -/
  filled : Nat := 0
deriving DecidableEq, Repr

/-- One way of the translation cache (R240). -/
structure TcEntry where
  page : Nat
  entry : BitVec 64
  /-- entries of a far-tier page read since the last AFFINITY step (R242) -/
  reads : Nat
deriving DecidableEq, Repr

/-- Channel endpoint states (Table 9.4). -/
inductive EpState where
  | idle | listen | pending | open_ | closing | closed
deriving DecidableEq, Repr

/-- A connection's name: node, physical or logical core of the sender, endpoint. -/
structure EpName where
  node : Nat
  core : Nat
  ep : Nat
deriving DecidableEq, Repr

/-- A channel endpoint (Tables 9.3 to 9.7). -/
structure Ep where
  /-- 0 none, 1 receive, 2 send -/
  role : Nat := 0
  state : EpState := .idle
  gen : Nat := 0
  slot : Nat := 0
  credits : Nat := 0
  rxEntries : Nat := 0
  hchan : Nat := 0
  tap : Nat := 0
  ctx : Nat := 0
  /-- send: the receiving endpoint -/
  dest : EpName := ⟨0, 0, 0⟩
  /-- receive: open requests held, by slot: sender and its GEN -/
  held : Tab (EpName × Nat) := []
  /-- receive: granted slots -/
  granted : Tab EpName := []
  /-- receive: tokens held per slot, oldest first -/
  rx : Tab (List Token) := []
  /-- receive: slots whose close marker has arrived -/
  marked : List Nat := []
  /-- receive: slot whose turn it is, and whether a message of it is part delivered -/
  turn : Nat := 0
  partway : Bool := false
  /-- send: tokens of the current message that have entered; receive: tokens of it that have been delivered -/
  msgTokens : Nat := 0
  /-- send: a grant has arrived -/
  opened : Bool := false
  /-- send: for each token sent and not yet delivered, oldest first, whether it ends its message -/
  sentEnds : List Bool := []
  /-- send: the same for each token of the overflow ring -/
  ringEnds : List Bool := []
  /-- receive: a close is due (CH_CLOSE with SIDE 1) -/
  due : Bool := false
  /-- send: overflow ring -/
  ringBase : Nat := 0
  ringCap : Nat := 0
  ringHead : Nat := 0
  ringHeld : Nat := 0
  dropped : Nat := 0
  /-- a message of this command was dropped (R319) -/
  hadDrops : Bool := false
deriving DecidableEq, Repr

/-- A run-time length register (R124). -/
structure LenReg where
  value : Nat := 0
  grain : Nat := 0
deriving DecidableEq, Repr

/-- Counters and flags of one core's fabric block (Tables 2.14, 2.15, 14.x). -/
structure FabRegs where
  deadlock : Bool := false
  idleSteps : Nat := 0
  spillTokens : Nat := 0
  spillPeak : Nat := 0
  staleTokens : Nat := 0
  deadlockQueue : BitVec 32 := 0xFFFFFFFF#32
  cfgFrames : Nat := 0
  cfgFrameFail : Nat := 0
  tcHits : Nat := 0
  tcMisses : Nat := 0
  chOverflow : Nat := 0
  chFraming : Nat := 0
  chRefused : Nat := 0
deriving DecidableEq, Repr

/-- One core: sequencer, stream engine, translation cache, channel unit (its units are held beside it). -/
structure Core where
  section_ : Option Nat := none
  logical : Nat := 0
  seq : Seq := {}
  cfg : CfgState := {}
  lens : Tab LenReg := []
  fab : FabRegs := {}
  profile : Option Bool := none
  fromPackage : Bool := false
  /-- reference steps without progress during a pre-emption or region load (R363, R462) -/
  quiesce : Nat := 0
  regionWait : Nat := 0
  slots : Tab Slot := []
  streamTab : Ram 384 := []
  loadQ : Tab (List LoadEntry) := []
  storeQ : Tab (List StoreEntry) := []
  /-- stream-side patterns, key 256 * tap + 64 * ctx + entry, and their positions, key 4 * tap + ctx -/
  tapPatterns : Ram 16 := []
  tapPos : Tab (Nat × Nat) := []
  tc : Tab (List TcEntry) := []
  /-- pages whose walk is in flight -/
  walks : List Nat := []
  eps : Tab Ep := []
deriving DecidableEq, Repr

/-- One barrier's counter of one round in a supervisor or the device root (R305, R306). -/
structure BarCount where
  /-- who has arrived: cores at a supervisor; quadrants 0 to 3 and nodes, as 16 + NODE_ID, at the device root -/
  arrived : List Nat := []
  /-- an arrival of the round carried EPOCH_REQ (Table 12.8) -/
  epoch : Bool := false
deriving DecidableEq, Repr

/-- An operation on its way to a tally: source core, semaphore, operation, operand (R303). -/
structure TallyOp where
  src : Nat
  sem : Nat
  /-- 1 add, 2 sub, 3 wait -/
  op : Nat
  n : BitVec 32
deriving DecidableEq, Repr

/-- A quadrant supervisor (Table 9.6). -/
structure Quad where
  sems : Ram 32 := []
  waits : List TallyOp := []
  ops : List TallyOp := []
  /-- control messages relayed to each core of the quadrant, key the core's place in it, oldest first (Table 1.4) -/
  relay : Tab (List CtrlMsg) := []
  opCount : Nat := 0
  barReleases : Nat := 0
deriving DecidableEq, Repr

end Sys2Proof.Machine
end

