-- ==== Sys2Proof/Machine/HostTypes.lean ====
section
/-!
DEFINITION. Machine/HostTypes.lean: the state of the host interface, of Meridian's management, of start-up and reset,
and of power and temperature, as plain data (chapters 13, 15, 17 and 18, and the loading registers of chapter 14).
-/
namespace Sys2Proof.Machine

/-- MBX_STATUS.STATE (Table 13.4). -/
inductive MbxState where
  | idle | accepted | running | partial_ | done | failed | refused | preempted | waitingPresence
deriving DecidableEq, Repr

/-- What a RUNNING command other than RUN and RUN_FUSED waits for. -/
inductive Job where
  | none
  /-- LOAD: the frames of the section are on their way (R455) -/
  | loading (handle : Nat)
  /-- LOAD with SOURCE 2: waits for a broadcast (R400); the bytes staged so far, their source node and broadcast ID, and
  when its first chunk came -/
  | posted (source : Option (Nat × Nat)) (staged : Memory) (have_ total since : Nat)
  /-- LOAD whose package has passed its checks: waits for its turn in the order of placements (R291, R424) -/
  | placing (pkg : Memory) (len : Nat)
  /-- LOAD that a CANCEL has stopped: its cores are to take CFG_ABORT (R428) -/
  | aborting (handle : Nat)
  /-- LOAD of a package with LINK_ROUTES: the set is forming (Table 12.7) -/
  | forming (handle : Nat)
  /-- LOAD with BROADCAST whose own load has ended, DONE or with an error, while the broadcast goes on (R402) -/
  | feeding (code : Option (BitVec 8))
  /-- REGION_LOAD: checked stream, waiting for the UNITS entries or for the cores (Table 14.6) -/
  | region (handle : Nat) (stream : Memory) (len : Nat) (sent : Bool)
  /-- PAGE_MOVE: pages still to begin, pages in flight, counts (R430) -/
  | moving (target : Nat) (todo flying : List Nat) (moved skipped : Nat)
  /-- PREEMPT: waits for quiescence (Table 11.4) -/
  | preempting (handle : Nat)
  /-- CORE_OFFLINE: waits for Table 11.8 -/
  | offline (core : Nat)
  /-- METER_READ and METER_JOBS: waits for the Sextant (R518) -/
  | meter (sentAt : Nat)
  /-- RUN and RUN_FUSED: the section of the running stage and the stage -/
  | run (handle stage : Nat)
  /-- RUN with UPDATE: digests are being compared (Order 6 of Table 10.4) -/
  | comparing (handle : Nat)
  /-- RUN and RUN_FUSED: the section's cores are being halted (R427, R370); the code with which the command then ends, or
  the fallback section to which it is switched -/
  | stopping (handle : Nat) (code : BitVec 8) (to_ : Option Nat)
  /-- CANCEL: the command of this mailbox is being stopped -/
  | cancelling (target : Nat)
  /-- PAGE_ALLOC and PAGE_FREE: pages changed, whose invalidations must be acknowledged (R241) -/
  | changing (pages : List Nat)
  /-- LOAD, RESUME, XFER, EXPORT and IMPORT between two of their rows: the section named, the parts done and the bytes
  moved (R428) -/
  | working (handle : Option Nat) (done bytes : Nat)
  /-- FW_STAGE and GOLDEN_WRITE between two of their rows: the image staged and checked, and whether its region is erased
  (R473, R489) -/
  | programming (image : Memory) (erased : Bool)
  /-- FW_COMMIT: the active-slot record is being written (R488) -/
  | committing (slot : Nat)
deriving DecidableEq, Repr

/-- The command is being stopped by a CANCEL. -/
def Job.stops : Job → Bool
  | .stopping _ _ _ => true
  | .aborting _ => true
  | _ => false

/-- The section of the stage at which a started run command is. -/
def Job.runs : Job → Option Nat
  | .run h _ => some h
  | .comparing h => some h
  | .stopping h _ _ => some h
  | _ => Option.none

/-- A mailbox (Tables 13.3 and 13.4). -/
structure Mailbox where
  area : Memory := []
  reply : Memory := []
  seq : BitVec 16 := 0
  progress : BitVec 32 := 0
  fallback : Bool := false
  digestMismatch : Bool := false
  degraded : Bool := false
  staleDiscard : Bool := false
  error : BitVec 8 := 0
  state : MbxState := .idle
  ignored : BitVec 32 := 0
  /-- rung, and STATE not yet changed (R416) -/
  rung : Bool := false
  /-- header and arguments as copied at the doorbell (R416) -/
  copy : Memory := []
  /-- place in the order of acceptance (R358) -/
  order : Nat := 0
  /-- µs of the acceptance, or of the start of WAITING_PRESENCE -/
  since : Nat := 0
  /-- µs at which RUNNING began -/
  started : Nat := 0
  job : Job := .none
  /-- informational code with which the command would end DONE (R422) -/
  note : BitVec 8 := 0
  /-- milestones reported (R369) -/
  milestones : List Nat := []
  /-- a deadline record fell at risk, or D passed (R370) -/
  atRisk : Bool := false
  /-- Order 1 of Table 10.4 has begun -/
  applying : Bool := false
  /-- link block of a LOAD: broadcast counts, once known (R425) -/
  bcast : Option (Nat × Nat × Nat × Nat) := none
deriving DecidableEq, Repr

/-- One bank of an ingest window (R437 to R439). -/
structure IngestBank where
  /-- granules written, by index -/
  granules : Ram 128 := []
  present : List Nat := []
  /-- length, once INGEST_END has ended the packet -/
  length : Option Nat := none
  /-- words released -/
  released : Nat := 0
deriving DecidableEq, Repr

/-- What an ingest window is bound to (Table 13.9). -/
structure IngestBind where
  mbx : Nat
  handle : Nat
  logical : Nat
  core : Nat
  tap : Nat
  ctx : Nat
  hchan : Nat
deriving DecidableEq, Repr

/-- An ingest window (Table 13.11). -/
structure Ingest where
  bound : Option IngestBind := none
  overrun : Bool := false
  /-- bank now filling, none while no bank fills -/
  filling : Option Bool := none
  fillBank : Bool := false
  bank0 : IngestBank := {}
  bank1 : IngestBank := {}
  threshold : BitVec 8 := 8
  packets : BitVec 48 := 0
  late : BitVec 32 := 0
deriving DecidableEq, Repr

/-- The host's side of the module: BAR0 and BAR2 registers, interrupts and the host's own memory. -/
structure HostSide where
  mbx : Tab Mailbox := []
  ingest : Tab Ingest := []
  /-- commands accepted so far -/
  orders : Nat := 0
  straps : BitVec 21 := 0
  linkSpeed : BitVec 4 := 7
  linkWidth : BitVec 5 := 16
  linkFlit : Bool := true
  irqCause : BitVec 4 := 0
  bar2Base : BitVec 24 := 0
  /-- BAR2 size in pages of 64 KiB -/
  bar2Pages : Nat := 1048576
  bar2Reads : BitVec 32 := 0
  bar2Writes : BitVec 32 := 0
  /-- MSI-X table: 4 entries of 16 bytes, each masked after a reset (log entry 2) -/
  msixTable : Memory := [(12, 1), (28, 1), (44, 1), (60, 1)]
  msixPending : BitVec 4 := 0
  /-- MSI-X function enable and mask of configuration space -/
  msixEnabled : Bool := false
  msixMask : Bool := false
  /-- vectors sent, counted -/
  sent : Tab Nat := []
  mirror : Memory := []
  /-- stall steps per core and cause, never cleared: key 7 * core + cause (R443) -/
  stallSums : Tab Nat := []
  /-- memory space enable: the host has enabled the BARs (R546) -/
  memEnabled : Bool := false
  /-- maximum payload and read request size, as 128 B times a power of two (Table 13.1) -/
  payloadSize : Nat := 0
  readSize : Nat := 2
  /-- D3hot: BAR decoding and bus mastering stopped (R412) -/
  d3 : Bool := false
  /-- data of the last read completion, and whether it was poisoned -/
  lastRead : List (BitVec 8) := []
  poisoned : Bool := false
  /-- the host's memory, reached by bus address -/
  mem : Memory := []
deriving DecidableEq, Repr

/-- Physical presence, MAINT and seal inputs as Meridian sees them (R480 to R486). -/
structure Presence where
  /-- confirmed input -/
  active : Bool := false
  /-- µs of the last confirmed changes of the PRESENCE input, of MAINT and of the seal loop -/
  changedAt : Option Nat := none
  maintAt : Option Nat := none
  sealAt : Option Nat := none
  /-- µs at which the press in progress began -/
  pressAt : Option Nat := none
  /-- µs of the confirmed release within the press -/
  releasedAt : Option Nat := none
  stuck : Bool := false
  /-- µs at which a window opened by a press closes -/
  windowEnd : Option Nat := none
  maint : Bool := false
  sealIntact : Bool := true
  presses : BitVec 32 := 0
  stuckCount : BitVec 16 := 0
  sealChanges : BitVec 16 := 0
  /-- µs of the seal changes confirmed in the last 60 s -/
  sealTimes : List Nat := []
  toggling : Bool := false
  /-- changes in the current toggling minute, and its start -/
  toggles : Nat := 0
  toggleFrom : Nat := 0
deriving DecidableEq, Repr

/-- One copy of the active-slot record (R488). -/
structure SlotRecord where
  slot : Nat := 0
  sequence : BitVec 32 := 0
  crc : BitVec 32 := 0
deriving DecidableEq, Repr

/-- Meridian's identity, update and log state (Tables 15.4 to 15.7, 14.8, 14.11). -/
structure Mgmt where
  /-- the configuration store (Table 14.8) -/
  store : Memory := []
  almanacNext : BitVec 48 := 1
  almanacDropped : BitVec 32 := 0
  /-- µs of the start of the current log second, records written and dropped in it -/
  logFrom : Nat := 0
  logCount : Nat := 0
  logDropped : Nat := 0
  rollbackFloor : BitVec 32 := 0
  goldenFloor : BitVec 32 := 0
  recert : BitVec 32 := 0
  /-- attestation keys generated since manufacture: which key the device now holds (R494) -/
  attestKey : Nat := 0
  /-- package roots: uncompressed points, by slot -/
  roots : Tab (BitVec 776) := []
  /-- Baondan's image keys -/
  imageKeys : List (BitVec 776) := []
  recordA : SlotRecord := {}
  recordB : SlotRecord := {}
  /-- staged slot: 0 none, 1 A, 2 B -/
  staged : BitVec 2 := 0
  debugScope : BitVec 2 := 0
  powerOns : BitVec 32 := 1
  restarts : BitVec 32 := 0
  serial : BitVec 64 := 0
  /-- failed units of the defect map (R34), as 80 * core + 10 * row + column -/
  defects : List Nat := []
  /-- failed harness nodes, links and taps make a core reduced (R284) -/
  reduced : BitVec 16 := 0
  /-- smbus reply of the last transaction: none when not acknowledged -/
  smbReply : Option (List (BitVec 8)) := none
  /-- its packet error code (R503) -/
  smbPec : Option (BitVec 8) := none
  /-- hour for which the hourly records were last written -/
  hour : Nat := 0
  /-- MU corrections of the hour, by unit: activation and weight class -/
  hourCorr : Tab (Nat × Nat) := []
  /-- ports that reported this device's own NODE_ID in the hour -/
  hourSelf : List Nat := []
deriving DecidableEq, Repr

/-- Start-up and loading (Tables 14.11, 18.4 and 18.8). -/
structure Boot where
  service : BitVec 2 := 0
  last : BitVec 3 := 0
  perstCount : BitVec 16 := 0
  flrCount : BitVec 16 := 0
  warmCount : BitVec 16 := 0
  /-- a sequence of Table 18.7 stands before its Order 8 -/
  resetting : Bool := false
  perstLow : Bool := false
  warmLow : Bool := false
  image : BitVec 2 := 3
  fellBack : Bool := false
  recovery : Bool := false
  lastError : BitVec 8 := 0
  attempts : BitVec 32 := 0
  checked : BitVec 48 := 0
  rejectCheck : BitVec 32 := 0
  rejectRegion : BitVec 32 := 0
  /-- the input is up and the power-on sequence has reached Order 5 -/
  powered : Bool := false
  /-- an attempt succeeded, and a command that the boot ROM service has started still runs (R547) -/
  chosen : Bool := false
  /-- the firmware runs, and every rail is on; Order 9 is due (R545) -/
  firmware : Bool := false
  /-- the slot that the active-slot record named at power-on (R471) -/
  slot : Nat := 0
  /-- packages that far-tier training is to fall back on and to remove, at Order 8 (R231) -/
  farFallback : BitVec 24 := 0
  farRemoved : BitVec 24 := 0
  /-- the destination RAMs: bytes copied, by component of the image (R472) -/
  rams : Tab Memory := []
  /-- the in-service defect records in Meridian's RAM (R472) -/
  defects : List Nat := []
  /-- Order 7 of Table 18.7 is done in the running sequence; and whether it returns configuration space to its defaults -/
  valuesDone : Bool := false
  defaults : Bool := false
  /-- every attempt of Table 14.9 has been made and failed -/
  exhausted : Bool := false
  /-- next attempt of the boot: 0 the first -/
  attempt : Nat := 0
  /-- µs at which the last attempt began -/
  attemptAt : Nat := 0
  version : BitVec 32 := 0
  fwMajor : BitVec 16 := 0
  fwMinor : BitVec 16 := 0
  digest : BitVec 384 := 0
deriving DecidableEq, Repr

/-- Power, gait and temperature (Tables 17.1 to 17.10). -/
structure Power where
  inputMv : BitVec 32 := 56000
  inputMw : BitVec 32 := 0
  /-- the last ten 1 ms readings of input power in mW, newest first -/
  window : List Nat := []
  /-- the power limit P in mV -/
  pMv : Nat := 700
  /-- thermal limit, set point and Tq per quadrant -/
  thermalMv : List Nat := [700, 700, 700, 700]
  setMv : List Nat := [700, 700, 700, 700]
  tq : List Int := [0, 0, 0, 0]
  /-- Tq as the quadrants' sensor hubs read it, with or without Meridian (R534) -/
  hubTq : List Int := [0, 0, 0, 0]
  /-- VCORE in mV and the µs at which its present slew began, per quadrant (R526) -/
  slewFrom : List Nat := [700, 700, 700, 700]
  slewAt : List Nat := [0, 0, 0, 0]
  /-- highest near-tier die reading per quadrant -/
  nearQ : List Int := [0, 0, 0, 0]
  thermalQ : BitVec 4 := 0
  hardQ : BitVec 4 := 0
  throttle : Bool := false
  /-- µs since which THROTTLE_N is low, and whole hours recorded since -/
  throttleAt : Option Nat := none
  throttleHours : Nat := 0
  inputLow : Bool := false
  inputHigh : Bool := false
  /-- the row of Table 17.2 in which the last shutdown left the input: 0 none, 3 power-fail, 4 over-voltage -/
  inputFail : Nat := 0
  tripped : Bool := false
  tripSource : BitVec 4 := 0
  tripTemp : BitVec 16 := 0
  quadrantOff : BitVec 4 := 0
  limitedMs : BitVec 32 := 0
  throttleAsserts : BitVec 16 := 0
  thermalEntries : BitVec 16 := 0
  /-- gait of each core in k steps/s -/
  gait : List Nat := []
  /-- TEMP values of the telemetry mirror: i16 in 1/16 °C -/
  temps : List (BitVec 16) := []
  vcore : List (BitVec 16) := []
  /-- VCORE currents in mA; the other rails' voltages and currents in mV and mA; the input current; the coolant outlet -/
  vcoreMa : List Nat := [0, 0, 0, 0]
  railMv : List Nat := []
  railMa : List Nat := []
  inputMa : Nat := 0
  outlet : Int := 0
  /-- power limiting in the hour: ms and lowest P; highest coolant inlet above 45 °C -/
  hourLimited : Nat := 0
  hourLowP : Nat := 700
  hourInlet : Option Int := none
deriving DecidableEq, Repr

end Sys2Proof.Machine
end

