-- ==== Sys2Proof/Machine/LinkTypes.lean ====
section
/-!
DEFINITION. Machine/LinkTypes.lean: the state of the Morwyn Link ports, of the route set, of the broadcasts, of the
packet-network links and hitches, and of the Sextant and its bus, as plain data (chapters 1, 2, 12 and 16).
-/
namespace Sys2Proof.Machine

/-- A packet of Morwyn Link (Table 12.4): its header fields and its body as a little-endian number of `len` bytes. -/
structure Packet where
  typ : Nat
  dest : Nat
  src : Nat
  bcast : Bool
  len : Nat
  epoch : Nat
  set : Nat
  arg : Nat
  body : Nat
deriving DecidableEq, Repr

/-- A port (Tables 12.2, 12.3 and 12.10). -/
structure Port where
  /-- 0 OFF, 1 TRAINING, 2 UP, 3 DOWN -/
  state : BitVec 2 := 1
  width : BitVec 2 := 3
  downCause : BitVec 2 := 0
  peerNode : BitVec 10 := 0
  peerPort : BitVec 3 := 0
  peerFw : BitVec 16 := 0
  /-- Orders 1 to 4 of Table 12.2 are done: TRAIN flits are exchanged -/
  trained : Bool := false
  /-- the Order of Table 12.2, of 2 to 4, that the training is at -/
  order : Nat := 2
  /-- µs of the last change of state, or of the end of the last Order -/
  since : Nat := 0
  corrected : BitVec 48 := 0
  uncorr : BitVec 32 := 0
  crcFail : BitVec 32 := 0
  replays : BitVec 32 := 0
  naksSent : BitVec 32 := 0
  trainFail : BitVec 16 := 0
  downs : BitVec 16 := 0
  dropped : BitVec 32 := 0
  txData : BitVec 48 := 0
  /-- sending: packets waiting per pool, and 16-byte units of the first already sent -/
  txq : Tab (List Packet) := []
  txPart : Tab Nat := []
  /-- next DATA sequence number, replay buffer oldest first, flits to resend, replays in a row, µs of the last
  advance of ACK -/
  nextSeq : BitVec 12 := 1
  replay : List (BitVec 12 × BitVec 2048) := []
  resend : List (BitVec 12 × BitVec 2048) := []
  replayRow : Nat := 0
  ackAt : Nat := 0
  /-- per pool: SENT and the peer's FREED, modulo 4,096 -/
  sentOf : Tab Nat := []
  freedOf : Tab Nat := []
  /-- place in the cycle of R382, class turn per VC, pool of the next credit report -/
  turn : Nat := 0
  classTurn : Tab Nat := []
  creditTurn : Nat := 0
  /-- the last flit that left the port, its lane, and the flits sent since the port came UP (R378) -/
  lastSent : Option (BitVec 2048) := none
  lastLane : Nat := 0
  txCount : Nat := 0
  /-- receiving: next expected, in a gap since µs, NAK due -/
  expect : BitVec 12 := 1
  gap : Option Nat := none
  nakDue : Bool := false
  /-- flits received since the port came UP; per active lane: codewords decoded, and whether the last is
  uncorrectable (R378); per pool: units and value of a packet received in part, packets whole and waiting, units of each accepted flit not yet
  left, FREED -/
  rxCount : Nat := 0
  lanes : Tab (Nat × Bool) := []
  rxPart : Tab (Nat × Nat) := []
  rx : Tab (List Packet) := []
  rxFlits : Tab (List Nat) := []
  freed : Tab Nat := []
deriving DecidableEq, Repr

/-- A configuration broadcast passing through this node (R400 to R403). -/
structure Broadcast where
  source : Nat
  id : Nat
  dims : Nat
  /-- own outcome: 0 ok, 1 failed, 2 unposted -/
  outcome : Option Nat
  ok : Nat
  failed : Nat
  unposted : Nat
  /-- children that have acknowledged -/
  acked : List Nat
  /-- feeder: mailbox and start in µs -/
  feeder : Option (Nat × Nat)
deriving DecidableEq, Repr

/-- The route set, dimensions and routes (Table 12.11, R396 to R408). -/
structure LinkSet where
  /-- 0 none, 1 forming, 2 formed, 3 halting, 4 dissolved -/
  state : BitVec 3 := 0
  epoch : BitVec 16 := 0
  setId : BitVec 32 := 0
  /-- handle of the member section -/
  handle : Nat := 0
  nodes : List Nat := []
  rank : BitVec 10 := 0
  /-- tree-0 parent and children, by NODE_ID, the children in ascending rank -/
  parent : Option Nat := none
  children : List Nat := []
  epochReq : BitVec 1 := 0
  usedPorts : BitVec 8 := 0
  dims : BitVec 10 := 0x3FF
  /-- dimensions the route table is derived from (R391) -/
  dimsActive : BitVec 10 := 0x3FF
  heartbeatMs : BitVec 8 := 0x0A
  formTimeout : BitVec 16 := 0x003C
  bcastTimeout : BitVec 16 := 0x012C
  stale : BitVec 48 := 0
  lostNode : BitVec 10 := 0
  lostCause : BitVec 1 := 0
  lostValid : BitVec 1 := 0
  /-- losses reported: node and cause (R407) -/
  losses : List (Nat × Nat) := []
  /-- the error with which the command ended at a loss, and with which later ones of the section end (R407) -/
  lossError : BitVec 8 := 0
  /-- formation: start, children heard with their counts, by NODE_ID, mismatch heard, own SET_HELLO sent -/
  formAt : Nat := 0
  heard : Tab Nat := []
  mismatch : Bool := false
  helloSent : Bool := false
  /-- µs at which a neighbour's last heartbeat came, by NODE_ID -/
  beats : Tab Nat := []
  beatAt : Nat := 0
  /-- digests received: key node, by round; repair pieces received -/
  digests : List (Nat × Nat × Nat × List (Nat × Nat)) := []
  pieces : List (Nat × Nat × Nat × Nat × Nat) := []
  bcasts : List Broadcast := []
deriving DecidableEq, Repr

/-- One packet-network link: flits waiting and credits held, by virtual channel (R40). -/
structure NetLink where
  queues : Tab (List (BitVec 512)) := []
  credits : Tab Nat := []
  turn : Nat := 0
  /-- the last flit carried and its channel -/
  last : Option (Nat × BitVec 512) := none
deriving DecidableEq, Repr

/-- One virtual channel of a hitch: crossing buffers of 32 flits in each direction, and the far-tier requests that
have passed (R94 to R96). A response that waits for its turn takes room of the buffer (log entry 11, DEDUCED). -/
structure Hitch where
  toHub : List (BitVec 512) := []
  toFabric : List FabricFlit := []
  /-- entries asked of the far tier and not yet presented, by queue, oldest request first -/
  asked : Tab (List (Fin 64)) := []
  /-- a packet of which a flit has been presented and the last has not: the response it is, or none -/
  packet : Option (Option (Fin 64 × Fin 64)) := none
  toHubCount : Nat := 0
  toFabricCount : Nat := 0
  lastHub : Option (BitVec 512) := none
  lastFabric : Option FabricFlit := none
deriving DecidableEq, Repr

/-- A frame on the meter bus (Table 16.2). -/
inductive MeterFrame where
  | readRequest (mbx : Option Nat)
  | jobsRequest (mbx first count : Nat)
  | shares (pairs : List (Nat × Nat))
deriving DecidableEq, Repr

/-- A job record of the Sextant (R517, Table 16.4). -/
structure JobRecord where
  seq : Nat
  timeout : Bool
  interrupted : Bool
  calMode : Bool
  maxCores : Nat
  tag : Nat
  startMs : Nat
  endMs : Nat
  energy : Nat
deriving DecidableEq, Repr

/-- What the Sextant saves (Table 16.3 and the open records, R509). -/
structure MeterRegs where
  serial : BitVec 64 := 0
  readSeq : BitVec 64 := 0
  opMs : BitVec 64 := 0
  total : BitVec 64 := 0
  idle : BitVec 64 := 0
  mv : BitVec 32 := 0
  ma : BitVec 32 := 0
  mw : BitVec 32 := 0
  sealBreaks : BitVec 32 := 0
  calCount : BitVec 16 := 0
  restoreLosses : BitVec 16 := 0
  jobNext : BitVec 32 := 1
  romVersion : BitVec 32 := 0
  starts : BitVec 32 := 1
  rejected : BitVec 32 := 0
  open_ : List JobRecord := []
  sealIntact : Bool := true
deriving DecidableEq, Repr

/-- The Sextant and the meter bus (chapter 16). -/
structure Meter where
  regs : MeterRegs := {}
  running : Bool := true
  /-- sub-nWh remainder, in units of 1/3,600 nWh -/
  remainder : Nat := 0
  /-- shares in force, shares that take effect at the next boundary, ms since the last valid SHARES -/
  shares : List (Nat × Nat) := []
  nextShares : Option (List (Nat × Nat)) := none
  shareAge : Nat := 0
  shareTimeout : Bool := false
  calJumper : Bool := false
  calConst : BitVec 64 := 0
  /-- constants accepted, in force from the next interval -/
  calNext : Option (BitVec 64) := none
  /-- voltage in mV, current in mA and power in mW of the last 1,000 intervals, newest first -/
  lastSecond : List (Nat × Nat × Nat) := []
  pulses : Nat := 0
  pulsesEmitted : Nat := 0
  /-- ms since the last pulse began -/
  pulseAge : Nat := 80
  closed : List JobRecord := []
  /-- checkpoint and failure save -/
  checkpoint : MeterRegs := {}
  checkpointAge : Nat := 0
  failSave : Option (MeterRegs × List JobRecord) := none
  bus : List MeterFrame := []
  /-- requests that wait for an answer: mailbox, none for a poll, and the µs of sending -/
  waiting : List (Option Nat × Nat) := []
  /-- Meridian's copies and counts (Table 16.5) -/
  copyStatus : BitVec 16 := 1
  copyBreaks : BitVec 32 := 0
  copyTotal : BitVec 64 := 0
  sharesSent : BitVec 32 := 0
  noReply : BitVec 16 := 0
  /-- µs at which Meridian last sent SHARES and last read the meter -/
  sharesAt : Nat := 0
  polledAt : Nat := 0
deriving DecidableEq, Repr

end Sys2Proof.Machine
end

