-- ==== Sys2Proof/Machine/SectionTypes.lean ====
section
/-!
DEFINITION. Machine/SectionTypes.lean: placed sections and their saves, the tiers, the residency table, the migration
engine, and the training and scheduling registers, as plain data (chapters 7, 8, 10 and 11).
-/
namespace Sys2Proof.Machine

/-- The life of a section (Table 1.6, R360, R559). -/
inductive SecState where
  | loading | forming | idle | running | preempting | preempted | halted
deriving DecidableEq, Repr

/-- A spill region carved by R82: the queue, the MU and the region. -/
structure SpillRegion where
  unit : Nat
  port : Nat
  lane : Nat
  mu : Nat
  desc : Nat
  base : Nat
  cap : Nat
  reserve : Nat
  hops : Nat
  record : Nat
deriving DecidableEq, Repr

/-- Messages in flight between the cores, the supervisors and the device root on the CONTROL and CHANNEL channels
(R305, R308 to R319). -/
inductive ChMsg where
  | open_ (src dst : EpName) (slot gen : Nat)
  | grant (src dst : EpName) (slot entries : Nat)
  | refuse (src dst : EpName) (slot : Nat)
  | token (src dst : EpName) (slot : Nat) (t : Token)
  | credit (src dst : EpName) (slot n : Nat)
  | close (src dst : EpName) (slot side : Nat)
deriving DecidableEq, Repr

/-- The save of a pre-empted section, by logical core and logical unit (R362, R555). -/
structure Save where
  /-- key 64 * logical core + 8 * row + logical column -/
  units : Tab Unit
  cores : Tab Core
  /-- semaphores, key 1024 * logical core + index -/
  sems : Ram 32
  /-- arrivals not yet released: barrier, round, logical core -/
  arrivals : List (Nat × Nat × Nat)
  /-- the same of child nodes: barrier, parity of the round, NODE_ID, EPOCH_REQ -/
  nodes : List (Nat × Nat × Nat × Bool)
  /-- tokens carried, by layout and channel, modulo the schedule's cycle: key 4096 * layout + channel -/
  carried : Tab Nat
  /-- spill regions by record: descriptor and the words of the region -/
  spills : List (Nat × SpillDesc × Nat)
  /-- channel messages on their way, by logical core -/
  chan : Tab (List ChMsg)
  /-- bytes saved, by logical core (R365) -/
  bytes : List Nat
  /-- forced by the loss of a core: not counted against the host's share (R364) -/
  forced : Bool
deriving DecidableEq, Repr

/-- A section (chapters 8 and 11). -/
structure Section where
  handle : Nat
  /-- the package's bytes, relocated: the frame store's contents (Table 8.6, Order 8) -/
  pkg : Memory
  len : Nat
  seed : Nat := 0
  allowed : Nat := 0xFFFF
  state : SecState := .loading
  order : Nat := 0
  /-- physical core of each logical core -/
  cores : List Nat := []
  scores : List Nat := []
  /-- physical column, index 64 * logical core + 8 * row + logical column -/
  l2p : List Nat := []
  segBase : List Nat := []
  newPages : List Nat := []
  nearPages : List Nat := []
  storeBase : List Nat := []
  storePages : List Nat := []
  reportBase : Nat := 0
  spills : List SpillRegion := []
  /-- mailbox of the command it runs -/
  mbx : Option Nat := none
  save : Option Save := none
  /-- a stop request stands at the device root: mark the next covering round (Table 11.8) -/
  markNext : Bool := false
  /-- the time of Order 1 of its pre-emption, in µs (R365) -/
  suspendedAt : Nat := 0
  /-- the cores whose loss stops the section -/
  lostCores : List Nat := []
  /-- stops before the next SYSTEM arrival (R407) -/
  lossStop : Bool := false
  /-- resumes by itself (R366, R373) -/
  autoResume : Bool := false
  /-- load: configuration messages not yet acted on by the cores -/
  cfgLeft : Nat := 0
  /-- the command waiting for a marked epoch end (R404) -/
  epochEnd : Bool := false
  /-- tokens discarded at the last unload or force (R91) -/
  stale : Nat := 0
  /-- a region load whose commit has begun: the package, and the units committed so far, as they were before (R463) -/
  before : Option (Memory × Tab Unit) := none
  /-- SHA-384 over the signed bytes of the package (Table 15.3) -/
  digest : Nat := 0
  /-- pages that the placement allocated, and statistics pages that it pinned: a failed formation undoes both (R290) -/
  fresh : List Nat := []
  pinned : List Nat := []
deriving DecidableEq, Repr

/-- A move in flight (Table 7.4). -/
structure Move where
  page : Nat
  oldUnit : Nat
  oldFrame : Nat
  newUnit : Nat
  newFrame : Nat
  /-- 0 promotion, 1 demotion, 2 PAGE_MOVE -/
  kind : Nat
  mbx : Nat
  /-- Order 3 has been carried out; the old frame waits for Order 5 -/
  switched : Bool := false
deriving DecidableEq, Repr

/-- A queued promotion (R243, R292). -/
structure Promo where
  page : Nat
  core : Nat
  /-- queued by the loader for the segment's home, wherever the page lies -/
  asked : Bool
deriving DecidableEq, Repr

/-- The tiers, the residency table and the migration engine (chapter 7). -/
structure Tiers where
  /-- near tier, key 2^34 * core + byte; far tier, key 2^35 * package + byte -/
  near : Memory := []
  far : Memory := []
  /-- RES_ENTRY of page p, exclusive-or 0xFFFF_0000_0000_0000: an unlisted page is unallocated -/
  table : Ram 64 := []
  /-- frames reserved: key 2^19 * UNIT + frame -/
  frames : Ram 1 := []
  moves : List Move := []
  promoQ : List Promo := []
  /-- invalidations not yet acknowledged: page (R241) -/
  invals : List Nat := []
  /-- frames of freed pages, in use until the invalidation of their page is acknowledged: page, UNIT, frame (R241) -/
  freeing : List (Nat × Nat × Nat) := []
  ntCorr : BitVec 48 := 0
  ftFallback : BitVec 24 := 0
  ftRemoved : BitVec 24 := 0
  ftCorr : BitVec 48 := 0
  ftTransient : BitVec 32 := 0
  promote : BitVec 8 := 0x10
  demoteLow : BitVec 16 := 0x0400
  demoteHigh : BitVec 16 := 0x1000
  decayS : BitVec 16 := 0x003C
  promotions : BitVec 16 := 0
  demotions : BitVec 16 := 0
  aborts : BitVec 16 := 0
  /-- second at which AFFINITY was last halved -/
  decayAt : Nat := 0
  /-- the demotion run of R244 in progress, by core -/
  demoting : List Nat := []
deriving DecidableEq, Repr

/-- The training registers and the comparison in progress (Table 10.7, R341 to R344). -/
structure Training where
  repair : BitVec 1 := 0
  interval : BitVec 16 := 0
  phase : BitVec 3 := 0
  group : BitVec 6 := 0
  tile : BitVec 32 := 0
  accEntries : BitVec 48 := 0
  tiles : BitVec 48 := 0
  rounds : BitVec 32 := 0
  leaves : BitVec 16 := 0
  repaired : BitVec 16 := 0
  /-- status record counts of the groups, by section handle * 64 + group: SAT, FLUSH -/
  counts : Tab (Nat × Nat) := []
  /-- comparison: round, members, nodes to compare as (group, level, index) -/
  cmpRound : Nat := 0
  cmpSet : List Nat := []
  cmpNodes : List (Nat × Nat × Nat) := []
  /-- differing leaves found: group, leaf, and every member's digest of it -/
  cmpLeaves : List (Nat × Nat × List (Nat × Nat)) := []
  /-- leaves that wait for a repair page: group, leaf -/
  cmpWait : List (Nat × Nat) := []
  /-- more leaves differ than the 16 that the descent follows (R342) -/
  truncated : Bool := false
  /-- root digests at the last comparison, key handle * 64 + group (R337) -/
  roots : Tab Nat := []
deriving DecidableEq, Repr

/-- The scheduling registers (Table 11.10). -/
structure Sched where
  policy : BitVec 2 := 0
  autoResume : BitVec 1 := 1
  offline : BitVec 16 := 0
  /-- cores taken offline by the host, against those lost with a unit or a quadrant -/
  hostOffline : BitVec 16 := 0
  done : BitVec 32 := 0
  abandoned : BitVec 32 := 0
  saveUs : BitVec 32 := 0
  restoreUs : BitVec 32 := 0
  fallbacks : BitVec 32 := 0
  missed : BitVec 32 := 0
  /-- handles given so far; sections in order -/
  handles : Nat := 0
deriving DecidableEq, Repr

/-- A barrier message on its way up or down the tree (R305): section, barrier, round, marks. -/
structure BarMsg where
  handle : Nat
  barrier : Nat
  round : Nat
  /-- sender or receiver: core, quadrant or node -/
  end_ : Nat
  /-- Table 11.8: stop at this release; Table 12.8: end the epoch -/
  stop : Bool
  epoch : Bool
deriving DecidableEq, Repr

/-- The device root of the barrier tree and the messages in flight (R305 to R307, R399). -/
structure SyncState where
  /-- arrivals counted by the supervisors (levels 0 to 3) and the device root (level 4), and rounds sent to the
  parent node (level 5), key
  level * 2^41 + handle * 2^9 + 2 * barrier + parity of the round -/
  counts : Tab BarCount := []
  /-- arrivals on their way to level 0 to 3 (supervisors) and 4 (device root) -/
  arrivals : Tab (List BarMsg) := []
  /-- releases on their way to a core -/
  releases : Tab (List BarMsg) := []
  /-- channel messages on their way to a core -/
  chan : Tab (List ChMsg) := []
deriving DecidableEq, Repr

end Sys2Proof.Machine
end

