-- ==== Sys2Proof/Machine/State.lean ====
section
/-!
DEFINITION. Machine/State.lean: the state of the block (every register, queue, buffer, mode and memory of the
module) and the queue of waiting commands, the ways a command can stop, and the state after reset.
-/
namespace Sys2Proof.Machine

/-- The module. -/
structure Device where
  /-- µs since power-up -/
  now : Nat
  host : HostSide
  presence : Presence
  mgmt : Mgmt
  boot : Boot
  power : Power
  /-- CUs and MUs, key 80 * core + 10 * row + physical column -/
  units : Tab Unit
  cores : Tab Core
  quads : Tab Quad
  sync : SyncState
  tiers : Tiers
  sections : List Section
  training : Training
  sched : Sched
  ports : Tab Port
  set : LinkSet
  meter : Meter
  netLinks : Tab NetLink
  /-- key 4 * quadrant + virtual channel -/
  hitches : Tab Hitch
deriving DecidableEq, Repr

/-- The block and the commands that wait for it, first in, first out. -/
structure State where
  dev : Device
  pending : List Instr
deriving DecidableEq, Repr

/-- The named stops of a command. -/
inductive Fault where
  /-- Raised by every command whose operands break `Instr.wf`: no such command exists (an access size or alignment
  outside R14, a byte list of the wrong length).  Safe: the command does nothing. -/
  | illFormed
deriving DecidableEq, Repr

/-- Commands without a meaning. -/
inductive Refusal where
  /-- Raised by `exec` for a command that has no meaning yet.  Safe: nothing happens. -/
  | notModelled (mnemonic : String)
deriving DecidableEq, Repr

/-- Replace the block's state; the queue stays. -/
def State.upd (s : State) (f : Device → Device) : State := { s with dev := f s.dev }

/-- The module after power-up, at Order 9 of Table 18.4: every register at the "After power-up" value of its table,
unstrapped, slot A booted (log entries 1 and 2). -/
def Device.reset : Device where
  now := 0
  host := {}
  presence := {}
  mgmt := {}
  boot := { service := 2, image := 0, powered := true, firmware := true, attempts := 1, fwMajor := 1 }
  power := { gait := List.replicate 16 1600000,
             temps := [1040, 1040, 1040, 1040, 1040, 1040, 1040, 480],
             vcore := [700, 700, 700, 700], tq := [1040, 1040, 1040, 1040], hubTq := [1040, 1040, 1040, 1040],
             nearQ := [1040, 1040, 1040, 1040] }
  units := []
  cores := []
  quads := []
  sync := {}
  tiers := {}
  sections := []
  training := {}
  sched := {}
  ports := []
  set := {}
  meter := {}
  netLinks := []
  hitches := []

/-- Right after reset: no command waits. -/
def State.reset : State := { dev := Device.reset, pending := [] }

end Sys2Proof.Machine
end

