-- ==== Sys2Proof/Machine/Ops.lean ====
section
/-!
DEFINITION. Machine/Ops.lean: the named operations every family shares: counters, table access, interrupts, the
Almanac, the ends of commands, and the logical space over the residency table and the two tiers.
-/
namespace Sys2Proof.Machine

/-! ### Counters and bit fields -/

/-- R20: a counter saturates at its all-ones value. -/
def satAdd {w : Nat} (c : BitVec w) (k : Nat) : BitVec w := BitVec.ofNat w (min (c.toNat + k) (2 ^ w - 1))

/-- R20 for a counter kept as a number of `w` bits. -/
def satNat (w c k : Nat) : Nat := min (c + k) (2 ^ w - 1)

/-- Bits [lo + w - 1 : lo] of a number. -/
def bitsOf (v lo w : Nat) : Nat := (v >>> lo) % 2 ^ w

/-- Bit `i` of a number. -/
def bitOf (v i : Nat) : Bool := v.testBit i

/-- A Boolean as a bit. -/
def bit01 (b : Bool) : Nat := if b then 1 else 0

/-- Set or clear bit `i`. -/
def setBit {w : Nat} (v : BitVec w) (i : Nat) (b : Bool) : BitVec w :=
  if b then v ||| BitVec.ofNat w (2 ^ i) else v &&& ~~~ (BitVec.ofNat w (2 ^ i))

/-- The field at `off` of a little-endian block. -/
def fld (m : Memory) (off n : Nat) : Nat := Ram.slice m off n

/-- CRC-32 of IEEE 802.3 in its reflected form (R446), one byte. -/
def crcByte (c : BitVec 32) (b : BitVec 8) : BitVec 32 :=
  (List.range 8).foldl (fun x _ => if x.getLsbD 0 then (x >>> 1) ^^^ 0xEDB88320#32 else x >>> 1)
    (c ^^^ b.setWidth 32)

/-- CRC-32 of a list of bytes (R446). -/
def crc32 (bytes : List (BitVec 8)) : BitVec 32 := (bytes.foldl crcByte 0xFFFFFFFF#32) ^^^ 0xFFFFFFFF#32

/-- CRC-32 of a copy of the active-slot record, over SLOT and SEQUENCE (R488; log entry 96: their places). -/
def slotCrc (slot : Nat) (sequence : BitVec 32) : BitVec 32 := crc32 (natToBytes 5 (slot % 256 + (sequence.toNat <<< 8)))

/-- A copy is valid when its CRC passes. -/
def slotRecordOk (r : SlotRecord) : Bool := r.crc = slotCrc r.slot r.sequence

/-- The copy that names a slot. -/
def slotRecord (slot : Nat) (sequence : BitVec 32) : SlotRecord := { slot := slot, sequence := sequence, crc := slotCrc slot sequence }

/-! ### Access to the parts of the module -/

def Device.mb (d : Device) (m : Nat) : Mailbox := Tab.getD d.host.mbx m {}

def Device.setMb (d : Device) (m : Nat) (x : Mailbox) : Device :=
  { d with host := { d.host with mbx := Tab.set d.host.mbx m x } }

def Device.updMb (d : Device) (m : Nat) (f : Mailbox → Mailbox) : Device := d.setMb m (f (d.mb m))

def Device.unit (d : Device) (u : Nat) : Unit := Tab.getD d.units u {}

def Device.setUnit (d : Device) (u : Nat) (x : Unit) : Device := { d with units := Tab.set d.units u x }

def Device.updUnit (d : Device) (u : Nat) (f : Unit → Unit) : Device := d.setUnit u (f (d.unit u))

def Device.core (d : Device) (c : Nat) : Core := Tab.getD d.cores c {}

def Device.setCore (d : Device) (c : Nat) (x : Core) : Device := { d with cores := Tab.set d.cores c x }

def Device.updCore (d : Device) (c : Nat) (f : Core → Core) : Device := d.setCore c (f (d.core c))

def Device.quad (d : Device) (q : Nat) : Quad := Tab.getD d.quads q {}

def Device.updQuad (d : Device) (q : Nat) (f : Quad → Quad) : Device :=
  { d with quads := Tab.set d.quads q (f (d.quad q)) }

/-- The control messages that a core's quadrant supervisor relays to it, oldest first (Table 1.4, R44). -/
def Device.ctrl (d : Device) (c : Nat) : List CtrlMsg := Tab.getD (d.quad (c / 4)).relay (c % 4) []

def Device.setCtrl (c : Nat) (ms : List CtrlMsg) (d : Device) : Device :=
  d.updQuad (c / 4) (fun q => { q with relay := Tab.set q.relay (c % 4) ms })

/-- Meridian sends control messages to a core: its quadrant supervisor relays them (R37). -/
def pushCtrl (c : Nat) (ms : List CtrlMsg) (d : Device) : Device := d.setCtrl c (d.ctrl c ++ ms)

def Device.port (d : Device) (p : Nat) : Port := Tab.getD d.ports p {}

def Device.setPort (d : Device) (p : Nat) (x : Port) : Device := { d with ports := Tab.set d.ports p x }

def Device.updPort (d : Device) (p : Nat) (f : Port → Port) : Device := d.setPort p (f (d.port p))

def Device.section? (d : Device) (h : Nat) : Option Section := d.sections.find? (·.handle = h)

def Device.updSection (d : Device) (h : Nat) (f : Section → Section) : Device :=
  { d with sections := d.sections.map (fun s => if s.handle = h then f s else s) }

def Device.dropSection (d : Device) (h : Nat) : Device :=
  { d with sections := d.sections.filter (fun s => s.handle != h) }

/-- UNIT_ID of a unit's key (Table 1.2). -/
def unitId (u : Nat) : Nat :=
  let c := u / 80
  (c / 4) * 2 ^ 14 + (c % 4) * 2 ^ 12 + (u % 10) * 2 ^ 8 + (u % 80 / 10) * 2 ^ 5

/-- R28: odd physical columns hold CUs. -/
def isCu (u : Nat) : Bool := u % 2 = 1

/-! ### Interrupts (R442) -/

/-- The vector is masked by its entry of the MSI-X table, or by the function; in D3hot the function masters no bus
cycle (R412). -/
def vectorMasked (h : HostSide) (v : Nat) : Bool :=
  !h.msixEnabled || h.msixMask || h.d3 || bitOf (fld h.msixTable (16 * v + 12) 4) 0

/-- A vector is sent, or its pending bit is set while it is masked. -/
def sendVector (h : HostSide) (v : Nat) : HostSide :=
  if vectorMasked h v then { h with msixPending := setBit h.msixPending v true }
  else { h with sent := Tab.set h.sent v (Tab.getD h.sent v 0 + 1) }

/-- Set an IRQ_CAUSE bit; a change from 0 to 1 sends its vector. 0 FATAL, 1 THERMAL, 2 METER_SEAL, 3 PRESENCE. -/
def irq (v : Nat) (d : Device) : Device :=
  if d.host.irqCause.getLsbD v then d
  else { d with host := sendVector { d.host with irqCause := setBit d.host.irqCause v true } v }

/-! ### The Almanac (R498 to R501) -/

/-- Store offset of the record with a sequence number (R499). -/
def almanacAt (seq : Nat) : Nat := 0x30000000 + 64 * ((seq - 1) % 1048576)

/-- The presence window counts as open (R482, R484). -/
def windowOpen (d : Device) : Bool :=
  d.presence.maint || (match d.presence.windowEnd with | some t => decide (d.now < t) | none => false)

/-- The 60 bytes before the CRC of a record (Table 15.4). -/
def almanacBody (d : Device) (typ err subject mbx seq data : Nat) : Nat :=
  let flags := bit01 d.presence.maint + 2 * bit01 (windowOpen d) + 4 * bit01 d.presence.sealIntact
  d.mgmt.almanacNext.toNat + (d.now <<< 64) + (d.mgmt.powerOns.toNat <<< 128) + (typ <<< 160) + (err <<< 176)
    + (flags <<< 184) + ((subject % 2 ^ 32) <<< 192) + (mbx <<< 224) + (seq <<< 240) + ((data % 2 ^ 224) <<< 256)

/-- Write one record to the store; the erase block before the first record of each (R499). -/
def putRecord (typ err subject mbx seq data : Nat) (d : Device) : Device :=
  let m := d.mgmt
  let s := m.almanacNext.toNat
  let body := almanacBody d typ err subject mbx seq data
  let all := body + ((crc32 (natToBytes 60 body)).toNat <<< 480)
  let store := if (s - 1) % 4096 = 0 then Ram.blit m.store (almanacAt s) 262144 0 else m.store
  { d with mgmt := { m with store := Ram.blit store (almanacAt s) 64 all, almanacNext := satAdd m.almanacNext 1,
                            logCount := m.logCount + 1 } }

/-- A second of the log begins: the overflow record of the one before is written (R500). -/
def newSecond (d : Device) : Device :=
  let e := { d with mgmt := { d.mgmt with logFrom := d.now, logCount := 0, logDropped := 0 } }
  if d.mgmt.logDropped = 0 then e else putRecord 0xFF 0 0 0xFF 0 d.mgmt.logDropped e

/-- Write one record, unless 1,000 have been written in the current second (R500). -/
def logRec (typ err subject mbx seq data : Nat) (d : Device) : Device :=
  let d := if d.mgmt.logFrom + 1000000 ≤ d.now then newSecond d else d
  if 1000 ≤ d.mgmt.logCount then
    { d with mgmt := { d.mgmt with logDropped := d.mgmt.logDropped + 1, almanacDropped := satAdd d.mgmt.almanacDropped 1 } }
  else putRecord typ err subject mbx seq data d

/-- A record that concerns no command. -/
def log (typ subject data : Nat) (d : Device) : Device := logRec typ 0 subject 0xFF 0 data d

/-- A record that concerns the command of a mailbox. -/
def logCmd (typ err subject m data : Nat) (d : Device) : Device :=
  logRec typ err subject m (d.mb m).seq.toNat data d

/-- A record of an event that ends the command of a mailbox with a code, or that no command meets (R498). -/
def logEnd (typ : Nat) (err : BitVec 8) (subject : Nat) (m : Option Nat) (data : Nat) (d : Device) : Device :=
  match m with
  | some m => logCmd typ err.toNat subject m data d
  | none => log typ subject data d

/-! ### The ends of commands (R421, R422, R442) -/

/-- A command in this STATE is not final. -/
def MbxState.live : MbxState → Bool
  | .accepted | .running | .partial_ | .preempted | .waitingPresence => true
  | _ => false

/-- A command in this STATE has started and not ended. -/
def MbxState.started : MbxState → Bool
  | .running | .partial_ => true
  | _ => false

/-- R422: place of a code among those with which a command may end DONE; lower comes first. -/
def noteRank (c : BitVec 8) : Nat :=
  if c = 0x50 then 1 else if c = 0x32 then 2 else if c = 0x33 then 3 else if c = 0x61 then 4
  else if c = 0x60 then 5 else 6

/-- Keep an informational code by R422. -/
def addNote (c : BitVec 8) (x : Mailbox) : Mailbox := if noteRank c < noteRank x.note then { x with note := c } else x

/-- The error codes whose FAILED end sets IRQ_CAUSE.FATAL (R442). -/
def fatalCode (e : BitVec 8) : Bool := e = 0x40 || e = 0x41 || e = 0x70 || e = 0x71 || e = 0x7F

/-- The ingest windows bound to a command's mailbox come free (R439). -/
def unbind (m : Nat) (d : Device) : Device :=
  { d with host := { d.host with ingest := d.host.ingest.map (fun e =>
      match e.2.bound with
      | some b => if b.mbx = m then (e.1, { e.2 with bound := none, filling := none, bank0 := {}, bank1 := {} }) else e
      | none => e) } }

/-- The command of mailbox `m` ends FAILED with ERROR `e` (Table 13.6). -/
def endFailed (m : Nat) (e : BitVec 8) (d : Device) : Device :=
  let d := unbind m (d.updMb m (fun x =>
    let progress := if x.state = .accepted || x.state = .waitingPresence then 0 else x.progress
    { x with state := .failed, error := e, job := .none, rung := false, progress := progress }))
  if fatalCode e then irq 0 d else d

/-- The command of mailbox `m` ends DONE, with the informational code it kept (R422). -/
def endDone (m : Nat) (d : Device) : Device :=
  unbind m (d.updMb m (fun x => { x with state := .done, error := x.note, job := .none }))

/-- The doorbell's command ends REFUSED (Table 13.6). -/
def endRefused (m : Nat) (e : BitVec 8) (d : Device) : Device :=
  d.updMb m (fun x => { x with state := .refused, error := e, job := .none, rung := false, progress := 0 })

/-- Meridian writes `n` bytes of the reply area (R418). -/
def reply (m off n v : Nat) (d : Device) : Device :=
  d.updMb m (fun x => { x with reply := Ram.blit x.reply off n (v % 2 ^ (8 * n)) })

/-- Set the degraded flag of the command a section runs (R85, R315). -/
def setDegraded (m : Option Nat) (d : Device) : Device :=
  match m with | some i => d.updMb i (fun x => { x with degraded := true }) | none => d

/-- Opcode of the copied command (Table 13.5). -/
def Mailbox.opcode (x : Mailbox) : Nat := fld x.copy 0 2

/-- `n` argument bytes at argument offset `off` (Tables 13.8 to 13.12). -/
def Mailbox.arg (x : Mailbox) (off n : Nat) : Nat := fld x.copy (16 + off) n

/-! ### The residency table, frames and the logical space (R235 to R239) -/

/-- The entry of an unallocated page (R236). -/
def resFree : BitVec 64 := 0xFFFF000000000000#64

def Device.res (d : Device) (p : Nat) : BitVec 64 := Ram.read d.tiers.table p ^^^ resFree

def Device.setRes (d : Device) (p : Nat) (e : BitVec 64) : Device :=
  { d with tiers := { d.tiers with table := Ram.write d.tiers.table p (e ^^^ resFree) } }

def resValid (e : BitVec 64) : Bool := e.getLsbD 0
/-- 0 absent, 1 near, 2 far -/
def resTier (e : BitVec 64) : Nat := bitsOf e.toNat 1 2
def resClass (e : BitVec 64) : Bool := e.getLsbD 3
def resPin (e : BitVec 64) : Bool := e.getLsbD 5
def resMoving (e : BitVec 64) : Bool := e.getLsbD 6
def resPoison (e : BitVec 64) : Bool := e.getLsbD 7
def resAffinity (e : BitVec 64) : Nat := bitsOf e.toNat 8 8
def resUnit (e : BitVec 64) : Nat := bitsOf e.toNat 16 8
def resFrame (e : BitVec 64) : Nat := bitsOf e.toNat 24 19
def resLast (e : BitVec 64) : Nat := bitsOf e.toNat 44 4
def resGrad (e : BitVec 64) : Nat := bitsOf e.toNat 48 16

/-- Replace the field of `w` bits at `lo`. -/
def setField {n : Nat} (e : BitVec n) (lo w v : Nat) : BitVec n :=
  BitVec.ofNat n (e.toNat - (bitsOf e.toNat lo w <<< lo) + ((v % 2 ^ w) <<< lo))

/-- Tier code of a UNIT field (Table 7.3). -/
def tierOf (unit : Nat) : Nat := if unit < 16 then 1 else 2

/-- Frames that pages may use at a home (R225, R232), none for a removed package (R231). -/
def frameLimit (d : Device) (unit : Nat) : Nat :=
  if unit < 16 then 261120
  else if 0x20 ≤ unit && unit < 0x38 && !d.tiers.ftRemoved.getLsbD (unit - 0x20) then 520192
  else 0

/-- Frames in use at a home, ascending. -/
def usedFrames (d : Device) (unit : Nat) : List Nat :=
  (d.tiers.frames.filter (fun e => e.1 / 2 ^ 19 = unit)).map (fun e => e.1 % 2 ^ 19)

def freeCount (d : Device) (unit : Nat) : Nat := frameLimit d unit - (usedFrames d unit).length

/-- R538: the free count that Order 5 of Table 8.6 and R245 see: zero in a quadrant turned off. -/
def offerCount (d : Device) (unit : Nat) : Nat :=
  if unit < 16 && d.power.quadrantOff.getLsbD (unit / 4) then 0 else freeCount d unit

/-- The lowest number that an ascending list leaves out, from `k` up. -/
def lowestGap (k : Nat) : List Nat → Nat
  | [] => k
  | a :: rest => if a = k then lowestGap (k + 1) rest else k

/-- Reserve the lowest free frame at a home. -/
def takeFrame (d : Device) (unit : Nat) : Option (Nat × Device) :=
  let f := lowestGap 0 (usedFrames d unit)
  if f < frameLimit d unit then
    some (f, { d with tiers := { d.tiers with frames := Ram.write d.tiers.frames (unit * 2 ^ 19 + f) 1 } })
  else none

def giveFrame (d : Device) (unit frame : Nat) : Device :=
  { d with tiers := { d.tiers with frames := Ram.write d.tiers.frames (unit * 2 ^ 19 + frame) 0 } }

/-- A page's first byte in its tier's memory. -/
def frameAt (unit frame : Nat) : Nat :=
  if unit < 16 then unit * 2 ^ 34 + frame * 65536 else (unit - 0x20) * 2 ^ 35 + frame * 65536

/-- `n` bytes of a frame. -/
def readFrame (d : Device) (unit frame off n : Nat) : Nat :=
  Ram.slice (if unit < 16 then d.tiers.near else d.tiers.far) (frameAt unit frame + off) n

def writeFrame (d : Device) (unit frame off n v : Nat) : Device :=
  let a := frameAt unit frame + off
  if unit < 16 then { d with tiers := { d.tiers with near := Ram.blit d.tiers.near a n v } }
  else { d with tiers := { d.tiers with far := Ram.blit d.tiers.far a n v } }

/-- A page of a PAGE_MOVE that will not move counts as SKIPPED (R430). -/
def skipMove (mv : Move) (d : Device) : Device :=
  if mv.kind = 2 then
    d.updMb mv.mbx (fun x => match x.job with
      | .moving t todo fl a b =>
        if fl.contains mv.page then { x with job := .moving t todo (fl.erase mv.page) a (b + 1) } else x
      | _ => x)
  else d

/-- A move ends before Order 3 of Table 7.4: its target frame is free again. -/
def endMove (mv : Move) (d : Device) : Device :=
  skipMove mv (giveFrame { d with tiers := { d.tiers with moves := d.tiers.moves.filter (fun y => y != mv) } } mv.newUnit mv.newFrame)

/-- A write to a page that is being moved aborts the move (Table 7.4). -/
def abortMove (p : Nat) (d : Device) : Device :=
  match d.tiers.moves.find? (fun x => x.page = p && !x.switched) with
  | none => d
  | some mv =>
    let d := endMove mv { d with tiers := { d.tiers with aborts := satAdd d.tiers.aborts 1 } }
    d.setRes p (setField (d.res p) 6 1 0)

/-- R237: the first write to a page sets TIER. -/
def touchTier (p : Nat) (d : Device) : Device :=
  let e := d.res p
  if resTier e = 0 then d.setRes p (setField e 1 2 (tierOf (resUnit e))) else d

/-- `n` bytes of one page; a page that has never been written reads zero (R237). -/
def readPage (d : Device) (p off n : Nat) : Nat :=
  let e := d.res p
  if resValid e && resTier e != 0 then readFrame d (resUnit e) (resFrame e) off n else 0

/-- Write `n` bytes of one page that is VALID. -/
def writePage (p off n v : Nat) (d : Device) : Device :=
  if resValid (d.res p) then
    let d := touchTier p (abortMove p d)
    let e := d.res p
    writeFrame d (resUnit e) (resFrame e) off n v
  else d

/-- `n` bytes of the logical space from `a`, page by page; `fuel` bounds the pages touched. -/
def readLogicalAux (d : Device) : Nat → Nat → Nat → Nat
  | 0, _, _ => 0
  | fuel + 1, a, n =>
    if n = 0 then 0
    else
      let k := min n (65536 - a % 65536)
      readPage d (a / 65536) (a % 65536) k + (readLogicalAux d fuel (a + k) (n - k) <<< (8 * k))

def readLogical (d : Device) (a n : Nat) : Nat := readLogicalAux d (n / 65536 + 2) a n

def writeLogicalAux : Nat → Nat → Nat → Nat → Device → Device
  | 0, _, _, _, d => d
  | fuel + 1, a, n, v, d =>
    if n = 0 then d
    else
      let k := min n (65536 - a % 65536)
      writeLogicalAux fuel (a + k) (n - k) (v >>> (8 * k)) (writePage (a / 65536) (a % 65536) k (v % 2 ^ (8 * k)) d)

def writeLogical (a n v : Nat) (d : Device) : Device := writeLogicalAux (n / 65536 + 2) a n v d

/-- The pages that `n` bytes from `a` touch. -/
def pagesOf (a n : Nat) : List Nat :=
  if n = 0 then [] else (List.range ((a + n - 1) / 65536 - a / 65536 + 1)).map (· + a / 65536)

def anyInvalid (d : Device) (ps : List Nat) : Bool := ps.any (fun p => !resValid (d.res p))

def anyPoison (d : Device) (ps : List Nat) : Bool := ps.any (fun p => resPoison (d.res p))

/-- R229: the error code of an uncorrected error, by the CLASS of the page. -/
def classCode (e : BitVec 64) : BitVec 8 := if resClass e then 0x40 else 0x41

/-- R241: a changed entry invalidates the page in every translation cache. -/
def invalidate (p : Nat) (d : Device) : Device := { d with tiers := { d.tiers with invals := d.tiers.invals ++ [p] } }

/-- Make a page unallocated (R236); its frame is free once every translation cache has acknowledged (R241), and a move
under way ends. -/
def freePage (p : Nat) (d : Device) : Device :=
  let e := d.res p
  if resValid e then
    let d := match d.tiers.moves.find? (fun x => x.page = p && !x.switched) with
      | some mv => endMove mv d
      | none => d
    invalidate p ({ d with tiers := { d.tiers with freeing := d.tiers.freeing ++ [(p, resUnit e, resFrame e)] } }.setRes p resFree)
  else d

/-- The frames of freed pages whose invalidation is acknowledged are free. -/
def giveFreed (d : Device) : Device :=
  let done := fun (e : Nat × Nat × Nat) => !d.tiers.invals.contains e.1
  (d.tiers.freeing.filter done).foldl (fun d e => giveFrame d e.2.1 e.2.2)
    { d with tiers := { d.tiers with freeing := d.tiers.freeing.filter (fun e => !done e) } }

/-- The entry of a page just allocated (R272). -/
def allocEntry (cls pin : Bool) (unit frame : Nat) : BitVec 64 :=
  BitVec.ofNat 64 (1 + 8 * bit01 cls + 32 * bit01 pin + (unit <<< 16) + (frame <<< 24) + (0xFFFF <<< 48))

/-- Allocate a page with its frame at a home, cleared contents excepted: an absent page reads zero (R237). -/
def allocPage (p : Nat) (cls pin : Bool) (unit : Nat) (d : Device) : Option Device :=
  (takeFrame d unit).map (fun fd => invalidate p (fd.2.setRes p (allocEntry cls pin unit fd.1)))

/-- The home with the most free frames among a list, above a margin; ties go to the first. -/
def bestHome (d : Device) (margin : Nat) (homes : List Nat) : Option Nat :=
  (homes.foldl (fun acc u =>
    let c := offerCount d u
    if margin < c && (match acc with | some (_, n) => decide (n < c) | none => true) then some (u, c) else acc)
    (none : Option (Nat × Nat))).map (·.1)

def nearHomes : List Nat := List.range 16
def farHomes : List Nat := (List.range 24).map (· + 0x20)

/-- Order 5 of Table 8.6: the home of a new page. `HOME` is tried while it keeps more than DEMOTE_LOW frames. -/
def pickHome (d : Device) (home : Option Nat) : Option Nat :=
  let low := d.tiers.demoteLow.toNat
  match home with
  | some u => if low + 1 < offerCount d u then some u
              else (bestHome d (low + 1) nearHomes).orElse (fun _ => bestHome d 0 farHomes)
  | none => (bestHome d (low + 1) nearHomes).orElse (fun _ => bestHome d 0 farHomes)

/-- The lowest base of `n` consecutive pages that are unallocated and satisfy `ok`, searched upward. -/
def lowestRunAux (d : Device) (ok : Nat → Bool) (n : Nat) : Nat → Nat → Nat → Option Nat
  | 0, _, _ => none
  | fuel + 1, base, p =>
    if base + n > 16777216 then none
    else if p = base + n then some base
    else if ok p && !resValid (d.res p) then lowestRunAux d ok n fuel base (p + 1)
    else lowestRunAux d ok n fuel (p + 1) (p + 1)

def lowestRun (d : Device) (ok : Nat → Bool) (n : Nat) : Option Nat := lowestRunAux d ok n 33554433 0 0

end Sys2Proof.Machine
end

