-- ==== Sys2Proof/Machine/Operands.lean ====
section
/-!
DEFINITION. Machine/Operands.lean: the fields of an operation word (Table 2.8), predicate masks (R80, R81) and run-time
extents (R125).
-/
namespace Sys2Proof.Machine

/-- Bits [lo + w - 1 : lo] of an operation word. -/
def wordBits (x : BitVec 128) (lo w : Nat) : Nat := bitsOf x.toNat lo w

def wOp (x : BitVec 128) : Nat := wordBits x 120 8
def wPredicated (x : BitVec 128) : Bool := x.getLsbD 119
def wSlot (x : BitVec 128) : Nat := wordBits x 117 2
def wInvert (x : BitVec 128) : Bool := x.getLsbD 116
def wWait (x : BitVec 128) : Nat := wordBits x 112 4
def wSrcA (x : BitVec 128) : Nat := wordBits x 108 4
def wSrcB (x : BitVec 128) : Nat := wordBits x 104 4
def wOutMask (x : BitVec 128) : Nat := wordBits x 100 4
def wTileEnd (x : BitVec 128) : Bool := x.getLsbD 99
/-- Bits of the IMM. -/
def imm (x : BitVec 128) (lo w : Nat) : Nat := wordBits x lo w

/-- The ports of OUT_MASK. -/
def outPorts (x : BitVec 128) : List Nat := [0, 1, 2, 3].filter (fun p => bitOf (wOutMask x) p)

/-- A token tag (Table 2.4). -/
def mkTag (ctx : Nat) (tileEnd : Bool) (valid kind chan : Nat) : BitVec 32 :=
  BitVec.ofNat 32 (ctx % 4 + 4 * bit01 tileEnd + ((valid % 1024) <<< 4) + ((kind % 4) <<< 14) + ((chan % 4096) <<< 16))

def Token.ctx (t : Token) : Nat := bitsOf t.tag.toNat 0 2
def Token.tileEnd (t : Token) : Bool := t.tag.getLsbD 2
def Token.valid (t : Token) : Nat := bitsOf t.tag.toNat 4 10
def Token.kind (t : Token) : Nat := bitsOf t.tag.toNat 14 2
def Token.chan (t : Token) : Nat := bitsOf t.tag.toNat 16 12

def Token.withCtx (t : Token) (c : Nat) : Token := { t with tag := setField t.tag 0 2 c }
def Token.withChan (t : Token) (h : Nat) : Token := { t with tag := setField t.tag 16 12 h }
def Token.withTileEnd (t : Token) (e : Bool) : Token := { t with tag := setField t.tag 2 1 (bit01 e) }

/-- The active context of a unit. -/
def Unit.ctx (x : Unit) : Ctx := Tab.getD x.ctxs x.active {}

def Unit.setCtx (x : Unit) (k : Nat) (c : Ctx) : Unit := { x with ctxs := Tab.set x.ctxs k c }

def Unit.updCtx (x : Unit) (k : Nat) (f : Ctx → Ctx) : Unit := x.setCtx k (f (Tab.getD x.ctxs k {}))

/-- The tokens of a lane. -/
def Unit.lane (x : Unit) (port ctx : Nat) : List Token := Tab.getD x.lanes (4 * port + ctx) []

/-- Capacity of a lane (R49). -/
def Unit.laneCap (x : Unit) (port ctx : Nat) : Nat := bitsOf (Tab.getD x.ctxs ctx {}).caps.toNat (8 * port) 5

/-- R81: the effective mask bit of element (i, j) of a word. -/
def maskBit (c : Ctx) (w : BitVec 128) (k : Nat) : Bool :=
  if wPredicated w then (Ram.read c.pred (wSlot w)).getLsbD k != wInvert w else true

/-- R125: the remainder of the open loop at a level, or none. -/
def loopLeft (c : Core) (loops : List Loop) (level : Nat) : Option Nat :=
  if level = 0 then none
  else (loops[level - 1]?).bind (fun l =>
    if l.lenReg < 8 then
      let r := Tab.getD c.lens l.lenReg {}
      some (r.value - l.trip * r.grain)
    else none)

/-- An effective extent: the field limited by the loop of its level field. -/
def extent (c : Core) (loops : List Loop) (level v : Nat) : Nat :=
  match loopLeft c loops level with
  | some r => min v r
  | none => v

/-- R125: an effective trip count. -/
def tripsOf (c : Core) (lenReg trips : Nat) : Nat :=
  if lenReg < 8 then
    let r := Tab.getD c.lens lenReg {}
    min trips ((r.value + r.grain - 1) / max 1 r.grain)
  else trips

end Sys2Proof.Machine
end

