-- ==== Sys2Proof/Machine/Package.lean ====
section
/-!
DEFINITION. Machine/Package.lean: the fields of a graph package, read from its bytes (chapters 8, 10, 11 and 12).
-/
namespace Sys2Proof.Machine

/-! ### Header and directory (R268, R269) -/

def pkgFlags (m : Memory) : Nat := fld m 6 2
def pkgSections (m : Memory) : Nat := fld m 0x10 2
def pkgCores (m : Memory) : Nat := fld m 0x12 1
def pkgClusters (m : Memory) : Nat := fld m 0x13 1
def pkgStatsSegment (m : Memory) : Nat := fld m 0x18 1
def pkgStatsOffset (m : Memory) : Nat := fld m 0x20 8
def pkgTag (m : Memory) : Nat := fld m 0x28 16
def dirKind (m : Memory) (i : Nat) : Nat := fld m (0x100 + 32 * i) 2
def dirVersion (m : Memory) (i : Nat) : Nat := fld m (0x102 + 32 * i) 2
def dirCount (m : Memory) (i : Nat) : Nat := fld m (0x104 + 32 * i) 4
def dirOffset (m : Memory) (i : Nat) : Nat := fld m (0x108 + 32 * i) 8
def dirLength (m : Memory) (i : Nat) : Nat := fld m (0x110 + 32 * i) 8

/-- Directory index of a section kind. -/
def dirOf (m : Memory) (kind : Nat) : Option Nat := (List.range (pkgSections m)).find? (fun i => dirKind m i = kind)

def secCount (m : Memory) (kind : Nat) : Nat := match dirOf m kind with | some i => dirCount m i | none => 0
def secAt (m : Memory) (kind : Nat) : Nat := match dirOf m kind with | some i => dirOffset m i | none => 0
def secLen (m : Memory) (kind : Nat) : Nat := match dirOf m kind with | some i => dirLength m i | none => 0

/-! ### Segments, core map, affinity (R271, R277, R279) -/

def segCount (m : Memory) : Nat := secCount m 2
def segPages (m : Memory) (i : Nat) : Nat := fld m (secAt m 2 + 16 * i) 4
def segFlags (m : Memory) (i : Nat) : Nat := fld m (secAt m 2 + 16 * i + 4) 2
def segFixed (m : Memory) (i : Nat) : Bool := bitOf (segFlags m i) 0
def segExisting (m : Memory) (i : Nat) : Bool := bitOf (segFlags m i) 1
def segClass (m : Memory) (i : Nat) : Bool := bitOf (segFlags m i) 2
def segPin (m : Memory) (i : Nat) : Bool := bitOf (segFlags m i) 3
def segPromote (m : Memory) (i : Nat) : Bool := bitOf (segFlags m i) 4
def segKeep (m : Memory) (i : Nat) : Bool := bitOf (segFlags m i) 5
def segHome (m : Memory) (i : Nat) : Nat := fld m (secAt m 2 + 16 * i + 6) 1
def segBasePage (m : Memory) (i : Nat) : Nat := fld m (secAt m 2 + 16 * i + 8) 4

def clusterW (m : Memory) (c : Nat) : Nat := fld m (secAt m 1 + 4 * c) 1
def clusterH (m : Memory) (c : Nat) : Nat := fld m (secAt m 1 + 4 * c + 1) 1
def coreCluster (m : Memory) (l : Nat) : Nat := fld m (secAt m 1 + 4 * pkgClusters m + 4 * l) 1
def coreX (m : Memory) (l : Nat) : Nat := fld m (secAt m 1 + 4 * pkgClusters m + 4 * l + 1) 1
def coreY (m : Memory) (l : Nat) : Nat := fld m (secAt m 1 + 4 * pkgClusters m + 4 * l + 2) 1

/-- Affinity records of a logical core: segment, first page offset, count. -/
def affinityOf (m : Memory) (l : Nat) : List (Nat × Nat × Nat) :=
  ((List.range (secCount m 3)).filter (fun i => fld m (secAt m 3 + 12 * i) 1 = l)).map (fun i =>
    (fld m (secAt m 3 + 12 * i + 1) 1, fld m (secAt m 3 + 12 * i + 4) 4, fld m (secAt m 3 + 12 * i + 8) 4))

/-! ### Images (R280) -/

def imgCount (m : Memory) : Nat := secCount m 4
def imgWord (m : Memory) (i : Nat) : Nat := fld m (secAt m 4 + 16 * i) 2
def imgCore (m : Memory) (i : Nat) : Nat := bitsOf (imgWord m i) 0 4
def imgRow (m : Memory) (i : Nat) : Nat := bitsOf (imgWord m i) 4 3
def imgLcol (m : Memory) (i : Nat) : Nat := bitsOf (imgWord m i) 7 3
def imgCtx (m : Memory) (i : Nat) : Nat := bitsOf (imgWord m i) 10 2
def imgLayout (m : Memory) (i : Nat) : Nat := fld m (secAt m 4 + 16 * i + 2) 2
def imgFrame (m : Memory) (i : Nat) : Nat := fld m (secAt m 4 + 16 * i + 4) 4
/-- First byte of a frame of IMAGES. -/
def frameOff (m : Memory) (f : Nat) : Nat := secAt m 5 + 4116 * f
/-- First payload byte of a part of an image. -/
def imgPart (m : Memory) (i part : Nat) : Nat := frameOff m (imgFrame m i + part) + 16

/-- R556: the image loaded in a context of a logical unit at placement. -/
def firstImage (m : Memory) (l row lcol ctx : Nat) : Option Nat :=
  (List.range (imgCount m)).find? (fun i => imgCore m i = l && imgRow m i = row && imgLcol m i = lcol && imgCtx m i = ctx)

/-! ### Harness layouts (R281) -/

/-- Offsets of the layouts, in order; `n` bounds their number. -/
def layoutOffs (m : Memory) : Nat → Nat → Nat → List Nat
  | 0, _, _ => []
  | n + 1, off, stop =>
    if stop ≤ off then []
    else
      let sched := (2 * fld m (off + 2) 2 + 7) / 8 * 8
      off :: layoutOffs m n (off + 8 + sched + 8 * fld m (off + 4) 2) stop

def layouts (m : Memory) : List Nat := layoutOffs m 65536 (secAt m 6) (secAt m 6 + secLen m 6)
def layCore (m : Memory) (off : Nat) : Nat := fld m off 1
def layCtx (m : Memory) (off : Nat) : Nat := fld m (off + 1) 1
def laySchedN (m : Memory) (off : Nat) : Nat := fld m (off + 2) 2
def layPathN (m : Memory) (off : Nat) : Nat := fld m (off + 4) 2
def laySched (m : Memory) (off : Nat) : List Nat :=
  (List.range (laySchedN m off)).map (fun i => fld m (off + 8 + 2 * i) 2)
def layPaths (m : Memory) (off : Nat) : List Nat :=
  let base := off + 8 + (2 * laySchedN m off + 7) / 8 * 8
  (List.range (layPathN m off)).map (fun i => fld m (base + 8 * i) 8)

/-- Fields of a path record (Table 8.4). -/
def pathChan (p : Nat) : Nat := bitsOf p 0 12
def pathSrcRow (p : Nat) : Nat := bitsOf p 12 3
def pathSrcPos (p : Nat) : Nat := bitsOf p 15 4
def pathSrcKind (p : Nat) : Nat := bitsOf p 19 2
def pathSrcSide (p : Nat) : Nat := bitsOf p 21 2
def pathDstRow (p : Nat) : Nat := bitsOf p 23 3
def pathDstPos (p : Nat) : Nat := bitsOf p 26 4
def pathDstKind (p : Nat) : Nat := bitsOf p 30 2
def pathDstPort (p : Nat) : Nat := bitsOf p 32 2
def pathCross (p : Nat) : Nat := bitsOf p 34 4

/-! ### Streams, lengths, Ephemeris, memory units and spill (R276, R278, R355) -/

def streamsOff (m : Memory) (l : Nat) : Nat := secAt m 9 + 30720 * l
def lenGrain (m : Memory) (n : Nat) : Nat := bitsOf (fld m (secAt m 10 + 8 * n) 8) 0 16
def lenMax (m : Memory) (n : Nat) : Nat := bitsOf (fld m (secAt m 10 + 8 * n) 8) 16 32
def lenDeclared (m : Memory) (n : Nat) : Bool := (dirOf m 10).isSome && bitOf (fld m (secAt m 10 + 8 * n) 8) 48
def muClassMap (m : Memory) (l row lcol : Nat) : Nat := fld m (secAt m 7 + 16 * (32 * l + 4 * row + lcol / 2)) 8
def muUsedSlots (m : Memory) (l row lcol : Nat) : Nat := fld m (secAt m 7 + 16 * (32 * l + 4 * row + lcol / 2) + 8) 2
def spillWord (m : Memory) (i : Nat) : Nat := fld m (secAt m 8 + 8 * i) 8
def chunkMask (m : Memory) : Nat := fld m (secAt m 0x10) 2
def barrierEntry (m : Memory) (b : Nat) : Nat := fld m (secAt m 0x10 + 0x40 + 4 * b) 4
def coreHeader (m : Memory) (l : Nat) : Nat := secAt m 0x10 + 0x440 + 32 * l
def ephCount (m : Memory) (l : Nat) : Nat := fld m (coreHeader m l) 2
def ephFirst (m : Memory) (l : Nat) : Nat := fld m (coreHeader m l + 12) 4
def ephEntryOff (m : Memory) (l i : Nat) : Nat := secAt m 0x10 + 0x440 + 32 * pkgCores m + 32 * (ephFirst m l + i)

/-! ### Training and link routes (R322, R394) -/

def trainOff (m : Memory) : Nat := secAt m 0x12
def hasTraining (m : Memory) : Bool := (dirOf m 0x12).isSome
def groupCount (m : Memory) : Nat := if hasTraining m then fld m (trainOff m) 2 else 0
def groupOff (m : Memory) (g : Nat) : Nat := trainOff m + 0x40 + 64 * g
def hasLinks (m : Memory) : Bool := (dirOf m 0x13).isSome
def linkOff (m : Memory) : Nat := secAt m 0x13
def linkNodes (m : Memory) : List Nat :=
  (List.range (fld m (linkOff m + 4) 2)).map (fun r => bitsOf (fld m (linkOff m + 0x40 + 2 * r) 2) 0 10)
/-- EPOCH_BARRIER (Table 12.6). -/
def linkEpochBarrier (m : Memory) : Nat := fld m (linkOff m + 0x0E) 2
/-- PARENT of each rank in a tree. -/
def linkTree (m : Memory) (t : Nat) : List Nat :=
  let n := fld m (linkOff m + 4) 2
  let nl := (n + 3) / 4 * 8
  (List.range n).map (fun r => fld m (linkOff m + 0x40 + nl * (1 + t) + 2 * r) 2)

/-! ### The row-shift rule and physical routes (R32, R282, R283) -/

/-- R32: the physical column of each logical column of a row with these failed columns, none when not usable. -/
def rowShift (failed : Nat) : Option (List Nat) :=
  let mus := [0, 2, 4, 6, 8].filter (fun p => !bitOf failed p)
  let cus := [1, 3, 5, 7, 9].filter (fun p => !bitOf failed p)
  if mus.length < 4 || cus.length < 4 then none
  else some ((List.range 8).map (fun k => (if k % 2 = 0 then mus else cus).getD (k / 2) 0))

/-- Failed columns of a row. -/
def failedMask (d : Device) (core row : Nat) : Nat :=
  (List.range 10).foldl (fun acc p => if (80 * core + 10 * row + p) ∈ d.boot.defects then acc + 2 ^ p else acc) 0

/-- R33, R284: a reduced core. -/
def isReduced (d : Device) (core : Nat) : Bool :=
  d.mgmt.reduced.getLsbD core || (List.range 8).any (fun r => (rowShift (failedMask d core r)).isNone)

def coreColumns (d : Device) (core : Nat) : List Nat :=
  (List.range 8).flatMap (fun r => (rowShift (failedMask d core r)).getD [0, 1, 2, 3, 4, 5, 6, 7])

def idColumns : List Nat := (List.range 64).map (· % 8)

/-- Link targets: 4 left, 5 right, 6 up, 7 down (R67). -/
def stepsAlong (a b lo hi : Nat) : List (Nat × Nat) :=
  if a ≤ b then (List.range (b - a)).map (fun i => (a + i, hi)) else (List.range (a - b)).map (fun i => (a - i, lo))

/-- R282: the nodes of a path's route in a core with columns `cols`, each (row, column, target, edge). -/
def pathRoute (cols : List Nat) (p : Nat) : List (Nat × Nat × Nat × Nat) :=
  let sr := pathSrcRow p
  let dr := pathDstRow p
  let col : Nat → Nat → Nat → Nat := fun kind row pos => if kind = 0 then cols.getD (8 * row + pos) pos else pos
  let sc := col (pathSrcKind p) sr (pathSrcPos p)
  let dc := col (pathDstKind p) dr (pathDstPos p)
  let x := pathCross p
  let run : Nat → Nat → Nat → List (Nat × Nat × Nat × Nat) := fun row a b => (stepsAlong a b 4 5).map (fun e => (row, e.1, e.2, 0))
  let hops :=
    if sr = dr then run sr sc dc
    else run sr sc x ++ (stepsAlong sr dr 6 7).map (fun e => (e.1, x, e.2, 0)) ++ run dr x dc
  let last := match pathDstKind p with
    | 0 => (dr, dc, pathDstPort p, 0)
    | 1 => (dr, dc, 4 + pathDstPort p, 0)
    | _ => (dr, dc, 4 + pathDstPort p, 1)
  hops ++ [last]

/-- The route entries of one node in a layout (R67, R282). -/
def nodeRoutes (m : Memory) (off : Nat) (cols : List Nat) (row col : Nat) : List Nat :=
  (layPaths m off).flatMap (fun p =>
    ((pathRoute cols p).filter (fun e => e.1 = row && e.2.1 = col)).map (fun e =>
      pathChan p + (e.2.2.1 <<< 12) + (e.2.2.2 <<< 15) + (1 <<< 16)))

/-- Links of a node in the order of the pattern areas: left, right, up, down, horizontal edge, vertical edge
(DEDUCED, log entry 23): (target, edge) pairs. -/
def linkSlots (row col : Nat) : List (Nat × Nat) :=
  [(4, 0), (5, 0), (6, 0), (7, 0), (if col = 0 then 4 else 5, 1), (if row = 0 then 6 else 7, 1)]

/-- The pattern of one outgoing link of a node (R283). -/
def linkPattern (m : Memory) (off : Nat) (cols : List Nat) (row col target edge : Nat) : List Nat :=
  let crossing := (layPaths m off).filter (fun p =>
    (pathRoute cols p).any (fun e => e.1 = row && e.2.1 = col && e.2.2.1 = target && e.2.2.2 = edge))
  let chans := crossing.map pathChan
  (laySched m off).filter (fun s => (bitsOf s 0 12) ∈ chans)

/-- R285: the first node of a layout whose route table exceeds 256 entries, or a pattern of which exceeds 64: kind 4
or 5 of Table 8.8 and the node. -/
def layoutOverflow (m : Memory) (off : Nat) (cols : List Nat) : Option (Nat × Nat) :=
  (List.range 80).findSome? (fun n =>
    let row := n / 10
    let col := n % 10
    if 256 < (nodeRoutes m off cols row col).length then some (4, n)
    else if (linkSlots row col).any (fun l => decide (64 < (linkPattern m off cols row col l.1 l.2).length)) then
      some (5, n)
    else none)

/-- The 2,048 bytes of a part-2 payload that the Ostler derives: routes, then six patterns (Table 2.7). -/
def derivedPart2 (m : Memory) (off : Nat) (cols : List Nat) (row col : Nat) : Memory :=
  let routes := (nodeRoutes m off cols row col).zipIdx.foldl (fun (acc : Memory) e => Ram.blit acc (4 * e.2) 4 e.1) []
  (linkSlots row col).zipIdx.foldl (fun acc l =>
    (linkPattern m off cols row col l.1.1 l.1.2).zipIdx.foldl (fun acc e =>
      Ram.blit acc (1024 + 128 * l.2 + 2 * e.2) 2 e.1) acc) routes

end Sys2Proof.Machine
end

