-- ==== Sys2Proof/Machine/Ostler.lean ====
section
/-!
DEFINITION. Machine/Ostler.lean: placement of a section, its report, its release (R287 to R296, R82, R220, R326).
-/
namespace Sys2Proof.Machine

/-- Grid position of a core (Table 8.5). -/
def gridX (n : Nat) : Nat := 2 * (n / 4 % 2) + n % 2
def gridY (n : Nat) : Nat := 2 * (n / 8) + n / 2 % 2
def gridCore (x y : Nat) : Nat := 8 * (y / 2) + 4 * (x / 2) + 2 * (y % 2) + x % 2

def absDiff (a b : Nat) : Nat := (a - b) + (b - a)

/-- R82: the core distance. -/
def coreDistance (a b : Nat) : Nat := absDiff (gridX a) (gridX b) + absDiff (gridY a) (gridY b)

/-- A section that holds its cores. -/
def SecState.placed : SecState → Bool
  | .preempted => false
  | _ => true

/-- Cores held by other placed sections. -/
def heldCores (d : Device) (except_ : Nat) : List Nat :=
  (d.sections.filter (fun s => s.handle != except_ && s.state.placed)).flatMap (·.cores)

/-- R287: the candidate cores. -/
def candidates (d : Device) (sec : Section) : List Nat :=
  (List.range 16).filter (fun n =>
    bitOf sec.allowed n && !isReduced d n && !((heldCores d sec.handle).contains n) && !d.sched.offline.getLsbD n)

/-- A placement that fails: ERROR, FAIL_KIND, FAIL_ITEM (Table 8.8). -/
abbrev PlaceFail := BitVec 8 × Nat × Nat

/-! ### Order 2: base pages (R272) -/

/-- Pages of the package's fixed segments and of base pages already chosen. -/
def takenPage (m : Memory) (bases : List Nat) (p : Nat) : Bool :=
  (List.range (segCount m)).any (fun i =>
    if segFixed m i then segBasePage m i ≤ p && p < segBasePage m i + segPages m i
    else match bases[i]? with
      | some b => b ≤ p && p < b + segPages m i
      | none => false)

/-- The base pages of the segments in order, or the failure. -/
def chooseBases (d : Device) (m : Memory) : Except PlaceFail (List Nat) :=
  (List.range (segCount m)).foldl (fun acc i =>
    match acc with
    | .error e => .error e
    | .ok bases =>
      if segFixed m i then
        if segExisting m i then
          match (List.range (segPages m i)).find? (fun k => !resValid (d.res (segBasePage m i + k))) with
          | some k => .error (0x13, 1, (i <<< 24) + k)
          | none => .ok (bases ++ [segBasePage m i])
        else .ok (bases ++ [segBasePage m i])
      else
        match lowestRun d (fun p => !takenPage m bases p) (segPages m i) with
        | some b => .ok (bases ++ [b])
        | none => .error (0x12, 2, i)) (.ok [])

/-! ### Order 3: clusters (R288, R289) -/

/-- Clusters in order of descending W × H, then ascending number. -/
def insertCluster (m : Memory) (c : Nat) : List Nat → List Nat
  | [] => [c]
  | x :: rest =>
    if clusterW m x * clusterH m x < clusterW m c * clusterH m c then c :: x :: rest
    else x :: insertCluster m c rest

def clusterOrder (m : Memory) : List Nat := (List.range (pkgClusters m)).foldl (fun acc c => insertCluster m c acc) []

/-- Pages of a logical core's affinity ranges that lie near at a core (R289). -/
def affinityScore (d : Device) (m : Memory) (bases : List Nat) (l core : Nat) : Nat :=
  ((affinityOf m l).map (fun r =>
    ((List.range r.2.2).filter (fun k =>
      let e := d.res (bases.getD r.1 0 + r.2.1 + k)
      resValid e && resTier e = 1 && resUnit e = core)).length)).sum

/-- The logical cores of a cluster. -/
def clusterCores (m : Memory) (c : Nat) : List Nat := (List.range (pkgCores m)).filter (fun l => coreCluster m l = c)

/-- An eligible translation: its score and its anchor. -/
def translationScore (d : Device) (m : Memory) (bases : List Nat) (c ox oy : Nat) : Nat :=
  ((clusterCores m c).map (fun l => affinityScore d m bases l (gridCore (ox + coreX m l) (oy + coreY m l)))).sum

def eligible (m : Memory) (free : List Nat) (c ox oy : Nat) : Bool :=
  ox + clusterW m c ≤ 4 && oy + clusterH m c ≤ 4 &&
    (List.range (clusterW m c)).all (fun x => (List.range (clusterH m c)).all (fun y =>
      free.contains (gridCore (ox + x) (oy + y))))

/-- The tie-break key of R289; with seed 0 the anchor itself. -/
def anchorKey (seed c anchor : Nat) : Nat :=
  if seed = 0 then anchor
  else (mix32 (BitVec.ofNat 32 seed ^^^ BitVec.ofNat 32 (seed >>> 32) ^^^ BitVec.ofNat 32 (c <<< 4)
          ^^^ BitVec.ofNat 32 anchor)).toNat

/-- The best translation of a cluster: higher score, then lower key, then lower anchor. -/
def bestTranslation (d : Device) (m : Memory) (bases free : List Nat) (seed c : Nat) : Option (Nat × Nat) :=
  ((List.range 16).foldl (fun (acc : Option (Nat × Nat × Nat)) n =>
    let ox := gridX n
    let oy := gridY n
    if eligible m free c ox oy then
      let s := translationScore d m bases c ox oy
      let k := anchorKey seed c n
      match acc with
      | some (s', k', _) => if s' < s || (s' = s && k < k') then some (s, k, n) else acc
      | none => some (s, k, n)
    else acc) none).map (fun r => (r.2.2, r.1))

/-- Cores and scores of the logical cores, or the failure. -/
def placeClusters (d : Device) (m : Memory) (bases free : List Nat) (seed : Nat) : Except PlaceFail (Tab (Nat × Nat)) :=
  ((clusterOrder m).foldl (fun (acc : Except PlaceFail (Tab (Nat × Nat) × List Nat)) c =>
    match acc with
    | .error e => .error e
    | .ok (placed, free) =>
      match bestTranslation d m bases free seed c with
      | none => .error (0x11, 3, c)
      | some (anchor, _) =>
        let cores := (clusterCores m c).map (fun l =>
          (l, gridCore (gridX anchor + coreX m l) (gridY anchor + coreY m l)))
        .ok (cores.foldl (fun t e => Tab.set t e.1 (e.2, affinityScore d m bases e.1 e.2)) placed,
             free.filter (fun n => !(cores.any (fun e => e.2 = n)))))
    (.ok ([], free))).map (·.1)

/-! ### Order 4: columns, routes and patterns (R285) -/

/-- The limits of R285 in the placed cores: kind, UNIT_ID and layout. -/
def routeFail (m : Memory) (cores : List Nat) (cols : Nat → List Nat) : Option PlaceFail :=
  (layouts m).zipIdx.findSome? (fun e =>
    let l := layCore m e.1
    (layoutOverflow m e.1 (cols l)).map (fun f =>
      (0x11, f.1, (unitId (80 * cores.getD l 0 + f.2) <<< 16) + e.2)))

/-! ### Orders 5 and 6: frames -/

/-- R326: the home of a gradient page: the near tier only, giving the margin up last. -/
def pickGradHome (d : Device) (home : Option Nat) : Option Nat :=
  let low := d.tiers.demoteLow.toNat
  let rest := (bestHome d (low + 1) nearHomes).orElse (fun _ => bestHome d 0 nearHomes)
  match home with
  | some u => if low + 1 < offerCount d u then some u else rest
  | none => rest

/-- The segments that hold gradients. -/
def gradSegments (m : Memory) : List Nat := (List.range (groupCount m)).map (fun g => fld m (groupOff m g + 1) 1)

/-- The segments that hold parameters, with their groups. -/
def paramSegments (m : Memory) : List (Nat × Nat) :=
  (List.range (groupCount m)).map (fun g => (fld m (groupOff m g) 1, g))

/-- Physical core of a segment's HOME. -/
def homeCore (m : Memory) (cores : List Nat) (i : Nat) : Option Nat :=
  if segHome m i = 0xFF then none else cores[segHome m i]?

/-- Allocate the new pages of one segment: the device, pages new, pages near. -/
def allocSegment (m : Memory) (cores bases : List Nat) (i : Nat) (d : Device) : Except PlaceFail (Device × Nat × Nat) :=
  if segExisting m i then .ok (d, 0, 0)
  else
    let grad := (gradSegments m).contains i
    let home := homeCore m cores i
    (List.range (segPages m i)).foldl (fun acc k =>
      match acc with
      | .error e => .error e
      | .ok (d, new, near) =>
        let p := bases.getD i 0 + k
        if resValid (d.res p) then .ok (d, new, near)
        else
          match (if grad then pickGradHome d home else pickHome d home) with
          | none => .error (0x12, 6, i)
          | some u =>
            match allocPage p (segClass m i) (segPin m i) u d with
            | some d' => .ok (d', new + 1, near + bit01 (decide (u < 16)))
            | none => .error (0x12, 6, i)) (.ok (d, 0, 0))

/-- The segments in order: those of Order 5, or at Order 8 the gradient segments (R326).  New pages and near pages of
each segment. -/
def allocSegments (grad : Bool) (m : Memory) (cores bases : List Nat) (d : Device) :
    Except PlaceFail (Device × List Nat × List Nat) :=
  (List.range (segCount m)).foldl (fun acc i =>
    match acc with
    | .error e => .error e
    | .ok (d, news, nears) =>
      match (if (gradSegments m).contains i = grad then allocSegment m cores bases i d else .ok (d, 0, 0)) with
      | .error e => .error e
      | .ok (d', n, r) => .ok (d', news ++ [n], nears ++ [r])) (.ok (d, [], []))

/-- The frames of a logical core's frame store: its images and the generated frames of its layouts (R284). -/
def storeFrames (m : Memory) (l : Nat) : Nat :=
  ((List.range (imgCount m)).filter (fun i => imgCore m i = l)).length
    + 16 * ((layouts m).filter (fun off => layCore m off = l)).length

/-- A page of a gradient segment, whose pages are allocated after the frame stores. -/
def gradPage (m : Memory) (bases : List Nat) (p : Nat) : Bool :=
  (gradSegments m).any (fun i => bases.getD i 0 ≤ p && decide (p < bases.getD i 0 + segPages m i))

/-- Allocate `n` consecutive pinned pages of weight class 0 in a near tier, none of them one that `taken` says is spoken
for. -/
def allocPinned (taken : Nat → Bool) (core n : Nat) (d : Device) : Option (Device × Nat) :=
  if n = 0 then some (d, 0)
  else
    match lowestRun d (fun p => !taken p) n with
    | none => none
    | some b =>
      ((List.range n).foldl (fun (acc : Option Device) k =>
        acc.bind (fun d => allocPage (b + k) false true core d)) (some d)).map (fun d => (d, b))

/-- Order 6: frame stores and the report area: bases, page counts, report base. -/
def allocStores (m : Memory) (cores bases : List Nat) (d : Device) : Except PlaceFail (Device × List Nat × List Nat × Nat) :=
  let r := (List.range (pkgCores m)).foldl (fun (acc : Except PlaceFail (Device × List Nat × List Nat)) l =>
    match acc with
    | .error e => .error e
    | .ok (d, bs, ns) =>
      let n := (storeFrames m l + 3) / 4
      match allocPinned (gradPage m bases) (cores.getD l 0) n d with
      | none => .error (0x12, 7, l)
      | some (d, b) => .ok (d, bs ++ [b], ns ++ [n])) (.ok (d, [], []))
  match r with
  | .error e => .error e
  | .ok (d, bs, ns) =>
    match allocPinned (gradPage m bases) (cores.getD 0 0) 3 d with
    | none => .error (0x12, 7, 0)
    | some (d, b) => .ok (d, bs, ns, b)

/-! ### Order 7: spill regions (R82, R220) -/

/-- SPILL records in order of descending RESERVE, ties in record order. -/
def insertSpill (m : Memory) (i : Nat) : List Nat → List Nat
  | [] => [i]
  | x :: rest =>
    if bitsOf (spillWord m x) 16 16 < bitsOf (spillWord m i) 16 16 then i :: x :: rest else x :: insertSpill m i rest

def spillOrder (m : Memory) : List Nat := (List.range (secCount m 8)).foldl (fun acc i => insertSpill m i acc) []

/-- The regions every section has carved in an MU: base and words. -/
def carvedIn (d : Device) (mine : List SpillRegion) (mu : Nat) : List (Nat × Nat) :=
  ((d.sections.flatMap (·.spills)) ++ mine).filterMap (fun r => if r.mu = mu then some (r.base, 17 * r.cap) else none)

/-- The class map and used slots of the logical MU placed at an MU, none for a remount or an unplaced one. -/
def placedMu (m : Memory) (cores : List Nat) (cols : Nat → List Nat) (mu : Nat) : Option (Nat × Nat) :=
  let row := mu % 80 / 10
  (List.range (pkgCores m)).findSome? (fun l =>
    if cores.getD l 99 = mu / 80 then
      ([0, 2, 4, 6].find? (fun lc => (cols l).getD (8 * row + lc) 99 = mu % 10)).map (fun lc =>
        (muClassMap m l row lc, muUsedSlots m l row lc))
    else none)

/-- A word that a region may use: at or above USED_SLOTS, in an activation-class segment, in no carved region.
The result is the top base of the highest run of `n` free words. -/
def carveTop (lowWord cls : Nat) (carved : List (Nat × Nat)) (n : Nat) : Nat → Nat → Nat → Option Nat
  | 0, _, _ => none
  | fuel + 1, w, run =>
    -- `w` is one above the word looked at; `run` free words lie from `w` up
    if run = n then some w
    else if w = 0 then none
    else
      let x := w - 1
      let used := x < lowWord || (bitOf cls (x / 2048) && decide (lowWord ≤ x / 2048 * 2048) == false)
        || carved.any (fun c => c.1 ≤ x && x < c.1 + c.2)
      carveTop lowWord cls carved n fuel x (if used then 0 else run + 1)

/-- The lowest of an MU's 16 spill descriptors that is not in use (log entry 90, DESIGN CHOICE). -/
def freeDesc (d : Device) (mine : List SpillRegion) (mu : Nat) : Option Nat :=
  let used := ((d.sections.flatMap (·.spills)) ++ mine).filterMap (fun r => if r.mu = mu then some r.desc else none)
  (List.range 16).find? (fun i => !used.contains i)

/-- The MUs tried for a queue, with the HOPS of the report (R82). -/
def spillMus (d : Device) (cores : List Nat) (unit : Nat) : List (Nat × Nat) :=
  let core := unit / 80
  let row := unit % 80 / 10
  let col := unit % 10
  let working := fun (c r : Nat) => [0, 2, 4, 6, 8].filter (fun p => !bitOf (failedMask d c r) p)
  let own := (List.range 10).flatMap (fun dist =>
    (working core row).filterMap (fun p => if absDiff p col = dist then some (80 * core + 10 * row + p, dist) else none))
  let others := (List.range 7).flatMap (fun dist =>
    (List.range 16).flatMap (fun c =>
      if c != core && cores.contains c && coreDistance core c = dist then
        -- ascending UNIT_ID: column before row
        [0, 2, 4, 6, 8].flatMap (fun p => (List.range 8).filterMap (fun r =>
          if (working c r).contains p then some (80 * c + 10 * r + p, 0x100 * dist) else none))
      else []))
  own ++ others

/-- Carve the region of one SPILL record. -/
def carveOne (d : Device) (m : Memory) (cores : List Nat) (cols : Nat → List Nat) (mine : List SpillRegion) (i : Nat) :
    Option SpillRegion :=
  let w := spillWord m i
  let l := bitsOf w 0 4
  let row := bitsOf w 4 3
  let unit := 80 * cores.getD l 0 + 10 * row + (cols l).getD (8 * row + bitsOf w 7 3) 0
  let n := bitsOf w 16 16
  (spillMus d cores unit).findSome? (fun e =>
    let (cls, used) := (placedMu m cores cols e.1).getD (0, 0)
    match freeDesc d mine e.1, carveTop (16 * used) cls (carvedIn d mine e.1) (17 * n) 131074 131072 0 with
    | some k, some base =>
      some { unit := unit, port := bitsOf w 10 2, lane := bitsOf w 12 2, mu := e.1, desc := k, base := base, cap := n,
             reserve := n, hops := e.2, record := i }
    | _, _ => none)

def carveAll (d : Device) (m : Memory) (cores : List Nat) (cols : Nat → List Nat) : Except PlaceFail (List SpillRegion) :=
  (spillOrder m).foldl (fun acc i =>
    match acc with
    | .error e => .error e
    | .ok mine =>
      match carveOne d m cores cols mine i with
      | some r => .ok (mine ++ [r])
      | none => .error (0x12, 8, i)) (.ok [])

/-! ### Order 8: relocation (R273, R274, R214, R326) -/

/-- Apply one RELOC record to the package's bytes. -/
def applyReloc (bases : List Nat) (m : Memory) (i : Nat) : Memory :=
  let w := fld m (secAt m 0xB + 8 * i) 8
  let a := dirOffset m (bitsOf w 32 16) + bitsOf w 0 32
  let base := bases.getD (bitsOf w 48 6) 0 * 65536
  let v := fld m a 8
  if bitsOf w 54 2 = 0 then
    Ram.blit m a 8 (v - bitsOf v 0 40 + (base + bitsOf v 0 40) % 2 ^ 40)
  else Ram.blit m a 8 ((base + v) % 2 ^ 64)

/-- Recompute the CRC of a frame at a byte offset (R274). -/
def fixCrc (m : Memory) (off : Nat) : Memory :=
  Ram.blit m (off + 0x1010) 4 (crc32 (natToBytes 0x1010 (fld m off 0x1010))).toNat

/-- The relocated package. -/
def relocate (m : Memory) (bases : List Nat) : Memory :=
  (List.range (secCount m 0xB)).foldl (fun acc i => applyReloc bases acc i) m

/-- R214: CLASS_MAP with the segments at or above USED_SLOTS forced to activation. -/
def maskedClass (cls used : Nat) : BitVec 64 :=
  BitVec.ofNat 64 ((List.range 64).foldl (fun acc g => if bitOf cls g && 128 * g < used then acc + 2 ^ g else acc) 0)

/-- QUEUE_ID (Table 2.2). -/
def queueId (unit port lane chan : Nat) : Nat := (unitId unit <<< 16) + (port <<< 14) + (lane <<< 12) + chan

/-- GRAD_INDEX of every parameter page (R326). -/
def setGradIndex (sec : Section) (d : Device) : Device :=
  (paramSegments sec.pkg).foldl (fun d e =>
    (List.range (segPages sec.pkg e.1)).foldl (fun d k =>
      let p := sec.segBase.getD e.1 0 + k
      d.setRes p (setField (d.res p) 48 16 e.2)) d) d

/-- The first parameter page that another section trains. -/
def gradClash (d : Device) (m : Memory) (bases : List Nat) : Option PlaceFail :=
  (paramSegments m).findSome? (fun e =>
    ((List.range (segPages m e.1)).find? (fun k => resGrad (d.res (bases.getD e.1 0 + k)) != 0xFFFF)).map
      (fun k => (0x13, 1, (e.1 <<< 24) + k)))

/-- The pages of the statistics area and of the gradient segments, which the loader pins (R246, R275). -/
def pinnedPages (sec : Section) : List Nat :=
  let m := sec.pkg
  let a := sec.segBase.getD (pkgStatsSegment m) 0 * 65536 + pkgStatsOffset m
  pagesOf a (8192 * imgCount m)
    ++ (gradSegments m).flatMap (fun i => (List.range (segPages m i)).map (· + sec.segBase.getD i 0))

/-- PIN of those pages, allocated by this placement or before it (R246). -/
def pinPages (sec : Section) (d : Device) : Device :=
  (pinnedPages sec).foldl (fun d p => if resValid (d.res p) then d.setRes p (setField (d.res p) 5 1 1) else d) d

/-! ### Frame stores (R284, R457, Orders 6 and 8 of Table 8.6) -/

/-- Physical columns of a logical core, eight a row. -/
def colsAt (sec : Section) (l : Nat) : List Nat := (sec.l2p.drop (64 * l)).take 64

/-- Physical columns of a row to which no logical unit maps. -/
def spareIn (cols : List Nat) (row : Nat) : List Nat :=
  (List.range 10).filter (fun p => !((cols.drop (8 * row)).take 8).contains p)

/-- The layout of a row's images of one context, in the order of the images loaded at placement (R556), or the first
layout of the core and context: the one whose generated frames the row gets. -/
def loadLayout (m : Memory) (l row ctx : Nat) : Option Nat :=
  let own := ((List.range 8).findSome? (fun k => firstImage m l row k ctx)).map (imgLayout m)
  own.orElse (fun _ => ((layouts m).zipIdx.find? (fun e => layCore m e.1 = l && layCtx m e.1 = ctx)).map (·.2))

/-- The HCHAN bound to a queue in the first layout loaded into its lane: that of its unit's first image in the context,
or the row's (R295, R556). -/
def queueChan (m : Memory) (i : Nat) : Nat :=
  let w := spillWord m i
  let l := bitsOf w 0 4
  let row := bitsOf w 4 3
  let lay := ((firstImage m l row (bitsOf w 7 3) (bitsOf w 12 2)).map (imgLayout m)).orElse (fun _ => loadLayout m l row (bitsOf w 12 2))
  (lay.bind (fun n => ((layPaths m ((layouts m).getD n 0)).find? (fun p => pathDstKind p = 0 && pathDstRow p = row
    && pathDstPos p = bitsOf w 7 3 && pathDstPort p = bitsOf w 10 2)).map pathChan)).getD 0

/-- Write CLASS_MAP and the spill descriptors to the placed MUs; segments whose class changes are zeroed (R214,
R219). -/
def writeMus (sec : Section) (d : Device) : Device :=
  let m := sec.pkg
  let d := (List.range (pkgCores m)).foldl (fun d l =>
    (List.range 8).foldl (fun d row =>
      [0, 2, 4, 6].foldl (fun d lc =>
        let u := 80 * sec.cores.getD l 0 + 10 * row + sec.l2p.getD (64 * l + 8 * row + lc) 0
        let cls := maskedClass (muClassMap m l row lc) (muUsedSlots m l row lc)
        d.updUnit u (fun x =>
          let changed := x.mu.classMap ^^^ cls
          let segs := ((List.range 64).filter (fun g => changed.getLsbD g)).length
          { x with mu := { x.mu with
              classMap := cls
              usedSlots := muUsedSlots m l row lc
              initLeft := x.mu.initLeft + 128 * segs
              ram := x.mu.ram.filter (fun e => !changed.getLsbD (e.1 / 2048)) } })) d) d) d
  sec.spills.foldl (fun d r =>
    let own := BitVec.ofNat 32 (queueId r.unit r.port r.lane (queueChan m r.record))
    let sd : SpillDesc := { base := r.base, cap := r.cap, valid := true, owner := own }
    d.updUnit r.mu (fun x => { x with mu := { x.mu with spills := Tab.set x.mu.spills r.desc sd } })) d

/-- The payload of one part of an image at a node, with the routes and patterns of its layout. -/
def imagePayload (m : Memory) (cols : List Nat) (image part row col : Nat) : Nat :=
  let own := fld m (imgPart m image part) 4096
  if part = 2 then
    fld (derivedPart2 m ((layouts m).getD (imgLayout m image) 0) cols row col) 0 1792 + (own >>> 14336 <<< 14336)
  else own

/-- The payload of a generated part-2 frame. -/
def genPayload (m : Memory) (cols : List Nat) (lay row col : Nat) : Nat :=
  fld (derivedPart2 m ((layouts m).getD lay 0) cols row col) 0 1792

/-- The images of a logical core, in order: an image's place in the core's frame store. -/
def storeImages (m : Memory) (l : Nat) : List Nat := (List.range (imgCount m)).filter (fun i => imgCore m i = l)

/-- Logical address of a 16 KiB place in a core's frame store: four a page. -/
def storeAddr (sec : Section) (l k : Nat) : Nat := sec.storeBase.getD l 0 * 65536 + 16384 * k

/-- An image's four payloads go to its place (also R457). -/
def writeStoreImage (sec : Section) (image : Nat) (d : Device) : Device :=
  let m := sec.pkg
  let l := imgCore m image
  let row := imgRow m image
  let cols := colsAt sec l
  let k := ((storeImages m l).idxOf? image).getD 0
  [0, 1, 2, 3].foldl (fun d p =>
    writeLogical (storeAddr sec l k + 4096 * p) 4096 (imagePayload m cols image p row (cols.getD (8 * row + imgLcol m image) 0)) d) d

/-- The generated frames of the spare columns follow the images: 16 a layout, row by row. -/
def writeStoreGen (sec : Section) (l : Nat) (d : Device) : Device :=
  let m := sec.pkg
  let cols := colsAt sec l
  let base := (storeImages m l).length
  (((layouts m).zipIdx.filter (fun e => layCore m e.1 = l)).zipIdx).foldl (fun d e =>
    (List.range 8).foldl (fun d row =>
      ((spareIn cols row).zipIdx).foldl (fun d s =>
        writeLogical (storeAddr sec l (base + 16 * e.2 + 2 * row + s.2) + 8192) 4096 (genPayload m cols e.1.2 row s.1) d) d) d) d

/-- Order 8: every frame store of the section. -/
def writeStores (sec : Section) (d : Device) : Device :=
  let d := (List.range (imgCount sec.pkg)).foldl (fun d i => writeStoreImage sec i d) d
  (List.range (pkgCores sec.pkg)).foldl (fun d l => writeStoreGen sec l d) d

/-! ### One placement -/

/-- STATS_BASE (R275). -/
def statsBase (sec : Section) : Nat :=
  sec.segBase.getD (pkgStatsSegment sec.pkg) 0 * 65536 + pkgStatsOffset sec.pkg

def colsOf (d : Device) (cores : List Nat) (l : Nat) : List Nat := coreColumns d (cores.getD l 0)

/-- Orders 3 and 4 of Table 8.6. -/
def chooseCores (d : Device) (sec : Section) (bases : List Nat) : Except PlaceFail (List Nat × List Nat) :=
  let m := sec.pkg
  match placeClusters d m bases (candidates d sec) sec.seed with
  | .error e => .error e
  | .ok t =>
    let cores := (List.range (pkgCores m)).map (fun l => (Tab.getD t l (0, 0)).1)
    let scores := (List.range (pkgCores m)).map (fun l => (Tab.getD t l (0, 0)).2)
    match routeFail m cores (colsOf d cores) with
    | some f => .error f
    | none => .ok (cores, scores)

/-- Orders 6 and 7 of Table 8.6, shared by a first placement and a resumption. -/
def finishPlace (sec : Section) (d : Device) : Except PlaceFail (Device × Section) :=
  match allocStores sec.pkg sec.cores sec.segBase d with
  | .error e => .error e
  | .ok (d, bs, ns, rep) =>
    match carveAll d sec.pkg sec.cores (colsOf d sec.cores) with
    | .error e => .error e
    | .ok sp =>
      .ok (d, { sec with
        l2p := (List.range (pkgCores sec.pkg)).flatMap (colsOf d sec.cores)
        storeBase := bs
        storePages := ns
        reportBase := rep
        spills := sp })

/-- A first placement: Orders 1 to 8 of Table 8.6 (R288).  The MUs of a package with link routes are written once its
set has formed, so that a formation that fails leaves no change (R397). -/
def placeSection (sec : Section) (d : Device) : Except PlaceFail (Device × Section) :=
  let m := sec.pkg
  match chooseBases d m with
  | .error e => .error e
  | .ok bases =>
    match chooseCores d sec bases with
    | .error e => .error e
    | .ok (cores, scores) =>
      match allocSegments false m cores bases d with
      | .error e => .error e
      | .ok (d1, news, nears) =>
        match finishPlace { sec with cores := cores, scores := scores, segBase := bases, newPages := news,
                                     nearPages := nears } d1 with
        | .error e => .error e
        | .ok (d2, sec) =>
          match gradClash d2 m bases, allocSegments true m cores bases d2 with
          | some f, _ => .error f
          | none, .error e => .error e
          | none, .ok (d2, gnews, gnears) =>
            let all := (List.range (segCount m)).flatMap (fun i => (List.range (segPages m i)).map (· + bases.getD i 0))
            let fresh := all.filter (fun p => !resValid (d.res p))
            let pinned := (pinnedPages sec).filter (fun p => !resPin (d2.res p))
            let sec := { sec with pkg := relocate m bases, fresh := fresh, pinned := pinned
                                  newPages := news.zipWith (· + ·) gnews, nearPages := nears.zipWith (· + ·) gnears }
            let d2 := if hasLinks m then d2 else writeMus sec d2
            .ok (writeStores sec (setGradIndex sec (pinPages sec d2)), sec)

/-- The section's semaphores are zero when it is placed (R301, R302). -/
def clearSems (cores : List Nat) (d : Device) : Device :=
  cores.foldl (fun d c => d.updQuad (c / 4) (fun q =>
    { q with sems := q.sems.filter (fun e => e.1 / 1024 != c % 4) })) d

/-! ### The placement report (R295, Table 8.7) -/

/-- Cores as a mask. -/
def maskOf (l : List Nat) : Nat := (List.range 16).foldl (fun acc n => if l.contains n then acc + 2 ^ n else acc) 0

/-- Bit r: the row's columns are not the identity. -/
def shiftedRows (cols : List Nat) (l : Nat) : Nat :=
  (List.range 8).foldl (fun acc r =>
    if (List.range 8).all (fun k => cols.getD (64 * l + 8 * r + k) k = k) then acc else acc + 2 ^ r) 0

/-- The report's bytes with its first `n` spill entries. -/
def reportBytes (d : Device) (sec : Section) (fail : PlaceFail) (unavail n : Nat) (rep : Nat) : Memory :=
  let m := sec.pkg
  let ok := fail.1 = 0
  let put := fun (acc : Memory) (off w v : Nat) => Ram.blit acc off w (v % 2 ^ (8 * w))
  let r := put [] 0 2 1
  let r := put (put (put r 2 1 fail.1.toNat) 3 1 fail.2.1) 4 4 fail.2.2
  let r := put (put r 8 8 sec.seed) 0x10 8 (rep * 65536)
  let r := put (put (put r 0x18 2 sec.allowed) 0x1A 2 (maskOf ((List.range 16).filter (isReduced d)))) 0x1C 2 unavail
  let r := put r 0x1E 2 (if ok then maskOf sec.cores else 0)
  let r := put (put r 0x20 4 sec.spills.length) 0x24 2 n
  let r := put r 0x26 2 ((sec.spills.filter (fun s => decide (0x100 ≤ s.hops))).length)
  let r := put (put r 0x28 4 sec.newPages.sum) 0x2C 4 sec.storePages.sum
  let r := put r 0x30 8 (if ok then statsBase sec else 0)
  let r := put r 0x38 4 (if ok then sec.handle else 0)
  let r := (List.range 16).foldl (fun r l =>
    let a := 0x40 + 16 * l
    match sec.cores[l]? with
    | some c =>
      let r := put (put (put r a 1 c) (a + 1) 1 (coreCluster m l)) (a + 2) 1 (shiftedRows sec.l2p l)
      put (put r (a + 4) 4 (sec.scores.getD l 0)) (a + 8) 8 (sec.storeBase.getD l 0 * 65536)
    | none => put r a 1 0xFF) r
  let r := sec.segBase.zipIdx.foldl (fun r e =>
    let a := 0x140 + 16 * e.2
    put (put (put r a 4 e.1) (a + 4) 4 (sec.newPages.getD e.2 0)) (a + 8) 4 (sec.nearPages.getD e.2 0)) r
  (sec.spills.take n).zipIdx.foldl (fun r e =>
    let a := 0x540 + 16 * e.2
    let s := e.1
    let r := put (put r a 4 (queueId s.unit s.port s.lane (queueChan m s.record))) (a + 4) 2 (unitId s.mu)
    put (put (put r (a + 6) 2 s.cap) (a + 8) 4 s.base) (a + 12) 2 s.hops) r

/-- Copy sparse bytes over an area. -/
def pour (dst : Memory) (at_ n : Nat) (src : Memory) : Memory := Ram.blit dst at_ n (fld src 0 n)

/-- UNAVAILABLE of the report: cores held or offline. -/
def unavailableMask (d : Device) (handle : Nat) : Nat :=
  maskOf ((List.range 16).filter (fun n => (heldCores d handle).contains n || d.sched.offline.getLsbD n))

/-- The reply area gets the report; with a link block at most 427 spill entries (R425), else 428. -/
def replyReport (m : Nat) (d0 : Device) (sec : Section) (fail : PlaceFail) (link : Bool) (d : Device) : Device :=
  let n := min sec.spills.length (if link then 427 else 428)
  let b := reportBytes d sec fail (unavailableMask d0 sec.handle) n (if fail.1 = 0 then sec.reportBase else 0)
  d.updMb m (fun x => { x with reply := pour x.reply 0 (if link then 8176 else 8192) b })

/-- The full report in its three pinned pages (R295). -/
def writeReport (d0 : Device) (sec : Section) (d : Device) : Device :=
  let b := reportBytes d sec (0, 0, 0) (unavailableMask d0 sec.handle) sec.spills.length sec.reportBase
  writeLogical (sec.reportBase * 65536) 196608 (fld b 0 196608) d

/-! ### Release (R294, R331) -/

/-- Pages a section's unload frees: relocatable segments with KEEP = 0, or every such page, and its stores. -/
def segmentPages (sec : Section) : List Nat :=
  (List.range (segCount sec.pkg)).flatMap (fun i =>
    if segFixed sec.pkg i || segKeep sec.pkg i then []
    else (List.range (segPages sec.pkg i)).map (· + sec.segBase.getD i 0))

def storePagesOf (sec : Section) : List Nat :=
  (sec.storeBase.zip sec.storePages).flatMap (fun e => (List.range e.2).map (· + e.1))
    ++ (if sec.storePages = [] then [] else (List.range 3).map (· + sec.reportBase))

def freePages (ps : List Nat) (d : Device) : Device := ps.foldl (fun d p => freePage p d) d

/-- R331: an unload clears PENDING_GRAD and GRAD_INDEX of its groups' parameter pages. -/
def clearGrad (sec : Section) (d : Device) : Device :=
  (paramSegments sec.pkg).foldl (fun d e =>
    (List.range (segPages sec.pkg e.1)).foldl (fun d k =>
      let p := sec.segBase.getD e.1 0 + k
      if resValid (d.res p) then d.setRes p (setField (setField (d.res p) 48 16 0xFFFF) 4 1 0) else d) d) d

/-- The spill descriptors of a section's regions are free again. -/
def releaseSpills (sec : Section) (d : Device) : Device :=
  sec.spills.foldl (fun d r => d.updUnit r.mu (fun x => { x with mu := { x.mu with
    spills := Tab.erase x.mu.spills r.desc } })) d

/-- Queue the promotions of a placed section (R292). -/
def queuePromotions (sec : Section) (d : Device) : Device :=
  let m := sec.pkg
  (List.range (segCount m)).foldl (fun d i =>
    match homeCore m sec.cores i with
    | some c =>
      if segPromote m i then
        (List.range (segPages m i)).foldl (fun d k =>
          let p := sec.segBase.getD i 0 + k
          let e := d.res p
          if resValid e && !resPin e && resUnit e != c then
            { d with tiers := { d.tiers with promoQ := d.tiers.promoQ ++ [{ page := p, core := c, asked := true }] } }
          else d) d
      else d
    | none => d) d

end Sys2Proof.Machine
end

