-- ==== Sys2Proof/Machine/Harness.lean ====
section
/-!
DEFINITION. Machine/Harness.lean: the words of a unit as they retire, the acknowledge at an output port, and the routes,
links and patterns of the harness nodes (R61 to R72, R188).
-/
namespace Sys2Proof.Machine

/-! ### Cores and their sections -/

/-- The units of a core. -/
def coreUnits (c : Nat) : List Nat := (List.range 80).map (· + 80 * c)

/-- The section that holds a core. -/
def coreSection (d : Device) (c : Nat) : Option Section := (d.core c).section_.bind d.section?

/-! ### Progress (R87, R363) -/

/-- The watchdog of a core returns to 0, unless it has reached its limit (Table 2.15). -/
def resetIdle (c : Nat) (d : Device) : Device :=
  d.updCore c (fun x => if 2000000 ≤ x.fab.idleSteps then x else { x with fab := { x.fab with idleSteps := 0 } })

/-- A word retires in a core (R87), or an entry (R363). -/
def progressed (c : Nat) (word : Bool) (d : Device) : Device :=
  let d := if word then resetIdle c d else d
  match coreSection d c with
  | some sec => sec.cores.foldl (fun d k => d.updCore k (fun x => { x with quiesce := 0 })) d
  | none => d

/-! ### Starting and retiring words (R72, R188, R554) -/

/-- The next word of the active context. -/
def nextWord (x : Unit) : BitVec 128 := Ram.read x.ctx.words x.ctx.pos

/-- R554: words that run alone in their context. -/
def aloneOp (op : Nat) : Bool := op = 1 || op = 4 || op = 5 || op = 7 || op = 8 || (0xD0 ≤ op && op ≤ 0xD2) || op = 0xA0

/-- R72: every port of WAIT_MASK holds a token of the active context. -/
def waitsMet (x : Unit) (w : BitVec 128) : Bool :=
  [0, 1, 2, 3].all (fun p => !bitOf (wWait w) p || x.lane p x.active != [])

/-- The next word has this opcode and may start: the unit runs, its ports are ready, and no earlier word holds the
unit: none that waits for a token to be acknowledged and none that runs alone (R72, R219, R554; log entry 9). -/
def canIssue (x : Unit) (op : Nat) : Bool :=
  let w := nextWord x
  !x.idle && x.ctx.image.isSome && wOp w = op && waitsMet x w && x.mu.initLeft = 0
    && x.flight.all (fun f => !f.done && f.outbox = [] && f.waits = [] && !aloneOp (wOp f.word))

/-- Advance the position of the active context (R74). -/
def nextPos (x : Unit) : Unit := x.updCtx x.active (fun c => { c with pos := (c.pos + 1) % 512 })

/-- The record of a word (Table 5.7) after one run. -/
def bumpRecord (r : BitVec 128) (sat flush runmax : Nat) : BitVec 128 :=
  let v := r.toNat
  BitVec.ofNat 128 (satNat 32 (bitsOf v 0 32) sat + (satNat 32 (bitsOf v 32 32) flush <<< 32)
    + (max (bitsOf v 64 32) runmax <<< 64) + (((bitsOf v 96 32 + 1) % 2 ^ 32) <<< 96))

/-- R188: a CU word retires. -/
def bumpUnit (u ctx pos sat flush runmax : Nat) (x : Unit) : Unit :=
  if isCu u then
    let x := x.updCtx ctx (fun c => { c with records := Ram.write c.records pos (bumpRecord (Ram.read c.records pos) sat flush runmax) })
    { x with cu := { x.cu with satTotal := satNat 48 x.cu.satTotal sat, flushTotal := satNat 48 x.cu.flushTotal flush,
                               runmax := max x.cu.runmax runmax } }
  else x

/-- The token as port `p` sends it: MOVE keeps HCHAN, every other word takes the port's (R557). -/
def portToken (x : Unit) (f : Flight) (p : Nat) (t : Token) : Token :=
  if wOp f.word = 1 then t
  else t.withChan (bitsOf (Tab.getD x.ctxs f.ctx {}).outTab.toNat (16 * p) 12)

/-- The next formed token is presented at every port of OUT_MASK, once all are free (R51, R52). -/
def present (x : Unit) (f : Flight) : Unit × Flight :=
  match f.waits, f.outbox with
  | [], t :: rest =>
    match outPorts f.word with
    | [] => (x, { f with outbox := [] })
    | ps =>
      if ps.all (fun p => (Tab.find x.out p).isNone) then
        ({ x with out := ps.foldl (fun o p => Tab.set o p (portToken x f p t)) x.out },
         { f with outbox := rest, waits := ps })
      else (x, f)
  | _, _ => (x, f)

/-- R141: a vector word with POP = 1 removes the head of the finished-tile queue when it retires. -/
def retirePop (f : Flight) (x : Unit) : Unit :=
  if 0x60 ≤ wOp f.word && wOp f.word ≤ 0x68 && f.word.getLsbD 27 then { x with cu := { x.cu with ftq := x.cu.ftq.tail } }
  else x

/-- Store the flight at index `i`, presenting its next token, or retire it once all its tokens are acknowledged. -/
def settleFlight (u i : Nat) (x : Unit) (f : Flight) (d : Device) : Device :=
  let (x, f) := present x f
  if f.done && f.outbox = [] && f.waits = [] then
    let x := retirePop f (bumpUnit u f.ctx f.pos f.sat f.flush f.runmax x)
    progressed (u / 80) true (d.setUnit u { x with flight := x.flight.eraseIdx i })
  else d.setUnit u { x with flight := x.flight.set i f }

/-! ### Acknowledge at an output port -/

/-- Order 4 at output port `p`: the token leaves it, and its word goes on or retires (R72). -/
def ackOut (u p : Nat) (d : Device) : Device :=
  let x := d.unit u
  let x := { x with out := Tab.erase x.out p, moved := true }
  match x.flight.findIdx? (fun f => f.waits.contains p) with
  | some i =>
    match x.flight[i]? with
    | some f => settleFlight u i x { f with waits := f.waits.erase p } d
    | none => d.setUnit u x
  | none => d.setUnit u x

/-! ### Routes, links and patterns (R61 to R67) -/

/-- The route of a token at a node: target 0 to 3 an input port, 4 to 7 a link, and 8 more for an edge link. -/
def routeOf (x : Unit) (t : Token) : Option Nat :=
  ((Tab.getD x.ctxs t.ctx {}).routes.find? (fun e => e.2.getLsbD 16 && bitsOf e.2.toNat 0 12 = t.chan)).map
    (fun e => bitsOf e.2.toNat 12 4)

/-- The token at a source of a node: 0 to 7 the links' latches, 8 to 11 the unit's output ports. -/
def sourceToken (x : Unit) (src : Nat) : Option Token := if src < 8 then Tab.find x.latch src else Tab.find x.out (src - 8)

/-- The token leaves its source: Order 4 of its transfer. -/
def dropSource (u src : Nat) (d : Device) : Device :=
  if src < 8 then d.updUnit u (fun x => { x with latch := Tab.erase x.latch src }) else ackOut u (src - 8) d

/-- Place of a link's pattern (log entry 23): left, right, up, down, horizontal edge, vertical edge. -/
def linkSlot (dir : Nat) (edge : Bool) : Nat := if edge then (if dir < 2 then 4 else 5) else dir

/-- The pattern entry of a link in a context. -/
def patternAt (c : Ctx) (slot e : Nat) : BitVec 16 := Ram.read c.patterns (64 * slot + e)

/-- The channel due on a link. -/
def dueChan (c : Ctx) (slot : Nat) : Option Nat :=
  let e := patternAt c slot (Tab.getD c.linkPos slot (0, 0)).1
  if e.getLsbD 15 then some (bitsOf e.toNat 0 12) else none

/-- The position after one more token: (entry, tokens carried of it). -/
def stepPattern (at_ : Nat → BitVec 16) (pos : Nat × Nat) : Nat × Nat :=
  let n := bitsOf (at_ pos.1).toNat 12 3 + 1
  if pos.2 + 1 < n then (pos.1, pos.2 + 1)
  else if pos.1 + 1 < 64 && (at_ (pos.1 + 1)).getLsbD 15 then (pos.1 + 1, 0) else (0, 0)

/-- The link has carried one token of its pattern. -/
def stepLink (slot : Nat) (x : Unit) : Unit :=
  x.updCtx x.active (fun c =>
    { c with linkPos := Tab.set c.linkPos slot (stepPattern (patternAt c slot) (Tab.getD c.linkPos slot (0, 0))) })

/-- The source at a node whose token is due on a link. -/
def dueSource (x : Unit) (dir : Nat) (edge : Bool) : Option (Nat × Token) :=
  match dueChan x.ctx (linkSlot dir edge) with
  | none => none
  | some h =>
    (List.range 12).findSome? (fun s => (sourceToken x s).bind (fun t =>
      if t.chan = h && t.ctx = x.active && routeOf x t = some (4 + dir + 8 * bit01 edge) then some (s, t) else none))

/-- The node at the far end of a link: within the core, or over an edge link in the adjacent core. -/
def farNode (u dir : Nat) (edge : Bool) : Option Nat :=
  let c := u / 80
  let row := u % 80 / 10
  let col := u % 10
  if !edge then
    match dir with
    | 0 => if 0 < col then some (u - 1) else none
    | 1 => if col < 9 then some (u + 1) else none
    | 2 => if 0 < row then some (u - 10) else none
    | _ => if row < 7 then some (u + 10) else none
  else
    match dir with
    | 0 => if col = 0 && 0 < gridX c then some (80 * gridCore (gridX c - 1) (gridY c) + 10 * row + 9) else none
    | 1 => if col = 9 && gridX c < 3 then some (80 * gridCore (gridX c + 1) (gridY c) + 10 * row) else none
    | 2 => if row = 0 && 0 < gridY c then some (80 * gridCore (gridX c) (gridY c - 1) + 70 + col) else none
    | _ => if row = 7 && gridY c < 3 then some (80 * gridCore (gridX c) (gridY c + 1) + col) else none

def opposite (dir : Nat) : Nat := match dir with | 0 => 1 | 1 => 0 | 2 => 3 | _ => 2

/-- Key of a link at its node: 0 to 3, edge links 4 to 7. -/
def linkKey (dir : Nat) (edge : Bool) : Nat := dir + 4 * bit01 edge

/-- Tokens that a neighbouring core presents over an edge link to this core are acknowledged and dropped (R99). -/
def releaseEdges (c : Nat) (d : Device) : Device :=
  (coreUnits c).foldl (fun d u => [0, 1, 2, 3].foldl (fun d dir =>
    match farNode u dir true with
    | none => d
    | some v =>
      match dueSource (d.unit v) (opposite dir) true with
      | some (src, _) => dropSource v src (d.updUnit v (stepLink (linkSlot (opposite dir) true)))
      | none => d) d) d

end Sys2Proof.Machine
end

