-- ==== Sys2Proof/Machine/Management.lean ====
section
/-!
DEFINITION. Machine/Management.lean: physical presence, the MAINT jumper, the seal loop, the Almanac's timed records
and the SMBus port (chapter 15).
-/
namespace Sys2Proof.Machine

def Device.updPresence (d : Device) (f : Presence → Presence) : Device := { d with presence := f d.presence }

def Device.updMgmt (d : Device) (f : Mgmt → Mgmt) : Device := { d with mgmt := f d.mgmt }

/-- Meridian's firmware runs and is not held in reset (R545, R551). -/
def meridianRuns (d : Device) : Bool := d.boot.powered && d.boot.firmware && !d.boot.warmLow

/-- Meridian, its boot ROM or its firmware, samples its inputs (R471, R480, R551). -/
def inputsSampled (d : Device) : Bool := d.boot.powered && !d.boot.warmLow

/-- A change of an input is confirmed: it has held for 20 ms, and so has the level before it (R480, R484, R486). -/
def confirmed (last : Option Nat) (d : Device) : Bool := last.all (fun t => decide (t + 20000 ≤ d.now))

/-- The commands gated by presence (R434). -/
def gatedOp (op : Nat) : Bool := op = 0x71 || op = 0x72 || op = 0x73 || op = 0x75 || op = 0x77

/-- A gated command is accepted: STATE ACCEPTED and its gated-use record (R485, Table 13.6). -/
def acceptGated (m : Nat) (d : Device) : Device :=
  let d := logCmd 0x43 0 (d.mb m).opcode m 0 d
  let d := d.updMb m (fun x => { x with state := .accepted, error := 0, order := d.host.orders, since := d.now })
  { d with host := { d.host with orders := d.host.orders + 1 } }

/-- An opening window accepts every command that waits for it (Table 13.6). -/
def acceptWaiting (d : Device) : Device :=
  (List.range 16).foldl (fun d m => if (d.mb m).state = .waitingPresence then acceptGated m d else d) d

/-- R482: a press that ended at `t` opens the window, or restarts it; while MAINT is fitted it is logged only (R485, log
entry 99). -/
def pressOpens (t : Nat) (d : Device) : Device :=
  if d.presence.maint then log 0x40 1 1 d
  else
    let was := windowOpen d
    let d := d.updPresence (fun p => { p with windowEnd := some (t + 120000000) })
    if was then d else acceptWaiting (irq 3 (log 0x40 1 1 d))

/-- R481, R482: the press that began at `p` and was released at `r` ends. -/
def endPress (p r : Nat) (d : Device) : Device :=
  let d := d.updPresence (fun x => { x with pressAt := none, releasedAt := none, presses := satAdd x.presses 1 })
  if r + 250000 ≤ p + 10000000 then pressOpens (r + 250000) d else d

/-- The press in progress goes on past 10 s after it began (R483). -/
def pressTooLong (d : Device) : Bool :=
  match d.presence.pressAt with
  | some p => decide (p + 10000000 ≤ d.now) && !d.presence.stuck
      && !(d.presence.releasedAt.any (fun r => decide (r + 250000 ≤ p + 10000000)))
  | none => false

/-- PRESS_STUCK (R483): a press still going 10 s after it began. -/
def pressStuck (d : Device) : Device :=
  if pressTooLong d then
    irq 3 (log 0x41 1 0 (d.updPresence (fun x =>
      { x with stuck := true, pressAt := none, stuckCount := satAdd x.stuckCount 1 })))
  else d

/-- STUCK_RELEASE (R483): the input has stayed inactive for 2 s. -/
def stuckRelease (d : Device) : Device :=
  match d.presence.releasedAt with
  | some r =>
    if d.presence.stuck && !d.presence.active && r + 2000000 ≤ d.now then
      log 0x41 0 0 (d.updPresence (fun x => { x with stuck := false, releasedAt := none }))
    else d
  | none => d

/-- A confirmed change of the PRESENCE input (R480, R481, R483), after what time has already made of the press before. -/
def presenceTo (active : Bool) (d : Device) : Device :=
  let d := (stuckRelease (pressStuck d)).updPresence (fun x => { x with changedAt := some d.now })
  if active then
    let d := d.updPresence (fun x => { x with active := true })
    if d.presence.stuck then d.updPresence (fun x => { x with releasedAt := none })
    else
      match d.presence.pressAt, d.presence.releasedAt with
      | some p, some r =>
        if d.now < r + 250000 then d.updPresence (fun x => { x with releasedAt := none })
        else (endPress p r d).updPresence (fun x => { x with pressAt := some d.now })
      | some _, none => d
      | none, _ => d.updPresence (fun x => { x with pressAt := some d.now, releasedAt := none })
  else d.updPresence (fun x => { x with active := false, releasedAt := some d.now })

/-- PRESENCE_CHANGE (R480): the button and the PRESENCE_N contact; either makes the input active. -/
def presenceChange (button contact : Bool) (d : Device) : Device :=
  let active := button || contact
  if active = d.presence.active then d
  else if !inputsSampled d then d.updPresence (fun x => { x with active := active })
  else if confirmed d.presence.changedAt d then presenceTo active d
  else d

def execPresenceChange (active : Bool) (s : State) (contact : Bool := false) : Host.Outcome State Fault Refusal :=
  .next (s.upd (presenceChange active contact))

/-- An input that is active when Meridian starts is a press that begins then (R483). -/
def startPress (d : Device) : Device :=
  if d.presence.active && !d.presence.stuck then d.updPresence (fun p => { p with pressAt := some d.now, releasedAt := none }) else d

/-- PRESS_END (R481): the input has stayed inactive for 250 ms after a confirmed release. -/
def pressEnd (d : Device) : Device :=
  match d.presence.pressAt, d.presence.releasedAt with
  | some p, some r =>
    if r + 250000 ≤ d.now && r + 250000 ≤ p + 10000000 && !d.presence.active && !d.presence.stuck then endPress p r d
    else d
  | _, _ => d

def execPressEnd (s : State) : Host.Outcome State Fault Refusal := .next (s.upd pressEnd)

def execPressStuck (s : State) : Host.Outcome State Fault Refusal := .next (s.upd pressStuck)

def execStuckRelease (s : State) : Host.Outcome State Fault Refusal := .next (s.upd stuckRelease)

/-- PRESENCE_WINDOW_CLOSE (R482, R484): 120 s after the end of the last press that opened or restarted it. -/
def windowClose (d : Device) : Device :=
  match d.presence.windowEnd with
  | some t =>
    if t ≤ d.now then
      let d := d.updPresence (fun x => { x with windowEnd := none })
      if d.presence.maint then d else irq 3 (log 0x40 0 1 d)
    else d
  | none => d

def execPresenceWindowClose (s : State) : Host.Outcome State Fault Refusal := .next (s.upd windowClose)

/-- MAINT_CHANGE (R484): one record and the interrupt, unless a window opened by a press was open and stays open (log
entry 19). -/
def maintChange (fitted : Bool) (d : Device) : Device :=
  if fitted = d.presence.maint then d
  else if !inputsSampled d then d.updPresence (fun x => { x with maint := fitted })
  else if !confirmed d.presence.maintAt d then d
  else
    let byPress := d.presence.windowEnd.any (fun t => decide (d.now < t))
    let d := d.updPresence (fun x => { x with maint := fitted, maintAt := some d.now })
    if byPress then d
    else
      let d := irq 3 (log 0x42 (bit01 fitted) 0 d)
      if fitted then acceptWaiting d else d

def execMaintChange (fitted : Bool) (s : State) : Host.Outcome State Fault Refusal :=
  .next (s.upd (maintChange fitted))

/-- SEAL_LOOP_CHANGE (R486): Meridian's view of the metrology seal. -/
def sealLoopChange (intact : Bool) (d : Device) : Device :=
  if intact = d.presence.sealIntact then d
  else if !inputsSampled d then d.updPresence (fun x => { x with sealIntact := intact })
  else if !confirmed d.presence.sealAt d then d
  else
    let times := d.now :: d.presence.sealTimes.filter (fun t => decide (d.now < t + 60000000))
    let d := irq 2 (d.updPresence (fun x =>
      { x with sealIntact := intact, sealAt := some d.now, sealChanges := satAdd x.sealChanges 1, sealTimes := times }))
    if d.presence.toggling then d.updPresence (fun x => { x with toggles := x.toggles + 1 })
    else if 8 < times.length then
      d.updPresence (fun x => { x with toggling := true, toggles := 1, toggleFrom := d.now })
    else log 0x44 (bit01 intact) 0 d

def execSealLoopChange (intact : Bool) (s : State) : Host.Outcome State Fault Refusal :=
  .next (s.upd (sealLoopChange intact))

/-- SEAL_TOGGLING_MINUTE (R486): one record for each further minute in which changes continue. -/
def sealTogglingMinute (d : Device) : Device :=
  if d.presence.toggling && d.presence.toggleFrom + 60000000 ≤ d.now then
    if d.presence.toggles = 0 then d.updPresence (fun x => { x with toggling := false })
    else
      log 0x45 0 d.presence.toggles
        (d.updPresence (fun x => { x with toggles := 0, toggleFrom := x.toggleFrom + 60000000 }))
  else d

def execSealTogglingMinute (s : State) : Host.Outcome State Fault Refusal := .next (s.upd sealTogglingMinute)

/-- PRESENCE_WAIT_EXPIRY (Table 13.6): PRESENCE_WAIT_S seconds have passed in WAITING_PRESENCE. -/
def presenceWaitExpiry (m : Nat) (d : Device) : Device :=
  let x := d.mb m
  if x.state = .waitingPresence && x.since + 1000000 * fld x.copy 6 1 ≤ d.now then endRefused m 0x05 d else d

def execPresenceWaitExpiry (m : Fin 16) (s : State) : Host.Outcome State Fault Refusal :=
  .next (s.upd (presenceWaitExpiry m.val))

/-! ### The Almanac's timed records -/

/-- Budget B and peak of the power class, in W (Table 17.5). -/
def budgetW (d : Device) : Nat :=
  match bitsOf d.host.straps.toNat 19 2 with
  | 0 => 2000
  | 1 => 2400
  | 2 => 2800
  | _ => 3000

def peakW (d : Device) : Nat :=
  match bitsOf d.host.straps.toNat 19 2 with
  | 0 => 2400
  | 1 => 2880
  | 2 => 3360
  | _ => 3600

/-- The record of a THROTTLE_N that stayed low through the whole hour (R532, R558). -/
def hourThrottle (d : Device) : Device :=
  if d.power.throttleAt.any (fun t => decide (t ≤ d.mgmt.hour * 3600000000)) then
    let h := d.power.throttleHours + 1
    log 0x61 2 h { d with power := { d.power with throttleHours := h } }
  else d

/-- ALMANAC_HOUR_END (R558): the records of the hour that has ended (R216, R380, R528, R532, R536). -/
def hourEnd (d : Device) : Device :=
  if (d.mgmt.hour + 1) * 3600000000 ≤ d.now then
    let d := d.mgmt.hourCorr.foldl (fun d e =>
      log 0x21 (unitId e.1) (e.2.1 % 2 ^ 32 + ((e.2.2 % 2 ^ 32) <<< 32)) d) d
    let d := d.mgmt.hourSelf.foldl (fun d p => log 0x30 p 0 d) d
    let d := if d.power.hourLimited = 0 then d
             else log 0x62 (budgetW d) (d.power.hourLimited % 2 ^ 32 + (d.power.hourLowP <<< 32)) d
    let d := match d.power.hourInlet with
      | some t => log 0x66 0 (BitVec.ofInt 16 t).toNat d
      | none => d
    let d := hourThrottle d
    { d with power := { d.power with hourLimited := 0, hourLowP := 700, hourInlet := none },
             mgmt := { d.mgmt with hour := d.mgmt.hour + 1, hourCorr := [], hourSelf := [] } }
  else d

def execAlmanacHourEnd (s : State) : Host.Outcome State Fault Refusal := .next (s.upd hourEnd)

/-- ALMANAC_DROP_RECORD (R500): the count of records dropped in a second that has ended. -/
def dropRecord (d : Device) : Device :=
  if 0 < d.mgmt.logDropped && d.mgmt.logFrom + 1000000 ≤ d.now then newSecond d else d

def execAlmanacDropRecord (s : State) : Host.Outcome State Fault Refusal := .next (s.upd dropRecord)

/-! ### Composed status words -/

/-- STRAP_STATUS (Table 13.13). -/
def strapWord (d : Device) : Nat := d.host.straps.toNat

/-- ms left of the presence window (R482, R484). -/
def remainingMs (d : Device) : Nat :=
  if d.presence.maint then 120000
  else match d.presence.windowEnd with
    | some t => if d.now < t then (t - d.now + 999) / 1000 else 0
    | none => 0

/-- PRESENCE_STATUS (Table 13.13). -/
def presenceWord (d : Device) : Nat :=
  bit01 (windowOpen d) + (((remainingMs d + 999) / 1000) <<< 1) + (bit01 d.presence.maint <<< 8)
    + (bit01 d.presence.sealIntact <<< 9) + (bit01 d.presence.stuck <<< 10)

/-- Commands held: accepted, running and waiting for presence (R358, R434). -/
def heldCommands (d : Device) : Nat := ((List.range 16).filter (fun m => (d.mb m).state.live)).length

/-- Sections now PREEMPTED (R360). -/
def preemptedSections (d : Device) : Nat := (d.sections.filter (fun s => s.state = .preempted)).length

/-- SCHED_STATUS (Table 11.10). -/
def schedWord (d : Device) : Nat :=
  heldCommands d + (d.sched.offline.toNat <<< 16) + (min 255 (preemptedSections d) <<< 32)

/-- LNK_SET_STATUS (Table 12.11). -/
def setStatusWord (d : Device) : Nat :=
  bitsOf (strapWord d) 0 10 + (bitsOf (strapWord d) 14 1 <<< 10) + (d.set.state.toNat <<< 11)
    + (d.set.epoch.toNat <<< 16) + (d.set.setId.toNat <<< 32)

/-- RESET_STATUS (Table 18.8). -/
def resetWord (d : Device) : Nat :=
  d.boot.service.toNat + (d.boot.last.toNat <<< 2) + (d.boot.perstCount.toNat <<< 16)
    + (d.boot.flrCount.toNat <<< 32) + (d.boot.warmCount.toNat <<< 48)

/-! ### The SMBus port (R503) -/

/-- The port answers a code of Table 15.6: the firmware every one, the boot ROM service codes 0 and 1. -/
def smbAnswers (d : Device) (code : Nat) : Bool :=
  code < 5 && d.boot.powered && !d.boot.warmLow && (d.boot.firmware || (d.boot.service = 1 && code < 2))

/-- The port's 7-bit address. -/
def smbAddr (d : Device) : Nat := 0x58 + bitsOf (strapWord d) 16 3

/-- One byte of the SMBus packet error code: CRC-8 with polynomial 0x07 (log entry 101, PRESUMED from SMBus 3.1). -/
def crc8Byte (c : BitVec 8) (b : BitVec 8) : BitVec 8 :=
  (List.range 8).foldl (fun (x : BitVec 8) _ => if x.getLsbD 7 then (x <<< 1) ^^^ 0x07 else x <<< 1) (c ^^^ b)

/-- The packet error code of a transaction's bytes. -/
def pecOf (bytes : List (BitVec 8)) : BitVec 8 := bytes.foldl crc8Byte 0

/-- The contents of one code (Table 15.6). -/
def smbBlock (d : Device) (code : Nat) : List (BitVec 8) :=
  match code with
  | 0 =>
    let fw := if d.boot.firmware then d.boot.fwMajor.toNat + (d.boot.fwMinor.toNat <<< 16) else 0
    natToBytes 16 (0x9100 + (fw <<< 32) + (d.mgmt.serial.toNat <<< 64))
  | 1 => natToBytes 24 (fld d.host.mirror 0x58 16 + (fld d.host.mirror 0x68 8 <<< 128))
  | 2 => natToBytes 16 (strapWord d + (presenceWord d <<< 64))
  | 3 => natToBytes 8 (schedWord d)
  | _ => natToBytes 32 (fld d.mgmt.store (almanacAt (d.mgmt.almanacNext.toNat - 1)) 32)

/-- The bytes of a Block Read, from the address of its write to its last data byte. -/
def blockReadBytes (d : Device) (code : Nat) (data : List (BitVec 8)) : List (BitVec 8) :=
  [BitVec.ofNat 8 (2 * smbAddr d), BitVec.ofNat 8 code, BitVec.ofNat 8 (2 * smbAddr d + 1), BitVec.ofNat 8 data.length] ++ data

/-- A Block Read of one code at an address, the port's own where none is given: a read of another address is not for the port,
and a code that it does not answer is not acknowledged.  The packet error code follows the data. -/
def smbRead (code : Nat) (addr : Option (BitVec 7)) (d : Device) : Device :=
  if addr.any (fun a => a.toNat != smbAddr d) then d
  else
    let r := if smbAnswers d code then some (smbBlock d code) else none
    d.updMgmt (fun m => { m with smbReply := r, smbPec := r.map (fun b => pecOf (blockReadBytes d code b)) })

def execSmbusIdentity (s : State) (addr : Option (BitVec 7) := none) : Host.Outcome State Fault Refusal := .next (s.upd (smbRead 0 addr))
def execSmbusTelemetry (s : State) (addr : Option (BitVec 7) := none) : Host.Outcome State Fault Refusal := .next (s.upd (smbRead 1 addr))
def execSmbusStraps (s : State) (addr : Option (BitVec 7) := none) : Host.Outcome State Fault Refusal := .next (s.upd (smbRead 2 addr))
def execSmbusSchedStatus (s : State) (addr : Option (BitVec 7) := none) : Host.Outcome State Fault Refusal :=
  .next (s.upd (smbRead 3 addr))
def execSmbusAlmanac (s : State) (addr : Option (BitVec 7) := none) : Host.Outcome State Fault Refusal := .next (s.upd (smbRead 4 addr))

/-- SMB_ALERT_N is low (R503). -/
def smbAlert (d : Device) : Bool := d.host.irqCause.getLsbD 0 || d.host.irqCause.getLsbD 1

/-- SMBUS_ALERT_RESPONSE (R503): an alerting port answers with its address. -/
def smbAlertResponse (d : Device) : Device :=
  let r := if smbAlert d && smbAnswers d 0 then some [BitVec.ofNat 8 (2 * smbAddr d)] else none
  d.updMgmt (fun m => { m with smbReply := r, smbPec := r.map (fun b => pecOf (0x19 :: b)) })

def execSmbusAlertResponse (s : State) : Host.Outcome State Fault Refusal := .next (s.upd smbAlertResponse)

end Sys2Proof.Machine
end

