-- ==== Sys2Proof/Machine/LinkPorts.lean ====
section
/-!
DEFINITION. Machine/LinkPorts.lean: routes, packets, flits and the sending and receiving sides of a Morwyn Link port
(R379 to R393).
-/
namespace Sys2Proof.Machine

/-! ### Node identity and routes (R390 to R393) -/

def ownNode (d : Device) : Nat := bitsOf (strapWord d) 0 10

/-- Size of dimension `i` in LNK_DIMS. -/
def dimSize (dims : BitVec 10) (i : Nat) : Nat :=
  match i with
  | 0 => bitsOf dims.toNat 0 2 + 1
  | 1 => bitsOf dims.toNat 2 2 + 1
  | 2 => bitsOf dims.toNat 4 3 + 1
  | _ => bitsOf dims.toNat 7 3 + 1

/-- Coordinate `i` of a NODE_ID (R390). -/
def coord (x i : Nat) : Nat :=
  match i with
  | 0 => bitsOf x 0 2
  | 1 => bitsOf x 2 2
  | 2 => bitsOf x 4 3
  | _ => bitsOf x 7 3

def inDims (dims : BitVec 10) (x : Nat) : Bool := (List.range 4).all (fun i => coord x i < dimSize dims i)

/-- R391: the next port from node `n` toward node `t`, and whether the hop wraps. -/
def nextPortAux (dims : BitVec 10) (n t : Nat) : List Nat → Option (Nat × Bool)
  | [] => none
  | i :: rest =>
    let k := dimSize dims i
    let o := (coord t i + k - coord n i % k) % k
    if o = 0 then nextPortAux dims n t rest
    else if o ≤ k / 2 then some (2 * i + 1, coord n i = k - 1)
    else some (2 * i, coord n i = 0)

def nextPort (dims : BitVec 10) (n t : Nat) : Option (Nat × Bool) :=
  if inDims dims t && inDims dims n then nextPortAux dims n t [0, 1, 2, 3] else none

/-- R393: one entry of the route table. -/
def routeEntry (dims : BitVec 10) (n t : Nat) : Nat :=
  match nextPort dims n t with
  | some (p, w) => p + 8 + 16 * bit01 w
  | none => 0

/-- R401: the ports on which node `n` forwards a broadcast from source `s`. -/
def bcastSends (dims : BitVec 10) (n s : Nat) : List Nat :=
  let bigL := (List.range 4).foldl (fun acc i => if coord n i != coord s i then some i else acc) (none : Option Nat)
  ((List.range 4).filter (fun i => match bigL with | some l => decide (l ≤ i) | none => true)).flatMap (fun i =>
    let k := dimSize dims i
    let o := (coord n i + k - coord s i % k) % k
    let h := k / 2
    let above := match bigL with | some l => decide (l < i) | none => true
    if above then (if 2 ≤ k then [2 * i + 1] else []) ++ (if 3 ≤ k then [2 * i] else [])
    else (if 1 ≤ o && o < h then [2 * i + 1] else []) ++ (if h + 1 < o then [2 * i] else []))

/-- The neighbour of node `n` at port `p` (R390). -/
def neighbour (dims : BitVec 10) (n p : Nat) : Nat :=
  let i := p / 2
  let k := dimSize dims i
  let c := if p % 2 = 1 then (coord n i + 1) % k else (coord n i + k - 1) % k
  let lo := match i with | 0 => 0 | 1 => 2 | 2 => 4 | _ => 7
  let w := match i with | 0 => 2 | 1 => 2 | _ => 3
  n - (bitsOf n lo w <<< lo) + (c <<< lo)

/-! ### Packets (Tables 12.4 and 12.5) -/

/-- Virtual channel of a packet type: 0 CONTROL, 1 CHANNEL, 2 BULK. -/
def vcOf (typ : Nat) : Nat :=
  if 1 ≤ typ && typ ≤ 6 then 1 else if typ = 0x20 || typ = 0x21 || typ = 0x30 then 2 else 0

/-- The packet types of Table 12.5. -/
def knownType (typ : Nat) : Bool :=
  (1 ≤ typ && typ ≤ 6) || (0x10 ≤ typ && typ ≤ 0x15) || typ = 0x20 || typ = 0x21 || typ = 0x30 || typ = 0x31

/-- 16-byte units of a packet (R386). -/
def packetUnits (len : Nat) : Nat := 1 + (len + 15) / 16

/-- The packet as a little-endian number. -/
def packetNat (k : Packet) : Nat :=
  k.typ + ((k.dest % 1024) <<< 8) + ((k.src % 1024) <<< 18) + (bit01 k.bcast <<< 28) + (k.len <<< 32)
    + ((k.epoch % 2 ^ 16) <<< 48) + ((k.set % 2 ^ 32) <<< 64) + ((k.arg % 2 ^ 32) <<< 96) + (k.body <<< 128)

def packetOf (v : Nat) : Packet where
  typ := bitsOf v 0 8
  dest := bitsOf v 8 10
  src := bitsOf v 18 10
  bcast := bitOf v 28
  len := bitsOf v 32 16
  epoch := bitsOf v 48 16
  set := bitsOf v 64 32
  arg := bitsOf v 96 32
  body := (v >>> 128) % 2 ^ (8 * bitsOf v 32 16)

/-- Put a packet into an output port's pool; it is dropped and counted where the port is not UP (R389). -/
def enqueue (p cls : Nat) (k : Packet) (d : Device) : Device :=
  d.updPort p (fun x =>
    if x.state = 2 then
      let pool := 2 * vcOf k.typ + cls
      { x with txq := Tab.set x.txq pool (Tab.getD x.txq pool [] ++ [k]) }
    else { x with dropped := satAdd x.dropped 1 })

def countStale (d : Device) : Device := { d with set := { d.set with stale := satAdd d.set.stale 1 } }

/-- Form and send a packet from this node (R391, R392). -/
def sendPacket (k : Packet) (d : Device) : Device :=
  match nextPort d.set.dimsActive (ownNode d) k.dest with
  | some (p, w) => enqueue p (bit01 w) k d
  | none => countStale d

/-- A packet of the current set to a node. -/
def setPacket (d : Device) (typ dest arg len body : Nat) : Packet :=
  { typ := typ, dest := dest, src := ownNode d, bcast := false, len := len, epoch := d.set.epoch.toNat,
    set := d.set.setId.toNat, arg := arg, body := body }

/-- R392: the class of a forwarded packet. -/
def forwardClass (inPort outPort cls : Nat) (wrap : Bool) : Nat :=
  if wrap then 1 else if inPort / 2 = outPort / 2 then cls else 0

/-! ### Flits that leave (Table 12.3) -/

/-- A flit without ACK, credit and CRC (Table 12.3). -/
def flitBody (typ pool : Nat) (start : Option Nat) (seq payload : Nat) : BitVec 2048 :=
  BitVec.ofNat 2048 (typ + ((pool / 2) <<< 2) + ((pool % 2) <<< 4) + (bit01 start.isSome <<< 5)
    + (start.getD 0 <<< 8) + (seq <<< 16) + (payload <<< 64))

/-- CRC of bytes 0 to 247 of a flit. -/
def flitCrc (f : BitVec 2048) : BitVec 32 := crc32 (natToBytes 248 f.toNat)

/-- Active lanes of a port (Table 12.2, Order 4). -/
def laneCount (x : Port) : Nat := if x.width = 0 then 8 else 4

/-- Lane `k` of the active ones: lanes 0 to 7, 0 to 3, or 4 to 7. -/
def laneAtWidth (x : Port) (k : Nat) : Nat := if x.width = 2 then k % 4 + 4 else k % laneCount x

/-- Place on its lane of the `k`-th codeword that carries flit bits: the first of every 257 is an alignment codeword
(R378; log entry 71). -/
def wordPlace (k : Nat) : Nat := k / 256 * 257 + k % 256 + 1

/-- The codewords of its lane that hold the bits of the `k`-th flit of a port (R378): flit bits fill the 514 message symbols
of each flit codeword back to back. -/
def flitWords (x : Port) (k : Nat) : Nat × Nat :=
  let bit := 2048 * (k / laneCount x)
  (wordPlace (bit / 5140), wordPlace ((bit + 2047) / 5140))

/-- Complete a flit with ACK, the credit report of the pool whose turn it is, and the CRC; it leaves the port on the next
lane of the rotation (R378). -/
def emitFlit (f : BitVec 2048) (x : Port) : Port :=
  let pool := x.creditTurn % 6
  let f := f ||| BitVec.ofNat 2048 (((x.expect - 1).toNat <<< 28) + (pool <<< 40) + ((Tab.getD x.freed pool 0 % 4096) <<< 43))
  let f := f ||| BitVec.ofNat 2048 ((flitCrc f).toNat <<< 1984)
  { x with lastSent := some f, lastLane := laneAtWidth x x.txCount, txCount := x.txCount + 1, creditTurn := (pool + 1) % 6,
           turn := (x.turn + 1) % 8 }

/-! ### Training (R379, R380) -/

/-- Everything a training or link reset sets back (Order 6 of Table 12.2, R549). -/
def freshLink (x : Port) : Port :=
  { x with nextSeq := 1, replay := [], resend := [], replayRow := 0, sentOf := [], freedOf := [], turn := 0,
           classTurn := [], creditTurn := 0, txCount := 0, expect := 1, gap := none, nakDue := false, rxCount := 0, lanes := [], rxPart := [], rx := [],
           rxFlits := [], freed := [] }

/-- Packets in a port's buffers. -/
def heldPackets (x : Port) : Nat :=
  (x.txq.map (fun e => e.2.length)).sum + (x.rx.map (fun e => e.2.length)).sum
    + (x.rxPart.filter (fun e => e.2.1 != 0)).length

/-- R549: SEQ, ACK, replay buffer and credits are reset and the packets in the buffers are dropped. -/
def resetLink (x : Port) : Port :=
  { freshLink x with dropped := satAdd x.dropped (heldPackets x), txq := [], txPart := [] }

/-- The port goes DOWN. -/
def portDown (now cause : Nat) (fail : Bool) (x : Port) : Port :=
  { resetLink x with state := 3, width := 3, trained := false, order := 2, downCause := BitVec.ofNat 2 cause, since := now,
                     downs := satAdd x.downs 1, trainFail := satAdd x.trainFail (bit01 fail) }

/-- Order 5 of Table 12.2 has taken more than 100 µs. -/
def trainLate (now : Nat) (x : Port) : Bool := x.since + 100 < now

/-- The payload of this device's TRAIN flit: its fields in the order of Table 12.2, packed from byte 8 on (log entry 71,
DESIGN CHOICE). -/
def trainPayload (node port width fw : Nat) : Nat := 1 + (node <<< 8) + (port <<< 24) + (width <<< 32) + (fw <<< 40)

/-- The most time that Orders `a` to `b` of Table 12.2 may take, of Orders 2 to 4. -/
def trainMaxUs (a b : Nat) : Nat := (((List.range (b + 1)).drop a).map (fun o => if o = 2 then 80000 else 1000)).sum

/-- Orders 2 to 4 of Table 12.2 as far as `ends` go on; Order 4 ends with a width, and this device's TRAIN flit leaves
(Order 5). A condition that fails (no width), or a maximum exceeded, puts the port DOWN; so does a peer's TRAIN flit that
takes longer than Order 5 allows. -/
def trainWidth (now own p fw ends : Nat) (w : Option Nat) (x : Port) : Port :=
  if x.state = 1 && !x.trained then
    match w with
    | some k =>
      if ends < x.order then x
      else if x.since + trainMaxUs x.order ends < now then portDown now 1 true x
      else if ends < 4 then { x with order := ends + 1, since := now }
      else
        emitFlit (flitBody 3 0 none x.nextSeq.toNat (trainPayload own p k fw))
          { x with width := BitVec.ofNat 2 k, trained := true, order := 2, since := now }
    | none => portDown now 1 true x
  else if x.state = 1 && trainLate now x then portDown now 1 true x
  else x

/-- Orders 5 and 6 of Table 12.2. -/
def trainPeer (now own protocol node port fw : Nat) (x : Port) : Port :=
  if x.state = 1 && x.trained then
    if trainLate now x then portDown now 1 true x
    else
      let x := { x with peerNode := BitVec.ofNat 10 node, peerPort := BitVec.ofNat 3 port, peerFw := BitVec.ofNat 16 fw }
      if node = own then portDown now 3 true x
      else if protocol = 1 then { freshLink x with state := 2, since := now, ackAt := now }
      else portDown now 1 true x
  else x

/-- 1 s after it went DOWN a port trains again (R379). -/
def retrain (now : Nat) (x : Port) : Port :=
  if x.state = 3 && x.since + 1000000 ≤ now then { x with state := 1, trained := false, order := 2, since := now } else x

/-! ### Flits: sending (R381 to R384) -/

/-- Receive buffers of a pool in flits (R383). -/
def poolSize (pool : Nat) : Nat := match pool / 2 with | 0 => 32 | 1 => 256 | _ => 128

def poolCredit (x : Port) (pool : Nat) : Bool :=
  (Tab.getD x.sentOf pool 0 + 4096 - Tab.getD x.freedOf pool 0) % 4096 < poolSize pool

def poolReady (x : Port) (pool : Nat) : Bool := Tab.getD x.txq pool [] != [] && poolCredit x pool

/-- The virtual channel that owns a slot of the cycle (R382). -/
def slotOwner (turn : Nat) : Nat :=
  match turn % 8 with | 0 => 0 | 3 => 2 | 7 => 2 | _ => 1

/-- The pool of a channel that is served: the classes alternate when both wait. -/
def channelPool (x : Port) (vc : Nat) : Option Nat :=
  let a := poolReady x (2 * vc)
  let b := poolReady x (2 * vc + 1)
  if a && b then some (2 * vc + Tab.getD x.classTurn vc 0 % 2) else if a then some (2 * vc)
  else if b then some (2 * vc + 1) else none

/-- R382: the pool that the current slot serves. -/
def pickPool (x : Port) : Option Nat :=
  (channelPool x (slotOwner x.turn)).orElse (fun _ => (channelPool x 0).orElse (fun _ =>
    (channelPool x 1).orElse (fun _ => channelPool x 2)))

/-- Fill the 16-byte units of a payload from a pool's packets: the payload, its first packet start, and what is left:
units of the first packet already sent, and the packets. -/
def fillUnits : Nat → Nat → Nat → List Packet → Nat × Option Nat × Nat × List Packet
  | 0, _, part, ks => (0, none, part, ks)
  | n + 1, i, part, ks =>
    match ks with
    | [] => (0, none, 0, [])
    | k :: rest =>
      let unit := bitsOf (packetNat k) (128 * part) 128
      let last := part + 1 = packetUnits k.len
      let (v, st, part', ks') := fillUnits n (i + 1) (if last then 0 else part + 1) (if last then rest else ks)
      (unit + (v <<< 128), if part = 0 then some i else st, part', ks')

/-- The next new DATA flit of a pool. -/
def newData (pool : Nat) (x : Port) : Port :=
  let (v, st, part, ks) := fillUnits 15 0 (Tab.getD x.txPart pool 0) (Tab.getD x.txq pool [])
  let f := flitBody 1 pool st x.nextSeq.toNat v
  let x := { x with
    txq := Tab.set x.txq pool ks
    txPart := Tab.set x.txPart pool part
    replay := x.replay ++ [(x.nextSeq, f)]
    nextSeq := x.nextSeq + 1
    sentOf := Tab.set x.sentOf pool ((Tab.getD x.sentOf pool 0 + 1) % 4096)
    classTurn := Tab.set x.classTurn (pool / 2) (1 - pool % 2)
    txData := satAdd x.txData 1 }
  emitFlit f x

/-- A DATA flit leaves the port: a replayed one before any new one (R384). -/
def sendData (now : Nat) (x : Port) : Port :=
  if x.state != 2 then x
  else
    match x.resend with
    | (_, f) :: rest => emitFlit f { x with resend := rest }
    | [] =>
      match pickPool x with
      | some pool =>
        if x.replay.length < 1024 then newData pool (if x.replay = [] then { x with ackAt := now } else x) else x
      | none => x

/-- An IDLE flit fills a slot that no pool can use (R382). -/
def sendIdle (x : Port) : Port :=
  if x.state = 2 && x.resend = [] && (pickPool x = none || 1024 ≤ x.replay.length) then
    emitFlit (flitBody 0 0 none x.nextSeq.toNat 0) x
  else x

/-- A NAK leaves the port. -/
def emitNak (now : Nat) (x : Port) : Port :=
  emitFlit (flitBody 2 0 none x.nextSeq.toNat 0)
    { x with naksSent := satAdd x.naksSent 1, nakDue := false, gap := some now }

def sendNak (now : Nat) (x : Port) : Port := if x.state = 2 && x.nakDue then emitNak now x else x

/-- The NAK repeated every 20 µs while the gap lasts (R384). -/
def repeatNak (now : Nat) (x : Port) : Port :=
  match x.gap with
  | some t => if x.state = 2 && t + 20 ≤ now then emitNak now x else x
  | none => x

/-- A replay starts; after sixteen in a row without an advance of ACK the port goes DOWN instead (R384; log entry 71,
DEDUCED: the sixteenth is made). -/
def startReplay (now : Nat) (x : Port) : Port :=
  if 16 ≤ x.replayRow then portDown now 2 false x
  else { x with resend := x.replay, replayRow := x.replayRow + 1, replays := satAdd x.replays 1, ackAt := now }

/-- 20 µs without ACK advancing while flits are unacknowledged (R384). -/
def replayTimeout (now : Nat) (x : Port) : Port :=
  if x.state = 2 && x.replay != [] && x.ackAt + 20 ≤ now then startReplay now x else x

/-! ### Flits: receiving (R383, R384, R386) -/

/-- The flits of the replay buffer that an ACK covers leave it. -/
def takeAck (now : Nat) (ack : BitVec 12) (x : Port) : Port :=
  match x.replay.findIdx? (fun e => e.1 = ack) with
  | some i =>
    let left := x.replay.drop (i + 1)
    { x with replay := left, resend := x.resend.filter (fun e => left.any (fun l => l.1 = e.1)), replayRow := 0,
             ackAt := now }
  | none => x

/-- A credit report; one that lies behind the latest is ignored (R383). -/
def takeCredit (pool freed : Nat) (x : Port) : Port :=
  if pool < 6 && (freed + 4096 - Tab.getD x.freedOf pool 0) % 4096 < 2048 then
    { x with freedOf := Tab.set x.freedOf pool freed }
  else x

/-- What every good flit carries. -/
def takeCommon (now : Nat) (f : BitVec 2048) (x : Port) : Port :=
  takeCredit (bitsOf f.toNat 40 3) (bitsOf f.toNat 43 12) (takeAck now (BitVec.ofNat 12 (bitsOf f.toNat 28 12)) x)

/-- Gather the units of a payload into packets: units and value gathered, packets completed, units used. -/
def gatherUnits : Nat → Nat → Nat × Nat → (Nat × Nat) × List Packet × Nat
  | 0, _, part => (part, [], 0)
  | n + 1, payload, (have_, v) =>
    let unit := payload % 2 ^ 128
    if have_ = 0 && unit % 256 = 0 then ((0, 0), [], 0)
    else
      let v' := v + (unit <<< (128 * have_))
      if have_ + 1 = packetUnits (bitsOf v' 32 16) then
        let (part, ks, used) := gatherUnits n (payload >>> 128) (0, 0)
        (part, packetOf v' :: ks, used + 1)
      else
        let (part, ks, used) := gatherUnits n (payload >>> 128) (have_ + 1, v')
        (part, ks, used + 1)

def freedAdd (pool n : Nat) (x : Port) : Port :=
  { x with freed := Tab.set x.freed pool ((Tab.getD x.freed pool 0 + n) % 4096) }

/-- An accepted DATA flit's payload enters its pool; one whose VC is the reserved 3 has none, and its payload is
dropped (log entry 71, DESIGN CHOICE). -/
def acceptFlit (f : BitVec 2048) (x : Port) : Port :=
  let pool := 2 * bitsOf f.toNat 2 2 + bitsOf f.toNat 4 1
  if 6 ≤ pool then { x with expect := x.expect + 1, gap := none, nakDue := false }
  else
  let (part, ks, used) := gatherUnits 15 (bitsOf f.toNat 64 1920) (Tab.getD x.rxPart pool (0, 0))
  let x := { x with
    expect := x.expect + 1
    gap := none
    nakDue := false
    rxPart := Tab.set x.rxPart pool part
    rx := Tab.set x.rx pool (Tab.getD x.rx pool [] ++ ks) }
  if used = 0 then freedAdd pool 1 x
  else { x with rxFlits := Tab.set x.rxFlits pool (Tab.getD x.rxFlits pool [] ++ [used]) }

/-- R378: the flit that arrives is the next in the rotation of the active lanes, and the codewords that hold its bits
are decoded. An uncorrectable codeword spoils every flit that holds any of its bits. -/
def decodeWords (words : List Codeword) (x : Port) : Bool × Port :=
  let lane := x.rxCount % laneCount x
  let (first, last) := flitWords x x.rxCount
  let (done, held) := Tab.getD x.lanes lane (0, false)
  let found := (List.range (last + 1 - done)).map (fun i => (done + i, words.getD i .clean))
  let bad := found.filter (fun e => e.2 = .uncorrectable)
  let spoiled := (held && decide (first < done)) || bad.any (fun e => first ≤ e.1 && e.1 % 257 != 0)
  (!spoiled, { x with
    rxCount := x.rxCount + 1
    lanes := Tab.set x.lanes lane (max done (last + 1), if found = [] then held else bad.any (fun e => e.1 = last))
    corrected := satAdd x.corrected (found.filter (fun e => e.2 = .corrected)).length
    uncorr := satAdd x.uncorr bad.length })

/-- A flit with correct CRC whose codewords were all corrected. -/
def flitGood (f : BitVec 2048) (fecOk : Bool) : Bool :=
  fecOk && (flitCrc f).toNat = bitsOf f.toNat 1984 32

/-- Count a flit that fails its CRC. -/
def countBad (f : BitVec 2048) (x : Port) : Port :=
  if (flitCrc f).toNat = bitsOf f.toNat 1984 32 then x else { x with crcFail := satAdd x.crcFail 1 }

/-- The first discard of a gap makes a NAK due (R384). -/
def discardData (now : Nat) (x : Port) : Port :=
  match x.gap with
  | some _ => x
  | none => { x with gap := some now, nakDue := true }

/-- A flit of a TYPE arrives at an UP port: what a good one does, and what a spoiled one does. -/
def receiveFlit (typ : Nat) (f : BitVec 2048) (words : List Codeword) (good spoiled : Port → Port) (x : Port) : Port :=
  if x.state != 2 then x
  else
    let r := decodeWords words x
    if !flitGood f r.1 then spoiled (countBad f r.2)
    else if bitsOf f.toNat 0 2 = typ then good r.2 else x

/-- A DATA flit arrives. -/
def receiveData (now : Nat) (f : BitVec 2048) (words : List Codeword) : Port → Port :=
  receiveFlit 1 f words (fun x =>
    let x := takeCommon now f x
    if BitVec.ofNat 12 (bitsOf f.toNat 16 12) = x.expect then acceptFlit f x else discardData now x) (discardData now)

/-- An IDLE flit arrives. -/
def receiveIdle (now : Nat) (f : BitVec 2048) (words : List Codeword) : Port → Port :=
  receiveFlit 0 f words (takeCommon now f) id

/-- A NAK arrives (R384). -/
def receiveNak (now : Nat) (f : BitVec 2048) (words : List Codeword) : Port → Port :=
  receiveFlit 2 f words (fun x =>
    let x := takeCommon now f x
    if x.replay = [] then x else startReplay now x) id

/-- Units of a packet leave the receive buffer: whole flits are freed (R383). -/
def freeUnits (pool : Nat) : Nat → List Nat → Port → Port
  | 0, fl, x => { x with rxFlits := Tab.set x.rxFlits pool fl }
  | n + 1, fl, x =>
    match fl with
    | [] => { x with rxFlits := Tab.set x.rxFlits pool [] }
    | k :: rest =>
      if k ≤ 1 then freeUnits pool n rest (freedAdd pool 1 x) else freeUnits pool n ((k - 1) :: rest) x

/-- The packet at the head of a pool. -/
def headPacket (d : Device) (p pool : Nat) : Option Packet := (Tab.getD (d.port p).rx pool []).head?

/-- The packet at the head of a pool leaves it, forwarded or delivered. -/
def popPacket (p pool : Nat) (d : Device) : Device :=
  match Tab.getD (d.port p).rx pool [] with
  | [] => d
  | k :: rest =>
    d.updPort p (fun x =>
      freeUnits pool (packetUnits k.len) (Tab.getD x.rxFlits pool []) { x with rx := Tab.set x.rx pool rest })

end Sys2Proof.Machine
end

