-- ==== Sys2Proof/Machine/StreamSlots.lean ====
section
/-!
DEFINITION. Machine/StreamSlots.lean: stream descriptors and slots, and the account of a store entry that has been
written (R252, R254 to R256, R265).
-/
namespace Sys2Proof.Machine

/-! ### Descriptors (Table 7.7, R256) -/

def sdField (v : BitVec 384) (lo w : Nat) : Nat := bitsOf v.toNat lo w
def sdBase (v : BitVec 384) : Nat := sdField v 0 40
def sdStore (v : BitVec 384) : Bool := v.getLsbD 40
def sdFirst (v : BitVec 384) : Nat := sdField v 41 4
def sdGang (v : BitVec 384) : Nat := sdField v 45 4 + 1
def sdTile (v : BitVec 384) : Nat := sdField v 49 8 + 1
def sdLenReg (v : BitVec 384) : Nat := sdField v 57 3
def sdLenOn (v : BitVec 384) : Bool := v.getLsbD 60
def sdLenLevel (v : BitVec 384) : Nat := sdField v 61 2
def sdGated (v : BitVec 384) : Bool := v.getLsbD 63
def sdCount (v : BitVec 384) (i : Nat) : Nat := sdField v (64 + 20 * i) 20
def sdStride (v : BitVec 384) (i : Nat) : Int := (BitVec.ofNat 32 (sdField v (128 + 32 * i) 32)).toInt
def sdPace (v : BitVec 384) : Nat := sdField v 224 16
def sdChannels (v : BitVec 384) : Nat := sdField v 240 2 + 1
/-- HCHAN, TAP and CTX of a channel entry. -/
def sdChan (v : BitVec 384) (k : Nat) : Nat × Nat × Nat :=
  (sdField v (256 + 32 * k) 12, sdField v (268 + 32 * k) 6, sdField v (274 + 32 * k) 2)

/-- Effective counts (R256). -/
def sdCounts (lens : Tab LenReg) (v : BitVec 384) : Nat × Nat × Nat :=
  let r := Tab.getD lens (sdLenReg v) {}
  let lim := fun i c => if sdLenOn v && sdLenLevel v = i then min c ((r.value + r.grain - 1) / max 1 r.grain) else c
  (lim 0 (sdCount v 0), lim 1 (sdCount v 1), lim 2 (sdCount v 2))

/-- Number of tiles of a stream. -/
def Slot.total (s : Slot) : Nat := s.c0 * s.c1 * s.c2

/-- Logical address of entry `e` of tile `t`. -/
def Slot.addr (s : Slot) (t e : Nat) : Nat :=
  let i0 : Int := (t % max 1 s.c0 : Nat)
  let i1 : Int := (t / max 1 s.c0 % max 1 s.c1 : Nat)
  let i2 : Int := (t / max 1 (s.c0 * s.c1) : Nat)
  let a : Int := sdBase s.words + i0 * sdStride s.words 0 + i1 * sdStride s.words 1 + i2 * sdStride s.words 2 + 512 * e
  (a % (2 ^ 40 : Int)).toNat

/-- Channel of a tile. -/
def Slot.chan (s : Slot) (t : Nat) : Nat × Nat × Nat := sdChan s.words (t % sdChannels s.words)

/-- The queues of a stream's gang. -/
def Slot.gang (s : Slot) : List Nat := (List.range (sdGang s.words)).map (· + sdFirst s.words)

/-! ### Slots -/

def Device.slot (d : Device) (c n : Nat) : Slot := Tab.getD (d.core c).slots n {}

def Device.updSlot (d : Device) (c n : Nat) (f : Slot → Slot) : Device :=
  d.updCore c (fun x => { x with slots := Tab.set x.slots n (f (Tab.getD x.slots n {})) })

/-- Tiles of a store slot with entries not yet written. -/
def storeTiles (x : Core) (n : Nat) : List Nat :=
  x.storeQ.flatMap (fun q => (q.2.filter (fun e => e.slot = n)).map (·.tile))

/-- A store entry has been written: DONE when its tile is whole, and the stream's end (R252, R254). -/
def countWritten (c : Nat) (e : StoreEntry) (d : Device) : Device :=
  let left := storeTiles (d.core c) e.slot
  d.updSlot c e.slot (fun s =>
    let whole := decide (e.tile < s.reqTile) && !left.contains e.tile
    let oldest := left.foldl min s.reqTile
    { s with bytes := satNat 48 s.bytes 512, pending := s.pending - 1, written := s.written + 1, tile := oldest,
             done := if whole then s.done + 1 else s.done, filled := if whole then s.filled + 1 else s.filled,
             active := s.active && !(decide (s.total ≤ s.reqTile) && left = []) })

/-- An accepted store entry leaves its queue. -/
def dropStore (c q : Nat) (e : StoreEntry) (d : Device) : Device :=
  d.updCore c (fun x => { x with storeQ := Tab.set x.storeQ q ((Tab.getD x.storeQ q []).erase e) })

/-- Slots `t` in a core whose byte counters, which only a core reset or a clearing read returns to 0, go on from those of
`old` (Table 7.10, R552). -/
def keepBytes (old t : Tab Slot) : Tab Slot :=
  (List.range 16).filterMap (fun n =>
    let s := { Tab.getD t n {} with bytes := (Tab.getD old n {}).bytes }
    if s = {} then none else some (n, s))

end Sys2Proof.Machine
end

