-- ==== Sys2Proof/Machine/Tiles.lean ====
section
/-!
DEFINITION. Machine/Tiles.lean: tiles as they are stored (row-slab layout, block scales), their decoding and
conversion (chapter 5), the sums of the matrix engine (chapter 3) and the element functions of the vector
engine (chapter 4).  Everything here is a function of values; no state is read.
-/
namespace Sys2Proof.Machine

/-- Saturation and flush counts of one word (R182). -/
structure Counts where
  sat : Nat := 0
  flush : Nat := 0
deriving DecidableEq, Repr

def Counts.addSat (c : Counts) (n : Nat) : Counts := { c with sat := c.sat + n }
def Counts.addFlush (c : Counts) (n : Nat) : Counts := { c with flush := c.flush + n }

/-- The direction of block scaling over the logical matrix (R178). -/
inductive ScaleDir where
  | none | acrossCols | acrossRows | square
deriving DecidableEq, Repr

/-- How a matrix of `rows` by `cols` elements is stored (R107, R108). -/
structure TileShape where
  fmt : Fmt
  dir : ScaleDir
  /-- block size -/
  bs : Nat
  rows : Nat
  cols : Nat
  /-- the stored array is the transpose of the logical matrix -/
  trans : Bool
deriving DecidableEq, Repr

/-- Bits `[hi:lo]` of a number. -/
def bitsHL (x hi lo : Nat) : Nat := (x >>> lo) % 2 ^ (hi - lo + 1)

/-- Table 3.4: block size. -/
def scaleBlock (field : Nat) : Nat := 2 ^ (bitsHL field 2 0 + 3)

/-- Table 3.4 for operand A, an output tile or a vector operand: DIR 0b01 runs across the columns. -/
def scaleDirA (field : Nat) : ScaleDir :=
  match bitsHL field 4 3 with
  | 0 => .none | 1 => .acrossCols | 2 => .acrossRows | _ => .square

/-- Table 5.3 for operand B: DIR 0b01 (along K) runs across the rows of the K × N matrix. -/
def scaleDirB (field : Nat) : ScaleDir :=
  match bitsHL field 4 3 with
  | 0 => .none | 1 => .acrossRows | 2 => .acrossCols | _ => .square

/-- A tile of a vector word or an ACC_EMIT. -/
def tileOf (fmt : Fmt) (field rows cols : Nat) (trans : Bool) : TileShape :=
  { fmt := fmt, dir := scaleDirA field, bs := scaleBlock field, rows := rows, cols := cols, trans := trans }

/-- R178: number of block scales. -/
def TileShape.blocks (t : TileShape) : Nat :=
  match t.dir with
  | .none => 0
  | .acrossCols => t.rows * (t.cols / t.bs)
  | .acrossRows => (t.rows / t.bs) * t.cols
  | .square => (t.rows / 16) * (t.cols / 16)

/-- Table 5.3: the scale byte of element (i, j). -/
def TileShape.blockOf (t : TileShape) (i j : Nat) : Nat :=
  match t.dir with
  | .none => 0
  | .acrossCols => i * (t.cols / t.bs) + j / t.bs
  | .acrossRows => (i / t.bs) * t.cols + j
  | .square => (i / 16) * (t.cols / 16) + j / 16

/-- Bytes rounded up to units of 512 bytes. -/
def unitsFor (bytes : Nat) : Nat := (bytes + 511) / 512

def TileShape.scaleUnits (t : TileShape) : Nat := unitsFor t.blocks
/-- Bytes of the elements: rows follow each other bit by bit, and only the whole is rounded up to bytes (log entry 75,
DESIGN CHOICE: R107 gives W × bits / 8 bytes a row and is silent where that is no whole number). -/
def TileShape.elemBytes (t : TileShape) : Nat := (t.rows * t.cols * t.fmt.bits + 7) / 8
def TileShape.elemUnits (t : TileShape) : Nat := unitsFor t.elemBytes
/-- R109: size of the region in units. -/
def TileShape.units (t : TileShape) : Nat := t.scaleUnits + t.elemUnits

/-- R107: position of element (r, c) of a stored array of `rows` by `cols`, in slabs of 16 columns. -/
def slabPos (rows cols r c : Nat) : Nat :=
  let slab := c / 16
  let w := min 16 (cols - 16 * slab)
  16 * slab * rows + r * w + c % 16

/-- Position of logical element (i, j) in the stored element string. -/
def TileShape.pos (t : TileShape) (i j : Nat) : Nat :=
  if t.trans then slabPos t.cols t.rows j i else slabPos t.rows t.cols i j

/-- `width` bits at bit offset `off` of a little-endian string of 512-byte units. -/
def bitsAt (us : Array (BitVec 4096)) (off width : Nat) : Nat :=
  let k := off / 4096
  let lo := (us.getD k 0).toNat
  let sh := off % 4096
  if sh + width ≤ 4096 then (lo >>> sh) % 2 ^ width
  else ((lo + ((us.getD (k + 1) 0).toNat <<< 4096)) >>> sh) % 2 ^ width

/-- Byte `k` of a string of units. -/
def byteOf (us : Array (BitVec 4096)) (k : Nat) : Nat := bitsAt us (8 * k) 8

/-- The decoded element (R173 to R175), without its scale; rows are packed as in `elemBytes`. -/
def TileShape.raw (t : TileShape) (us : Array (BitVec 4096)) (i j : Nat) : Num :=
  t.fmt.decode (bitsAt us (4096 * t.scaleUnits + t.fmt.bits * t.pos i j) t.fmt.bits)

/-- R176, R177: the exact value of a scaled element. -/
def TileShape.exact (t : TileShape) (us : Array (BitVec 4096)) (i j : Nat) : Num :=
  match t.dir with
  | .none => t.raw us i j
  | _ =>
    let s := byteOf us (t.blockOf i j)
    if s == 0xFF then .nan else (t.raw us i j).scale2 ((s : Int) - 127)

/-- Table 4.7: under the described profile an FP32 result below the normal range becomes a zero of its sign,
counted when it was not zero. -/
def flushF32 (tabled : Bool) (b : BitVec 32) (c : Counts) : BitVec 32 × Counts :=
  let mag := b.toNat % 2 ^ 31
  if tabled || 2 ^ 23 ≤ mag || mag == 0 then (b, c) else (b &&& 0x80000000#32, c.addFlush 1)

/-- R175: an FP32 encoding with a NaN of any sign and payload replaced by the canonical one. -/
def canonF32 (b : BitVec 32) : BitVec 32 := if (f32 b).isNan then 0x7FC00000#32 else b

/-- One FP32 step: round once, count its saturation, flush by Table 4.7. -/
def stepF32 (tabled : Bool) (x : Num) (c : Counts) : BitVec 32 × Counts :=
  let (b, s) := roundF32 x
  flushF32 tabled b (c.addSat s)

/-- R150, R177: a vector source element, decoded to FP32 with its scale. -/
def TileShape.value (t : TileShape) (tabled : Bool) (us : Array (BitVec 4096)) (i j : Nat) (c : Counts) :
    BitVec 32 × Counts :=
  stepF32 tabled (t.exact us i j) c

/-! ## Conversion of a tile (R179) -/

/-- What a conversion yields: the units of the tile, the counts and the largest finite magnitude (FP32 bits). -/
structure Converted where
  units : List (BitVec 4096)
  counts : Counts
  runmax : Nat
deriving DecidableEq, Repr

/-- The larger of two finite magnitudes. -/
def maxMag (a b : Nat × Int) : Nat × Int := if magLe a.1 a.2 b.1 b.2 then b else a

/-- All positions of a tile, row by row. -/
def positions (rows cols : Nat) : List (Nat × Nat) :=
  (List.range rows).flatMap fun i => (List.range cols).map fun j => (i, j)

/-- Pack element codes (indexed by their stored position) of `bits` bits into consecutive units, bit by bit as in
`elemBytes` (log entry 75). -/
def packUnits (codes : Array Nat) (bits n : Nat) : List (BitVec 4096) :=
  let all := codes.foldr (fun v acc => acc * 2 ^ bits + v) 0
  (List.range n).map fun k => BitVec.ofNat 4096 (all >>> (4096 * k))

/-- R179 to R181: convert the values `x i j` (none: masked, written as +0).  `mag` gives the value used for the
block scale and the running maximum (the value itself but for special functions), `isInt` marks INT32 sources,
`mode i j` the rounding of element (i, j). -/
def convertTile (t : TileShape) (isInt : Bool) (x : Nat → Nat → Option Num) (mag : Num → Num)
    (mode : Nat → Nat → RMode) : Converted :=
  let ps := positions t.rows t.cols
  let scaled := t.dir != .none
  let nb := if scaled then t.blocks else 1
  let amax := ps.foldl (init := (Array.replicate nb ((0, 0) : Nat × Int))) fun a (i, j) =>
    match x i j with
    | some v => match mag v with
      | .fin _ m e => a.modify (t.blockOf i j) (fun o => maxMag o (m, e))
      | _ => a
    | none => a
  let nans := ps.foldl (init := Array.replicate nb false) fun a (i, j) =>
    match x i j with
    | some .nan => if scaled then a.modify (t.blockOf i j) (fun _ => true) else a
    | _ => a
  let scales := (List.range nb).toArray.map fun b =>
    if nans.getD b false then 0xFF
    else let (m, e) := amax.getD b (0, 0); chooseScale m e t.fmt
  let tileMax := amax.foldl maxMag (0, 0)
  let run := if isInt then magF32Up (shiftInt tileMax.1 tileMax.2)
    else (roundF32 (.fin false tileMax.1 tileMax.2)).1.toNat
  let (codes, c) := ps.foldl (init := (Array.replicate (t.rows * t.cols) 0, ({} : Counts)))
    fun (codes, c) (i, j) =>
      match x i j with
      | none => (codes, c)
      | some v =>
        let b := t.blockOf i j
        if scaled && nans.getD b false then (codes, c)
        else
          let s := if scaled then scales.getD b 127 else 127
          let e := t.fmt.convert (mode i j) (v.scale2 (127 - (s : Int)))
          (codes.set! (t.pos i j) e.bits, { sat := c.sat + e.sat, flush := c.flush + e.flush })
  { units := (if scaled then packUnits scales 8 t.scaleUnits else []) ++ packUnits codes t.fmt.bits t.elemUnits
    counts := c
    runmax := run }

/-- R57, R108: VALID_BYTES of each unit of a tile: scale bytes, then element bytes. -/
def TileShape.validBytes (t : TileShape) : List Nat :=
  let part := fun n => (List.range (unitsFor n)).map fun k => min 512 (n - 512 * k)
  part t.blocks ++ part t.elemBytes

/-! ## The matrix engine (R130 to R134) -/

/-- Exponent of the largest-magnitude term. -/
def topExp (ts : List Num) : Option Int :=
  ts.foldl (fun o t => match t with
    | .fin _ m e => if m == 0 then o else match o with
      | none => some (magExp m e)
      | some k => some (max k (magExp m e))
    | _ => o) none

/-- R132: keep a term to `width` bits below exponent `e`, truncated toward zero. -/
def alignTerm (width : Nat) (e : Int) : Num → Num
  | .fin s m x => if m == 0 then .fin s 0 0 else .fin s (roundQuanta .towardZero m x (e - width)) (e - width)
  | t => t

/-- R132: the groups in a rounding group and the alignment width by firmware major.  The manual documents four groups
and 40 bits, which are major 1's here; another version's are free, but its bound is the manual's: truncating the
16 × groups products and the bank value stays below 65 × 2^(e − 40) (log entry 67). -/
def roundShape (major : Nat) : Nat × Nat :=
  let q := Config.roundShape major
  if major ≠ 1 && 1 ≤ q.1 && (16 * q.1 + 1) * 2 ^ 40 ≤ 65 * 2 ^ q.2 then q else (4, 40)

/-- R132: the sum of one rounding group: aligned and truncated, or by Table 5.9 when a term is not finite. -/
def alignedSum (width : Nat) (ts : List Num) : Num :=
  if ts.all Num.isFin then
    match topExp ts with
    | some e => exactSum (ts.map fun t => if t.isZero then t else alignTerm width e t)
    | none => exactSum ts
  else exactSum ts

/-- Truncate a finite value to BF16 (R133). -/
def truncBf16 : Num → Num
  | .fin s m e =>
    if m == 0 then .fin s 0 0
    else let q := max (magExp m e) (-126) - 7; .fin s (roundQuanta .towardZero m e q) q
  | t => t

/-- R133: the products that stand for one class-S product under the described profile. -/
def splitProducts (a b : Num) : List Num :=
  if a.isFin && b.isFin then
    let ah := truncBf16 a
    let bh := truncBf16 b
    let al := truncBf16 (exactSum [a, ah.neg])
    let bl := truncBf16 (exactSum [b, bh.neg])
    [ah.mul bh, ah.mul bl, al.mul bh]
  else [a.mul b]

/-- R134: an exact INT32 sum, limited to the INT32 range; the saturation counts once. -/
def satInt32 (x : Int) (c : Counts) : BitVec 32 × Counts :=
  if 2 ^ 31 - 1 < x then (0x7FFFFFFF#32, c.addSat 1)
  else if x < -(2 ^ 31) then (0x80000000#32, c.addSat 1)
  else (BitVec.ofInt 32 x, c)

/-- Integer value of an integer element. -/
def Num.toIntVal : Num → Int
  | .fin s m e => let v : Int := shiftInt m e; if s then -v else v
  | _ => 0

/-- One MM_ACC over one unmasked element: the K positions in order, by the profile (R130, R132 to R134).
`get l`/`set` are folded over an array of the element's S lane values. -/
def mmElement (tabled isInt : Bool) (major : Nat) (cls : RateClass) (s kEff : Nat) (a b : Nat → Num)
    (lanes : Array (BitVec 32)) (c : Counts) : Array (BitVec 32) × Counts :=
  let ks := fun (g size : Nat) => (List.range (min size (kEff - g * size))).map (· + g * size)
  if isInt then
    (List.range ((kEff + 15) / 16)).foldl (init := (lanes, c)) fun (ls, c) g =>
      let l := g % s
      let sum := (ks g 16).foldl (fun t k => t + (a k).toIntVal * (b k).toIntVal) ((ls.getD l 0).toInt)
      let (v, c) := satInt32 sum c
      (ls.set! l v, c)
  else if tabled then
    let size := if cls == .single then 1 else 16
    (List.range ((kEff + size - 1) / size)).foldl (init := (lanes, c)) fun (ls, c) g =>
      let l := g % s
      let (v, n) := roundF32 (exactSum (f32 (ls.getD l 0) :: (ks g size).map fun k => (a k).mul (b k)))
      (ls.set! l v, c.addSat n)
  else
    -- R132: lane l takes its groups l, l + S, ... four at a time
    let shape := roundShape major
    let groups := (kEff + 15) / 16
    (List.range s).foldl (init := (lanes, c)) fun (ls, c) l =>
      let mine := (List.range groups).filter fun g => g % s == l
      (List.range ((mine.length + shape.1 - 1) / shape.1)).foldl (init := (ls, c)) fun (ls, c) r =>
        let gs := (mine.drop (shape.1 * r)).take shape.1
        let terms := gs.flatMap fun g => (ks g 16).flatMap fun k =>
          if cls == .single then splitProducts (a k) (b k) else [(a k).mul (b k)]
        let (v, n) := roundF32 (alignedSum shape.2 (f32 (ls.getD l 0) :: terms))
        (ls.set! l v, c.addSat n)

/-- R131: one addition of the lane tree. -/
def laneAdd (isInt : Bool) (a b : BitVec 32) (c : Counts) : BitVec 32 × Counts :=
  if isInt then satInt32 (a.toInt + b.toInt) c
  else let (v, n) := roundF32 (exactSum [f32 a, f32 b]); (v, c.addSat n)

/-- One level of a pairing tree: positions 2t and 2t + 1. -/
def pairLevel {α : Type} (op : α → α → Counts → α × Counts) : List α → Counts → List α × Counts
  | a :: b :: rest, c =>
    let (v, c) := op a b c
    let (r, c) := pairLevel op rest c
    (v :: r, c)
  | l, c => (l, c)

/-- A pairing tree of `levels` levels (R131, R158). -/
def pairTree {α : Type} (op : α → α → Counts → α × Counts) (levels : Nat) (l : List α) (c : Counts) :
    List α × Counts :=
  match levels with
  | 0 => (l, c)
  | n + 1 => let (l, c) := pairLevel op l c; pairTree op n l c

/-! ## Element functions of the vector engine -/

def fadd (tabled : Bool) (a b : BitVec 32) (c : Counts) : BitVec 32 × Counts :=
  stepF32 tabled (exactSum [f32 a, f32 b]) c
def fsub (tabled : Bool) (a b : BitVec 32) (c : Counts) : BitVec 32 × Counts :=
  stepF32 tabled (exactSum [f32 a, (f32 b).neg]) c
def fmul (tabled : Bool) (a b : BitVec 32) (c : Counts) : BitVec 32 × Counts :=
  stepF32 tabled ((f32 a).mul (f32 b)) c
def fma (tabled : Bool) (a b d : BitVec 32) (c : Counts) : BitVec 32 × Counts :=
  stepF32 tabled (exactSum [(f32 a).mul (f32 b), f32 d]) c
def fmax (tabled : Bool) (a b : BitVec 32) (c : Counts) : BitVec 32 × Counts :=
  stepF32 tabled (Num.max (f32 a) (f32 b)) c
def fmin (tabled : Bool) (a b : BitVec 32) (c : Counts) : BitVec 32 × Counts :=
  stepF32 tabled (Num.min (f32 a) (f32 b)) c

/-- Quotient of two finite positive counts, rounded (R165: f32(nb) / f32(n)), by an exact quotient with a
sticky bit. -/
def divNum (a b : Num) : Num :=
  match a, b with
  | .nan, _ => .nan
  | _, .nan => .nan
  | .inf _, .inf _ => .nan
  | .inf s, .fin t _ _ => .inf (s != t)
  | .fin s _ _, .inf t => .fin (s != t) 0 0
  | .fin s m e, .fin t n g =>
    if n == 0 then (if m == 0 then .nan else .inf (s != t))
    else
      let k := Nat.log2 n + 100
      let q := (m <<< k) / n
      .fin (s != t) (2 * q + (if q * n == m <<< k then 0 else 1)) (e - g - k - 1)

def fdiv (tabled : Bool) (a b : BitVec 32) (c : Counts) : BitVec 32 × Counts :=
  stepF32 tabled (divNum (f32 a) (f32 b)) c

/-- `f32()` of a count (R165). -/
def f32OfNat (n : Nat) : BitVec 32 := (roundF32 (.fin false n 0)).1

/-- A special function rounded to FP32 (R160) and placed by Table 5.4 (R196), as V_STATS and V_SMAX use it. -/
def ffunc (tabled : Bool) (major func : Nat) (x : Num) (c : Counts) : BitVec 32 × Counts :=
  let p := Fmt.convert .fp32 .nearestEven (funcVal func x)
  let b := BitVec.ofNat 32 p.bits
  flushF32 tabled (if tabled then b else nudgeUlp major func x b) { sat := c.sat + p.sat, flush := c.flush + p.flush }

/-- R152, Table 4.4. -/
def vmap (tabled : Bool) (func : Nat) (a b v : BitVec 32) (c : Counts) : BitVec 32 × Counts :=
  match func with
  | 0x00 => stepF32 tabled (f32 a) c
  | 0x01 => stepF32 tabled (f32 a).neg c
  | 0x02 => stepF32 tabled (f32 a).abs c
  | 0x03 => if (f32 a).isZero then (0, c) else fmax tabled a 0 c
  | 0x04 => fmul tabled a v c
  | 0x05 => fadd tabled a v c
  | 0x06 => fadd tabled a b c
  | 0x07 => fsub tabled a b c
  | 0x08 => fmul tabled a b c
  | 0x09 => fmax tabled a b c
  | 0x0A => fmin tabled a b c
  | 0x0B => fma tabled a b v c
  | 0x0C => fma tabled a v b c
  | _ => stepF32 tabled (Num.min (Num.max (f32 a) (f32 v).neg) (f32 v)) c

/-- R154: the comparison selected by FUNC [2:0]. -/
def vcompare (func : Nat) (a b : BitVec 32) : Bool :=
  let x := f32 a
  let y := f32 b
  let un := x.isNan || y.isNan
  let lt := x.lt false y
  let gt := y.lt false x
  match func % 8 with
  | 0 => lt
  | 1 => !un && !gt
  | 2 => !un && !lt && !gt
  | 3 => un || lt || gt
  | 4 => gt
  | 5 => !un && !lt
  | _ => un

/-- R157: identity of a reduction. -/
def reduceIdentity (op : Nat) : BitVec 32 :=
  match op with
  | 2 => 0xFF800000#32
  | 3 => 0x7F800000#32
  | _ => 0

/-- R157: what one element contributes before it is combined (SUMSQ squares and rounds it, ABSMAX takes its
magnitude). -/
def reduceLeaf (tabled : Bool) (op : Nat) (x : BitVec 32) (c : Counts) : BitVec 32 × Counts :=
  match op with
  | 1 => fmul tabled x x c
  | 4 => stepF32 tabled (f32 x).abs c
  | _ => (x, c)

/-- R157: combining two partial results. -/
def reduceOp (tabled : Bool) (op : Nat) (a b : BitVec 32) (c : Counts) : BitVec 32 × Counts :=
  match op with
  | 2 | 4 => fmax tabled a b c
  | 3 => fmin tabled a b c
  | _ => fadd tabled a b c

/-- One entry of a statistics record (R164): COUNT, MEAN, MSQ. -/
structure StatEntry where
  count : Nat
  mean : BitVec 32
  msq : BitVec 32
deriving DecidableEq, Repr

/-- R165: merge of two groups. -/
def statMerge (tabled : Bool) (a b : StatEntry) (c : Counts) : StatEntry × Counts :=
  if b.count == 0 then (a, c)
  else if a.count == 0 then (b, c)
  else if 16777216 < a.count + b.count then (a, c.addSat 1)
  else
    let n := a.count + b.count
    let (d, c) := fsub tabled b.mean a.mean c
    let (w, c) := fdiv tabled (f32OfNat b.count) (f32OfNat n) c
    let (dw, c) := fmul tabled d w c
    let (mean, c) := fadd tabled a.mean dw c
    let (dd, c) := fmul tabled d d c
    let (t, c) := fmul tabled dd (f32OfNat a.count) c
    let (qq, c) := fadd tabled a.msq b.msq c
    let (tw, c) := fmul tabled t w c
    let (q, c) := fadd tabled qq tw c
    ({ count := n, mean := mean, msq := q }, c)

/-- R166: RSTD of an entry. -/
def statRstd (tabled : Bool) (major : Nat) (e : StatEntry) (v : BitVec 32) (c : Counts) : BitVec 32 × Counts :=
  if e.count == 0 then ffunc tabled major 0x01 (f32 v) c
  else
    let (q, c) := fdiv tabled e.msq (f32OfNat e.count) c
    let (s, c) := fadd tabled q v c
    ffunc tabled major 0x01 (f32 s) c

end Sys2Proof.Machine
end

