-- ==== Sys2Proof/Machine/Sections.lean ====
section
/-!
DEFINITION. Machine/Sections.lean: what the families share about placed sections: stores into gradient and other
pages, conversion records, channel closing, the stop of a section, its halt and its unload.
-/
namespace Sys2Proof.Machine

/-! ### Training geometry (R322 to R324) -/

def gField (m : Memory) (g off n : Nat) : Nat := fld m (groupOff m g + off) n
def gRows (m : Memory) (g : Nat) : Nat := gField m g 8 2
def gCols (m : Memory) (g : Nat) : Nat := gField m g 10 2
def gTiles (m : Memory) (g : Nat) : Nat := gField m g 12 4
def gFmt (m : Memory) (g : Nat) : Fmt := (Fmt.ofCode (gField m g 4 1)).getD .bf16

/-- How a parameter tile is stored (R107, R323): A and tile in their own order, B as the transpose. -/
def gShape (m : Memory) (g : Nat) : TileShape :=
  let scale := gField m g 5 1
  let operand := bitsOf (gField m g 7 1) 0 2
  let trans := bitOf (gField m g 7 1) 2
  { fmt := gFmt m g, dir := if operand = 1 then scaleDirB scale else scaleDirA scale, bs := scaleBlock scale,
    rows := gRows m g, cols := gCols m g, trans := if operand = 1 then !trans else trans }

/-- Bytes of one tile's gradient (R324). -/
def gGrad (m : Memory) (g : Nat) : Nat := 512 * unitsFor (4 * gRows m g * gCols m g)

/-- Logical addresses of a tile's parameters and gradient, and of a state value. -/
def paramAddr (sec : Section) (g k : Nat) : Nat :=
  sec.segBase.getD (gField sec.pkg g 0 1) 0 * 65536 + k * gField sec.pkg g 0x10 4
def gradAddr (sec : Section) (g k : Nat) : Nat :=
  sec.segBase.getD (gField sec.pkg g 1 1) 0 * 65536 + k * gGrad sec.pkg g
def stateWidth (m : Memory) (g : Nat) : Nat := if gField m g 6 1 = 0 then 4 else 2
def stateAddr (sec : Section) (g s e : Nat) : Nat :=
  let m := sec.pkg
  sec.segBase.getD (gField m g 2 1) 0 * 65536 + stateWidth m g * (s * gTiles m g * gRows m g * gCols m g + e)

/-- The pages a tile's parameter region spans. -/
def paramPages (sec : Section) (g k : Nat) : List Nat := pagesOf (paramAddr sec g k) (512 * (gShape sec.pkg g).units)

/-- The gradient segment that holds a page: section, group, byte offset of the page in it. -/
def gradOwner (d : Device) (p : Nat) : Option (Section × Nat × Nat) :=
  d.sections.findSome? (fun sec =>
    if sec.segBase = [] then none
    else (List.range (groupCount sec.pkg)).findSome? (fun g =>
      let i := gField sec.pkg g 1 1
      let b := sec.segBase.getD i 0
      if b ≤ p && p < b + segPages sec.pkg i then some (sec, g, (p - b) * 65536) else none))

/-- R327: the sum of an entry and a payload, value by value, and the saturations. -/
def addEntry (old new : Nat) : Nat × Nat :=
  (List.range 128).foldl (fun (a : Nat × Nat) i =>
    let r := roundF32 (exactSum [f32 (BitVec.ofNat 32 (old >>> (32 * i))), f32 (BitVec.ofNat 32 (new >>> (32 * i)))])
    (a.1 + (r.1.toNat <<< (32 * i)), a.2 + r.2)) (0, 0)

/-- R329: PENDING_GRAD of every page of a tile's parameter region. -/
def markPending (sec : Section) (g k : Nat) (d : Device) : Device :=
  if k < gTiles sec.pkg g then
    (paramPages sec g k).foldl (fun d p => d.setRes p (setField (d.res p) 4 1 1)) d
  else d

def countGroup (h g sat flush : Nat) (d : Device) : Device :=
  let k := 64 * h + g
  let c := Tab.getD d.training.counts k (0, 0)
  let t := Tab.set d.training.counts k (satNat 32 c.1 sat, satNat 32 c.2 flush)
  { d with training := { d.training with counts := t } }

/-- One accepted store entry is written to a VALID page that is not poisoned (R249, R327). -/
def writeEntry (addr : Nat) (data : BitVec 4096) (d : Device) : Device :=
  match gradOwner d (addr / 65536) with
  | some (sec, g, off) =>
    let r := addEntry (readLogical d addr 512) data.toNat
    let d := markPending sec g ((off + addr % 65536) / gGrad sec.pkg g) d
    let d := countGroup sec.handle g r.2 0 (writeLogical addr 512 r.1 d)
    { d with training := { d.training with accEntries := satAdd d.training.accEntries 1 } }
  | none => writeLogical addr 512 data.toNat d

/-! ### Names and units -/

def sectionUnits (sec : Section) : List Nat := sec.cores.flatMap coreUnits

/-- Units of a section in rows and columns of logical units: (logical core, row, logical column, unit key). -/
def logicalUnits (sec : Section) : List (Nat × Nat × Nat × Nat) :=
  (List.range sec.cores.length).flatMap (fun l => (List.range 8).flatMap (fun r => (List.range 8).map (fun k =>
    (l, r, k, 80 * sec.cores.getD l 0 + 10 * r + sec.l2p.getD (64 * l + 8 * r + k) 0))))

/-- The mailbox whose command runs in the section that holds a core. -/
def coreMbx (d : Device) (c : Nat) : Option Nat := (coreSection d c).bind (·.mbx)

/-- The live command of a section. -/
def liveMbx (d : Device) (sec : Section) : Option Nat := sec.mbx.filter (fun m => (d.mb m).state.live)

/-- The started command whose stage the section is running, or compares (R360). -/
def runsNow (d : Device) (sec : Section) : Option Nat :=
  sec.mbx.filter (fun m => match (d.mb m).job with
    | .run h _ => h = sec.handle
    | .comparing h => h = sec.handle
    | _ => false)

/-- A suspend that no sequencer has read is withdrawn (Table 11.6). -/
def dropSuspends (sec : Section) (d : Device) : Device :=
  sec.cores.foldl (fun d c => d.setCtrl c ((d.ctrl c).filter (fun m => m != .suspend))) d

/-- A core whose failed unit is recorded in the defect map returns; one that the host took offline does not (R372). -/
def coreReturns (c : Nat) (d : Device) : Device :=
  if d.sched.hostOffline.getLsbD c then d else { d with sched := { d.sched with offline := setBit d.sched.offline c false } }

/-- The section is no longer stopped for lost cores: each returns that may (R372). -/
def lostReturns (h : Nat) (d : Device) : Device :=
  match (d.section? h).map (·.lostCores) with
  | some (c :: rest) =>
    ((c :: rest).foldl (fun d k => coreReturns k d) d).updSection h (fun s =>
      { s with lostCores := [], autoResume := s.autoResume && s.state = .preempted })
  | _ => d

/-- A RUN or RUN_FUSED names a section. -/
def runNames (x : Mailbox) (h : Nat) : Bool :=
  (x.opcode = 0x12 && x.arg 0 4 = h)
    || (x.opcode = 0x13 && (List.range (min 8 (x.arg 0x88 1))).any (fun i => x.arg (0x90 + 4 * i) 4 = h))

/-- Physical core of a logical core of a section. -/
def Section.phys (sec : Section) (l : Nat) : Nat := sec.cores.getD l 0

/-- Physical unit of a logical one. -/
def Section.unitAt (sec : Section) (l row lcol : Nat) : Nat := 80 * sec.phys l + 10 * row + sec.l2p.getD (64 * l + 8 * row + lcol) 0

/-! ### Conversion records (R188 to R190, R561) -/

/-- Order 3 of Table 5.8 for one context: its records go to the area; none of a poisoned page's are written. -/
def writeCtxRecords (sec : Section) (c : Ctx) (d : Device) : Device :=
  match c.image with
  | some n =>
    let a := statsBase sec + 8192 * n
    if resPoison (d.res (a / 65536)) then d else writeLogical a 8192 (Ram.slice c.records 0 512) d
  | none => d

/-- Order 3 of Table 5.8 for every CU context of a list of cores. -/
def writeRecords (sec : Section) (cores : List Nat) (d : Device) : Device :=
  (cores.flatMap coreUnits).foldl (fun d u =>
    if isCu u then (d.unit u).ctxs.foldl (fun d e => writeCtxRecords sec e.2 d) d else d) d

/-- R229, R561: an access to the records of image `n` in the area meets a poisoned page: the code and the logical
address with which the command ends. -/
def statsPoison (d : Device) (sec : Section) (n : Nat) : Option (BitVec 8 × Nat) :=
  let a := statsBase sec + 8192 * n
  if resPoison (d.res (a / 65536)) then some (classCode (d.res (a / 65536)), a) else none

/-- R561: a page of the area into which Order 3 would write is poisoned. -/
def recordsPoison (d : Device) (sec : Section) : Option (BitVec 8 × Nat) :=
  ((sec.cores.flatMap coreUnits).filter isCu).findSome? (fun u => (d.unit u).ctxs.findSome? (fun e =>
    e.2.image.bind (statsPoison d sec)))

/-- Order 1 of Table 5.8: the area, the resident records and CONV_RUNMAX are zeroed; POISON of the area is cleared. -/
def zeroRecords (sec : Section) (d : Device) : Device :=
  let d := (pagesOf (statsBase sec) (8192 * imgCount sec.pkg)).foldl (fun d p =>
    (writePage p 0 65536 0 d).setRes p (setField ((writePage p 0 65536 0 d).res p) 7 1 0)) d
  (sectionUnits sec).foldl (fun d u => d.updUnit u (fun x =>
    { x with ctxs := x.ctxs.map (fun e => (e.1, { e.2 with records := [] })), cu := { x.cu with runmax := 0 } })) d

/-! ### Message channels: sending and closing (R311 to R318) -/

/-- Low bits of a CHANNEL packet's ARG (Table 12.5). -/
def chanArg (src dst : EpName) (slot : Nat) : Nat :=
  dst.core + (dst.ep <<< 4) + (src.core <<< 10) + (src.ep <<< 14) + (slot <<< 20)

/-- Update an endpoint. -/
def Device.updEp (d : Device) (c e : Nat) (f : Ep → Ep) : Device :=
  d.updCore c (fun x => { x with eps := Tab.set x.eps e (f (Tab.getD x.eps e {})) })

def Device.ep (d : Device) (c e : Nat) : Ep := Tab.getD (d.core c).eps e {}

/-- A token ends its message: by TILE_END, or as the eighth (R310). -/
def endsMessage (n : Nat) (t : Token) : Bool := t.tileEnd || 7 ≤ n

/-- The oldest tokens of a slot hold a whole message. -/
def wholeMessage : Nat → List Token → Bool
  | _, [] => false
  | n, t :: rest => endsMessage n t || wholeMessage (n + 1) rest

/-- Credits on their way to a sending endpoint. -/
def creditsComing (d : Device) (c : Nat) (e : Nat) : Nat :=
  ((Tab.getD d.sync.chan c []).map (fun m => match m with
    | .credit s _ _ n => if s.ep = e then n else 0
    | _ => 0)).sum

/-- The sending endpoint's connection is to this receiving endpoint and slot. -/
def Ep.sendsTo (x : Ep) (dst : EpName) (slot : Nat) : Bool := x.role = 2 && x.dest = dst && x.slot = slot

/-- R318: a sending connection is CLOSED, or was closed by its marker when its receiver closed: its ring is dropped, and
every message not delivered whole counts, the current one at its last token.  `coming` credits are on their way.
`quiet`: R407 reports none of them. -/
def Ep.closeSend (coming : Nat) (quiet : Bool) (x : Ep) : Ep :=
  if x.role = 2 then
    let n := (x.sentEnds.drop coming ++ x.ringEnds).count true
    { x with state := .closed, ringHeld := 0, ringEnds := [], sentEnds := [], dropped := satNat 32 x.dropped n
             hadDrops := x.hadDrops || (decide (0 < n) && !quiet) }
  else x

def closeSender (c e : Nat) (quiet : Bool) (d : Device) : Device := d.updEp c e (Ep.closeSend (creditsComing d c e) quiet)

/-- A token of a connection reaches its receiving endpoint. -/
def rxToken (c e slot : Nat) (t : Token) (d : Device) : Device :=
  if (d.ep c e).role = 1 && (d.ep c e).state = .listen then
    d.updEp c e (fun x => { x with rx := Tab.set x.rx slot (Tab.getD x.rx slot [] ++ [t]) })
  else d

/-- A close marker reaches the receiving endpoint (SIDE 0), or the news of a close the sending one (SIDE 1). -/
def rxClose (sec : Section) (src dst : EpName) (slot side : Nat) (d : Device) : Device :=
  if side = 0 then
    d.updEp (sec.phys dst.core) dst.ep (fun x => if x.role = 1 && x.state = .listen then { x with marked := x.marked ++ [slot] } else x)
  else if (d.ep (sec.phys src.core) src.ep).sendsTo dst slot then closeSender (sec.phys src.core) src.ep false d
  else d

/-- The messages on their way to a core on the CHANNEL channel. -/
def setChan (c : Nat) (ms : List ChMsg) (d : Device) : Device :=
  { d with sync := { d.sync with chan := if ms = [] then Tab.erase d.sync.chan c else Tab.set d.sync.chan c ms } }

/-- A message joins those on their way to a core. -/
def chanPost (c : Nat) (msg : ChMsg) (d : Device) : Device := setChan c (Tab.getD d.sync.chan c [] ++ [msg]) d

/-- The node and core that a channel message comes from. -/
def ChMsg.sender : ChMsg → Nat × Nat
  | .open_ s _ _ _ => (s.node, s.core)
  | .grant _ t _ _ => (t.node, t.core)
  | .refuse _ t _ => (t.node, t.core)
  | .token s _ _ _ => (s.node, s.core)
  | .credit _ t _ _ => (t.node, t.core)
  | .close s t _ side => if side = 0 then (s.node, s.core) else (t.node, t.core)

/-- A message that acts as it arrives; the others are taken by their rows. -/
def ChMsg.actsAtOnce : ChMsg → Bool
  | .token _ _ _ _ => true
  | .close _ _ _ _ => true
  | _ => false

/-- The oldest token or close that no earlier message of its sender holds back, and the messages left. -/
def takeArrival : List ChMsg → List ChMsg → Option (ChMsg × List ChMsg)
  | _, [] => none
  | before, m :: rest =>
    if m.actsAtOnce && before.all (fun b => b.sender != m.sender) then some (m, before ++ rest)
    else takeArrival (before ++ [m]) rest

/-- A token or a close of a connection arrives. -/
def arriveMsg (sec : Section) (m : ChMsg) (d : Device) : Device :=
  match m with
  | .token _ t slot tok => rxToken (sec.phys t.core) t.ep slot tok d
  | .close s t slot side => rxClose sec s t slot side d
  | _ => d

/-- R42: tokens and closes arrive in the order in which their sender sent its messages; `n` bounds them. -/
def settleChan (sec : Section) (c : Nat) : Nat → Device → Device
  | 0, d => d
  | n + 1, d =>
    match takeArrival [] (Tab.getD d.sync.chan c []) with
    | some (m, left) => settleChan sec c n (arriveMsg sec m (setChan c left d))
    | none => d

/-- A message reaches a core behind the earlier ones of its sender. -/
def deliverChan (sec : Section) (c : Nat) (msg : ChMsg) (d : Device) : Device :=
  let d := chanPost c msg d
  if msg.actsAtOnce then settleChan sec c (Tab.getD d.sync.chan c []).length d else d

/-- A channel message as a packet of Morwyn Link (R387). -/
def chanPacket (d : Device) (msg : ChMsg) : Packet :=
  match msg with
  | .open_ s t slot gen => setPacket d 2 t.node (chanArg s t slot) 1 gen
  | .grant s t slot n => setPacket d 3 s.node (chanArg t s slot) 1 n
  | .refuse s t slot => setPacket d 4 s.node (chanArg t s slot) 0 0
  | .token s t slot tok =>
    setPacket d 1 t.node (chanArg s t slot) (4 + tok.valid)
      (tok.tag.toNat + ((tok.payload.toNat % 2 ^ (8 * tok.valid)) <<< 32))
  | .credit s t slot n => setPacket d 6 s.node (chanArg t s slot) 2 n
  | .close s t slot side =>
    if side = 0 then setPacket d 5 t.node (chanArg s t slot) 0 0
    else setPacket d 5 s.node (chanArg t s slot + 2 ^ 23) 0 0

/-- A channel message goes to an endpoint of this device, behind the earlier ones of its sender, or of another node. -/
def sendChan (sec : Section) (to_ : EpName) (msg : ChMsg) (d : Device) : Device :=
  if to_.node = ownNode d then deliverChan sec (sec.phys to_.core) msg d else sendPacket (chanPacket d msg) d

/-- R318: a receiving endpoint closes: what it holds is dropped, and every connection to it is told. -/
def closeEndpoint (sec : Section) (c e : Nat) (d : Device) : Device :=
  let x := d.ep c e
  if x.role = 1 && x.state != .closed then
    let me : EpName := ⟨ownNode d, (d.core c).logical, e⟩
    let d := d.updEp c e (fun y => { y with
      state := .closed, rx := [], held := [], granted := [], partway := false, due := false })
    let d := x.granted.foldl (fun d g => sendChan sec g.2 (.close g.2 me g.1 1) d) d
    x.held.foldl (fun d g => sendChan sec g.2.1 (.close g.2.1 me g.1 1) d) d
  else d

/-- R318 at an unload or a core reset: the open requests held at an endpoint that is no receiver, or no more, are told
too. -/
def closeWhole (sec : Section) (c e : Nat) (d : Device) : Device :=
  let d := closeEndpoint sec c e d
  let x := d.ep c e
  let me : EpName := ⟨ownNode d, (d.core c).logical, e⟩
  x.held.foldl (fun d g => sendChan sec g.2.1 (.close g.2.1 me g.1 1) d) (if x.held = [] then d else d.updEp c e (fun y => { y with held := [] }))

/-- Every endpoint of the core closes by R318. -/
def closeCore (c : Nat) (d : Device) : Device :=
  match coreSection d c with
  | some sec => (d.core c).eps.foldl (fun d e => closeWhole sec c e.1 d) d
  | none => d

/-- What is on its way between a section's own endpoints arrives: no core of it takes its messages any more. -/
def settleOwn (sec : Section) (d : Device) : Device :=
  sec.cores.foldl (fun d c =>
    let own := (Tab.getD d.sync.chan c []).filter (·.actsAtOnce)
    let left := (Tab.getD d.sync.chan c []).filter (fun m => !m.actsAtOnce)
    if own = [] then d
    else own.foldl (fun d m => arriveMsg sec m d) (setChan c left d)) d

/-- Every receiving endpoint of a section closes (the end or halt of its command). -/
def closeEndpoints (sec : Section) (d : Device) : Device :=
  settleOwn sec (sec.cores.foldl (fun d c => (d.core c).eps.foldl (fun d e => closeEndpoint sec c e.1 d) d) d)

/-- Every endpoint of a section that is unloaded closes. -/
def closeSection (sec : Section) (d : Device) : Device := settleOwn sec (sec.cores.foldl (fun d c => closeCore c d) d)

/-- The endpoints of a pre-empted section, in its save: the connections of other nodes are told (R318). -/
def closeSaved (v : Save) (d : Device) : Device :=
  v.cores.foldl (fun d l => l.2.eps.foldl (fun d e =>
    let me : EpName := ⟨ownNode d, l.1, e.1⟩
    let tell := fun (slot : Nat) (src : EpName) (d : Device) =>
      if src.node = ownNode d then d else sendPacket (chanPacket d (.close src me slot 1)) d
    e.2.held.foldl (fun d g => tell g.1 g.2.1 d) (e.2.granted.foldl (fun d g => tell g.1 g.2 d) d)) d) d

/-- R316: the QUEUE_ID of a sending connection. -/
def chanQueueId (c e : Nat) : Nat := ((unitId (80 * c) + (15 <<< 8)) <<< 16) + e

/-- Sending endpoints of a section that dropped messages, ascending (R319). -/
def droppedQueues (d : Device) (sec : Section) : List Nat :=
  ((List.range 16).filter sec.cores.contains).flatMap (fun c =>
    ((d.core c).eps.filter (fun e => e.2.hadDrops)).map (fun e => chanQueueId c e.1))

/-! ### Replies that list queues or places -/

/-- COUNT, a reserved u16 and up to 64 QUEUE_IDs (log entry 14). -/
def replyQueues (m : Nat) (ids : List Nat) (d : Device) : Device :=
  let ids := ids.take 64
  ids.zipIdx.foldl (fun d e => reply m (4 + 4 * e.2) 4 e.1 d) (reply m 0 4 ids.length d)

/-! ### The stop of a section (R262, R354, R560) -/

/-- R238, R229: an access of a section to an invalid or poisoned page: the code and the reply; the page of a store
or load at `addr` from queue `q` (16 to 23 the store queues). -/
def accessFault (d : Device) (addr : Nat) : Option (BitVec 8) :=
  let e := d.res (addr / 65536)
  if !resValid e then some 0x13 else if resPoison e then some (classCode e) else none

/-- R229: the reply area holds the logical address. -/
def replyAddr (m addr : Nat) (d : Device) : Device := reply m 0 8 addr d

/-- The reply of a command that meets such an access by a queue (log entry 14). -/
def replyAccess (m addr q : Nat) (d : Device) : Device := reply m 8 4 q (replyAddr m addr d)

/-- The comparison is over. -/
def endCompare (d : Device) : Device :=
  { d with training := { d.training with phase := 0, cmpNodes := [], cmpLeaves := [], cmpWait := [], cmpSet := [] } }

/-- A command that ends while it compares leaves no comparison behind (Table 10.7). -/
def endComparing (m : Nat) (d : Device) : Device :=
  match (d.mb m).job with | .comparing _ => endCompare d | _ => d

/-- A stream stops: its load entries are dropped, its accepted store entries are still to be written (R262, R265). -/
def stopSlot (s : Slot) : Slot := { s with active := false, pending := if sdStore s.words then s.pending else 0 }

/-- The streams of a core stop. -/
def stopSlots (x : Core) : Core := { x with slots := x.slots.map (fun e => (e.1, stopSlot e.2)), loadQ := [] }

/-- A halted core takes no further entry; its streams stop (R45, R427). -/
def haltCore (c : Nat) (d : Device) : Device :=
  d.updCore c (fun x => stopSlots { x with seq := { x.seq with state := .halted } })

/-- Meridian sends halt to cores that have not halted, by their quadrant supervisors (R37, R45, R88). -/
def sendHalts (cores : List Nat) (d : Device) : Device :=
  cores.foldl (fun d c => if (d.core c).seq.state = .halted || (d.ctrl c).contains .halt then d else pushCtrl c [.halt] d) d

/-- Every run command ACCEPTED for a section that becomes halted ends FAILED (R559). -/
def failWaiting (h : Nat) (code : BitVec 8) (d : Device) : Device :=
  (List.range 16).foldl (fun d m =>
    if (d.mb m).state = .accepted && runNames (d.mb m) h then endFailed m code d else d) d

/-- The sections of a command's stages are free for other commands. -/
def releaseStages (m : Nat) (d : Device) : Device :=
  { d with sections := d.sections.map (fun s => if s.mbx = some m then { s with mbx := none } else s) }

/-- VCORE and VSRAM of a core are on (R535, R537, R547). -/
def corePowered (d : Device) (c : Nat) : Bool :=
  d.boot.powered && d.boot.firmware && !d.power.tripped && !d.power.quadrantOff.getLsbD (c / 4)

/-- What a core reset leaves of a unit: the "After core reset" values, no context, zeroed memory in an MU and undefined
banks and buffer in a CU (R99, R219, R136). -/
def resetUnit (u : Nat) (x : Unit) : Unit :=
  { epoch := x.epoch + 1, mu := { initLeft := if isCu u then 0 else 8192 } }

/-- The spill regions of a core's queues, wherever they lie, hold nothing more (R99). -/
def emptySpills (c : Nat) (d : Device) : Device :=
  ((coreSection d c).elim [] (fun sec => sec.spills.filter (fun r => r.unit / 80 = c))).foldl (fun d r =>
    d.updUnit r.mu (fun x =>
      let s := Tab.getD x.mu.spills r.desc {}
      { x with mu := { x.mu with spills := Tab.set x.mu.spills r.desc { s with head := 0, tail := 0, count := 0, failed := false } } })) d

/-- What a core reset leaves of a core: its tables are empty and its counters 0; the translation cache stays (R99, R260). -/
def resetCoreState (c : Nat) (d : Device) : Device :=
  if !corePowered d c then d
  else
    let d := emptySpills c d
    let d := (coreUnits c).foldl (fun d u => d.updUnit u (resetUnit u)) d
    let d := (d.updCore c (fun x => { section_ := x.section_, logical := x.logical, tc := x.tc })).setCtrl c []
    { d with sync := { d.sync with chan := Tab.erase d.sync.chan c, releases := Tab.erase d.sync.releases c } }

/-- An accepted store entry that no command of its section is left for: written, or dropped with a record (R560). -/
def lastStore (c q : Nat) (d : Device) (e : StoreEntry) : Device :=
  if !(Tab.getD (d.core c).storeQ q []).contains e then d
  else match accessFault d e.addr with
  | none => countWritten c e (dropStore c q e (writeEntry e.addr e.data d))
  | some code => log 0x23 c (e.addr + (bit01 (code != 0x13) <<< 64)) (dropStore c q e d)

/-- Every accepted store entry of a core of which no command is left. -/
def lastStores (c : Nat) (d : Device) : Device :=
  (d.core c).storeQ.foldl (fun d q => q.2.foldl (lastStore c q.1) d) d

/-- The core reset of CORE_OFFLINE, at a core that no running section holds: accepted stores finish, endpoints close, edge
handshakes are released, and the core's state goes (R99, R260). -/
def resetIdleCore (c : Nat) (d : Device) : Device :=
  if !corePowered d c then d else resetCoreState c (releaseEdges c (lastStores c (closeCore c d)))

/-- R241: the change of pages is complete only when every translation cache has acknowledged. -/
def endChange (m : Nat) (ps : List Nat) (d : Device) : Device :=
  if ps.any (fun p => d.tiers.invals.contains p) then d.updMb m (fun x => { x with job := .changing ps }) else endDone m d

/-- PREEMPT and CORE_OFFLINE end once no section that they wait for runs or is being pre-empted (R429, R432,
Table 11.6), CANCEL once its target has ended. -/
def settleJobs (d : Device) : Device :=
  (List.range 16).foldl (fun d m =>
    match (d.mb m).job with
    | .preempting h => if (d.section? h).any (fun s => s.state = .preempting) then d else endDone m d
    | .offline c =>
      if (coreSection d c).any (fun s => s.state = .running || s.state = .preempting) then d
      else endDone m (resetIdleCore c d)
    | .cancelling t => if (d.mb t).job.stops then d else endDone m d
    | _ => d) d

/-- The section's cores are being halted for its command (R427). -/
def stopsNow (d : Device) (sec : Section) : Bool :=
  sec.mbx.any (fun m => match (d.mb m).job with | .stopping h _ _ => h = sec.handle | _ => false)

/-- The section is halted (R559); its command, if it is not final, ends FAILED with `code`. -/
def haltSection (h : Nat) (code : BitVec 8) (d : Device) : Device :=
  match d.section? h with
  | none => d
  | some sec =>
    let d := sendHalts sec.cores d
    let d := if sec.state = .running || sec.state = .preempting || stopsNow d sec then writeRecords sec sec.cores d else d
    let d := match liveMbx d sec with | some m => releaseStages m (endFailed m code (endComparing m d)) | none => d
    let d := closeEndpoints sec d
    settleJobs (lostReturns h (failWaiting h 0x02 (d.updSection h (fun s => { s with state := .halted, mbx := none }))))

/-- R229: an access of a section's command to a poisoned page: the reply holds the logical address, and the section
halts with the code of the page's CLASS. -/
def pageHalt (h : Nat) (e : BitVec 8 × Nat) (d : Device) : Device :=
  let d := match (d.section? h).bind (liveMbx d) with | some m => replyAddr m e.2 d | none => d
  haltSection h e.1 d

/-- The stores accepted by one core complete; an entry that meets an invalid or poisoned page fails the section's
command, or is dropped with a record when none is left (R560). -/
def flushEntry (c q : Nat) (e : StoreEntry) (d : Device) : Device :=
  match (accessFault d e.addr), (coreSection d c).bind (fun sec => (liveMbx d sec).map (fun m => (sec.handle, m))) with
  | some code, some (h, m) => haltSection h code (replyAccess m e.addr (16 + q) (dropStore c q e d))
  | _, _ => lastStore c q d e

/-- No entry of the core's streams is left to send or to write. -/
def noPending (c : Nat) (d : Device) : Device :=
  if (d.core c).slots.all (fun e => e.2.pending = 0) then d
  else d.updCore c (fun x => { x with slots := x.slots.map (fun e => (e.1, { e.2 with pending := 0 })) })

def flushCore (c : Nat) (d : Device) : Device :=
  noPending c ((d.core c).storeQ.foldl (fun d q => q.2.foldl (fun d e => flushEntry c q.1 e d) d) d)

/-- Every store queue of a list of cores. -/
def flushStores (cores : List Nat) (d : Device) : Device := cores.foldl (fun d c => flushCore c d) d

/-- Items 1 and 2 of R262: streams stop, load entries not yet sent are dropped, accepted stores complete. -/
def stopStreams (cores : List Nat) (d : Device) : Device :=
  flushStores cores (cores.foldl (fun d c => d.updCore c stopSlots) d)

/-! ### Uncorrected errors (R217, R229) -/

/-- R217: the first uncorrected error of an MU is latched. -/
def latchEcc (word : Nat) (cls scrub : Bool) (m : Mu) : Mu :=
  if m.fatalValid then { m with eccFatal := true }
  else { m with eccFatal := true, fatalWord := word, fatalClass := cls, fatalScrub := scrub, fatalValid := true }

def eccCode (cls : Bool) : BitVec 8 := if cls then 0x40 else 0x41

/-- R217: an uncorrected error found in an MU while a section runs there. -/
def muError (u word : Nat) (cls scrub : Bool) (d : Device) : Device :=
  let d := d.updUnit u (fun x => { x with mu := latchEcc word cls scrub x.mu })
  let m := (coreSection d (u / 80)).bind (liveMbx d)
  let d := logEnd 0x20 (eccCode cls) (unitId u) m (word + (bit01 cls <<< 64) + (bit01 scrub <<< 72)) d
  match coreSection d (u / 80) with
  | some sec =>
    let d := match liveMbx d sec with
      | some m => reply m 0 8 (unitId u + (bit01 cls <<< 16) + (word <<< 32)) d
      | none => d
    haltSection sec.handle (eccCode cls) d
  | none => d

/-- R229, R230: an uncorrected error found in a tier: POISON, the record (type 0x0020 of Table 15.9, SCRUB when the
patrol scrub found it), and the stop of the section.  `who`: the mailbox of a command that reads for itself (R498). -/
def tierError (who h : Option Nat) (scrub : Bool) (addr q : Nat) (d : Device) : Device :=
  let e := d.res (addr / 65536)
  let d := d.setRes (addr / 65536) (setField e 7 1 1)
  let m := ((h.bind d.section?).bind (liveMbx d)).orElse (fun _ => who)
  let d := logEnd 0x20 (classCode e) 0 m (addr + (bit01 (resClass e) <<< 64) + (bit01 scrub <<< 72)) d
  match h.bind d.section? with
  | some sec =>
    let d := match liveMbx d sec with | some m => replyAccess m addr q d | none => d
    haltSection sec.handle (classCode e) d
  | none => d

/-- Count what a read of a tier finds (R228, R233). -/
def countTierRead (p : Nat) (err : Ecc) (d : Device) : Device :=
  let far := resTier (d.res p) = 2
  match err with
  | .corrected =>
    if far then { d with tiers := { d.tiers with ftCorr := satAdd d.tiers.ftCorr 1 } }
    else { d with tiers := { d.tiers with ntCorr := satAdd d.tiers.ntCorr 1 } }
  | .transient => if far then { d with tiers := { d.tiers with ftTransient := satAdd d.tiers.ftTransient 1 } } else d
  | _ => d

/-- An uncorrected error that a read of the bytes from `a` on meets: its entry holds data and its page is not
poisoned yet. -/
def tierMeets (err : TierErr) (a n : Nat) (d : Device) : Bool :=
  match err with
  | none => false
  | some (x, _) =>
    let r := d.res (x.toNat / 65536)
    a ≤ x.toNat && decide (x.toNat < a + n) && resValid r && resTier r != 0 && !resPoison r

/-- What the read of the bytes from `a` on by the command of `who` finds (R228, R229, R233): a count, or POISON and the
record; the command then meets the poisoned page. -/
def tierFound (who : Option Nat) (err : TierErr) (a n : Nat) (d : Device) : Device :=
  match err with
  | none => d
  | some (x, e) =>
    if tierMeets err a n d then
      (if e = .uncorrected then tierError who none false x.toNat 0 d else countTierRead (x.toNat / 65536) e d)
    else d

/-- The entry of a write's `n` bytes at `a` that `err` names, where the write covers only a part of it. -/
def partEntry (err : TierErr) (a n : Nat) : Option Nat :=
  err.bind (fun x =>
    let e := x.1.toNat / 512 * 512
    if e < a + n && a < e + 512 && (e < a || a + n < e + 512) then some e else none)

/-- What the read of an entry that a write covers only in part finds (R228, R229, R233, R436). -/
def writeFound (who : Option Nat) (err : TierErr) (a n : Nat) (d : Device) : Device :=
  match partEntry err a n with
  | some e => tierFound who err e 512 d
  | none => d

/-- R238, R229: a stream meets an invalid or a poisoned page. -/
def streamFault (h addr q : Nat) (code : BitVec 8) (d : Device) : Device :=
  let d := match (d.section? h).bind (liveMbx d) with | some m => replyAccess m addr q d | none => d
  haltSection h code d

/-! ### Unload (R91, R294) -/

/-- Tokens of a context in lanes and spill regions, and waiting at Order 3 or on the way. -/
def unitTokens (d : Device) (u : Nat) (ctxs : List Nat) : Nat :=
  let x := d.unit u
  let inLanes := (x.lanes.filter (fun e => ctxs.contains (e.1 % 4))).map (fun e => e.2.length)
  let held := (x.latch ++ x.out).filter (fun e => ctxs.contains e.2.ctx)
  inLanes.sum + held.length

/-- Spill entries of a section's queues in a list of cores. -/
def spillCount (d : Device) (sec : Section) (core : Nat) : Nat :=
  ((sec.spills.filter (fun r => r.unit / 80 = core)).map (fun r =>
    (Tab.getD (d.unit r.mu).mu.spills r.desc {}).count)).sum

/-- A unit without contexts and tokens, as a released core leaves it; memories and counters stay. -/
def clearUnit (x : Unit) : Unit :=
  { x with ctxs := [], active := 0, idle := true, switchReq := none, reload := none, lanes := [], held := 0, fenced := 0,
           out := [], latch := [], flight := [], mu := { x.mu with scrubBad := false } }

/-- A core that no section holds; its counters stay (R374, R552). -/
def freeCore (x : Core) : Core :=
  { x with section_ := none, logical := 0, seq := { retired := x.seq.retired }, cfg := {}, lens := [], profile := none,
           fromPackage := false, quiesce := 0, regionWait := 0, slots := keepBytes x.slots [], streamTab := [], loadQ := [], storeQ := [],
           tapPatterns := [], tapPos := [], fab := { x.fab with idleSteps := 0 } }

/-- A section's cores, units, spill regions, frame stores and report pages are released (R294). -/
def releaseCores (sec : Section) (d : Device) : Device :=
  let d := releaseSpills sec d
  let d := sec.cores.foldl (fun d c =>
    let d := (coreUnits c).foldl (fun d u => d.updUnit u clearUnit) d
    let d := (d.updCore c freeCore).setCtrl c []
    { d with sync := { d.sync with chan := Tab.erase d.sync.chan c, releases := Tab.erase d.sync.releases c } }) d
  freePages (storePagesOf sec) d

/-- R91: the tokens that a section leaves behind are counted in its cores. -/
def countStaleTokens (sec : Section) (d : Device) : Device :=
  sec.cores.foldl (fun d c =>
    let n := ((coreUnits c).map (fun u => unitTokens d u [0, 1, 2, 3])).sum + spillCount d sec c
    d.updCore c (fun x => { x with fab := { x.fab with staleTokens := satNat 48 x.fab.staleTokens n } })) d

def staleOf (d : Device) (sec : Section) : Nat :=
  (sec.cores.map (fun c => ((coreUnits c).map (fun u => unitTokens d u [0, 1, 2, 3])).sum + spillCount d sec c)).sum

/-- The set is dissolved or left (R391, R405, R407). -/
def leaveSet (st : BitVec 3) (d : Device) : Device :=
  { d with set := { d.set with state := st, setId := if st = 0 then 0 else d.set.setId, epochReq := 0, dimsActive := d.set.dims, heard := [], mismatch := false,
                               helloSent := false, beats := [], digests := [], pieces := [] } }

/-- The barrier messages and counts of a section leave the supervisors and the device root; `all`: with the record
of the rounds sent to the parent node. -/
def clearBarriers (all : Bool) (h : Nat) (d : Device) : Device :=
  { d with sync := { d.sync with
      counts := d.sync.counts.filter (fun e => e.1 / 2 ^ 9 % 2 ^ 32 != h || (!all && e.1 / 2 ^ 41 = 5))
      arrivals := d.sync.arrivals.map (fun e => (e.1, e.2.filter (fun m => m.handle != h)))
      releases := d.sync.releases.map (fun e => (e.1, e.2.filter (fun m => m.handle != h))) } }

/-- R294: a section is unloaded; a pre-empted one from its save. -/
def unloadSection (h : Nat) (d : Device) : Device :=
  match d.section? h with
  | none => d
  | some sec =>
    let held := sec.state != .preempted
    let d := if held then countStaleTokens sec (closeSection sec (stopStreams sec.cores d))
      else match sec.save with | some v => closeSaved v d | none => d
    let d := if held then releaseCores sec d else d
    let d := freePages (segmentPages sec) (clearGrad sec d)
    let d := clearBarriers true h (if hasLinks sec.pkg && d.set.handle = h then leaveSet 0 d else d)
    d.dropSection h

end Sys2Proof.Machine
end

