-- ==== Sys2Proof/Machine/Fabric.lean ====
section
/-!
DEFINITION. Machine/Fabric.lean: how a unit starts, advances and retires operation words, the fabric-control words,
the harness network, spill, contexts, the progress watchdog, the packet network and the hitches (chapter 2, R40).
-/
namespace Sys2Proof.Machine

/-! ### Starting words (R72, R554) -/

/-- How a word takes its tokens and forms its effect, as far as it can now. -/
abbrev Advance := Device → Nat → Unit → Flight → Unit × Flight

/-- The oldest started word of this opcode that can go on now: its index, and the unit and the word after it. -/
def goOn (op : Nat) (adv : Advance) (d : Device) (u : Nat) (x : Unit) : List Nat → Option (Nat × Unit × Flight)
  | [] => none
  | i :: rest =>
    match x.flight[i]? with
    | some f =>
      if wOp f.word = op && !f.done then
        let r := adv d u x f
        if r.2 = f then goOn op adv d u x rest else some (i, r.1, r.2)
      else goOn op adv d u x rest
    | none => none

/-- One command of a word: it goes on with the oldest started word of this opcode that can, or starts the next word
when it is one and may start (log entry 9). -/
def runWord (op : Nat) (can : Core → Unit → BitVec 128 → Bool) (init : Core → Unit → Flight → Flight) (adv : Advance)
    (u : Nat) (d : Device) : Device :=
  let x := d.unit u
  match goOn op adv d u x (List.range x.flight.length) with
  | some (i, x, f) => settleFlight u i x f d
  | none =>
    let w := nextWord x
    let c := d.core (u / 80)
    if canIssue x op && can c x w then
      let occ := bitsOf (Ram.read x.ctx.records x.ctx.pos).toNat 96 32
      let f := init c x { pos := x.ctx.pos, word := w, ctx := x.active, occ := occ }
      let x := nextPos { x with flight := x.flight ++ [f] }
      let r := adv d u x f
      settleFlight u (x.flight.length - 1) r.1 r.2 d
    else d

def noInit (_ : Core) (_ : Unit) (f : Flight) : Flight := f

/-- R554: starts only once every earlier word has retired. -/
def startAlone (_ : Core) (x : Unit) (_ : BitVec 128) : Bool := x.flight = []

/-- Take the oldest token of a lane. -/
def takeLane (x : Unit) (port ctx : Nat) : Option (Token × Unit) :=
  match x.lane port ctx with
  | t :: rest => some (t, { x with lanes := Tab.set x.lanes (4 * port + ctx) rest })
  | [] => none

/-- Take up to `n` tokens of a lane. -/
def takeMany (port ctx : Nat) : Nat → Unit → List Token × Unit
  | 0, x => ([], x)
  | n + 1, x =>
    match takeLane x port ctx with
    | some (t, x) => let (ts, x) := takeMany port ctx n x; (t :: ts, x)
    | none => ([], x)

/-! ### Fabric-control words (Table 2.10) -/

/-- A word that starts and retires in one step. -/
def retireNow (u : Nat) (pos : Nat) (x : Unit) (d : Device) : Device :=
  progressed (u / 80) true (d.setUnit u (bumpUnit u x.active pos 0 0 0 x))

/-- NOP. -/
def wordNop (u : Nat) (d : Device) : Device :=
  let x := d.unit u
  if canIssue x 0 then retireNow u x.ctx.pos (nextPos x) d else d

def execNop (u : UnitRef) (s : State) : Host.Outcome State Fault Refusal := .next (s.upd (wordNop u.key))

/-- MOVE takes a token and sends it on, one at a time; it keeps TILE_END, whatever TILE_END_LAST is (R58; log entry 81,
DEDUCED). -/
def advMove (_ : Device) (_ : Nat) (x : Unit) (f : Flight) : Unit × Flight :=
  if f.outbox != [] || f.waits != [] then (x, f)
  else
    match takeLane x (wSrcA f.word) f.ctx with
    | some (t, x) =>
      (x, { f with takenA := f.takenA + 1, outbox := [t.withCtx f.ctx], done := imm f.word 0 16 ≤ f.takenA + 1 })
    | none => (x, f)

def execMove (u : UnitRef) (s : State) : Host.Outcome State Fault Refusal :=
  .next (s.upd (runWord 1 startAlone noInit advMove u.key))

/-- LOOP_BEGIN (R125). -/
def wordLoopBegin (u : Nat) (d : Device) : Device :=
  let x := d.unit u
  if canIssue x 2 then
    let w := nextWord x
    let trips := imm w 0 32
    let len := imm w 44 4
    let eff := tripsOf (d.core (u / 80)) len trips
    let l : Loop := { first := x.ctx.pos, last := imm w 32 9, trips := eff, trip := 0, lenReg := len }
    let pos := x.ctx.pos
    let x := x.updCtx x.active (fun c =>
      if eff = 0 then { c with pos := (l.last + 1) % 512 }
      else { c with pos := (c.pos + 1) % 512, loops := c.loops ++ [l] })
    let x := if isCu u then { x with cu := { x.cu with skippedTrips := satNat 32 x.cu.skippedTrips (trips - eff) } } else x
    retireNow u pos x d
  else d

def execLoopBegin (u : UnitRef) (s : State) : Host.Outcome State Fault Refusal := .next (s.upd (wordLoopBegin u.key))

/-- LOOP_END. -/
def wordLoopEnd (u : Nat) (d : Device) : Device :=
  let x := d.unit u
  if canIssue x 3 then
    let pos := x.ctx.pos
    let x := x.updCtx x.active (fun c =>
      match c.loops.getLast? with
      | some l =>
        if l.trip + 1 < l.trips then
          { c with pos := (l.first + 1) % 512, loops := c.loops.dropLast ++ [{ l with trip := l.trip + 1 }] }
        else { c with pos := (c.pos + 1) % 512, loops := c.loops.dropLast }
      | none => { c with pos := (c.pos + 1) % 512 })
    retireNow u pos x d
  else d

def execLoopEnd (u : UnitRef) (s : State) : Host.Outcome State Fault Refusal := .next (s.upd (wordLoopEnd u.key))

/-- A mask of payload bytes 0 to 255 (R58, R80). -/
def maskOfToken (t : Token) : BitVec 2048 := t.payload.setWidth 2048

/-- PRED_LOAD. -/
def advPredLoad (_ : Device) (_ : Nat) (x : Unit) (f : Flight) : Unit × Flight :=
  match takeLane x (wSrcA f.word) f.ctx with
  | some (t, x) =>
    (x.updCtx f.ctx (fun c => { c with pred := Ram.write c.pred (imm f.word 0 2) (maskOfToken t) }), { f with done := true })
  | none => (x, f)

def execPredLoad (u : UnitRef) (s : State) : Host.Outcome State Fault Refusal :=
  .next (s.upd (runWord 4 startAlone noInit advPredLoad u.key))

/-- SELECT's payload: bit `b` of A or of B by the mask bit that governs it (log entry 16). -/
def selectPayload (mask : Nat → Bool) (a b : BitVec 4096) : BitVec 4096 :=
  let m := (List.range 4096).foldr (fun i acc => 2 * acc + bit01 (mask (Config.selectBit i))) 0
  (a &&& BitVec.ofNat 4096 m) ||| (b &&& ~~~ (BitVec.ofNat 4096 m))

/-- The mask of a word, whether or not it is PREDICATED (SELECT). -/
def slotMask (c : Ctx) (w : BitVec 128) (k : Nat) : Bool := (Ram.read c.pred (wSlot w)).getLsbD k != wInvert w

/-- SELECT takes one token of each operand; its token is of KIND data, with the larger VALID_BYTES of the two
(log entry 16, DESIGN CHOICE). -/
def advSelect (_ : Device) (_ : Nat) (x : Unit) (f : Flight) : Unit × Flight :=
  match x.lane (wSrcA f.word) f.ctx, x.lane (wSrcB f.word) f.ctx with
  | a :: ra, b :: rb =>
    let v := max a.valid b.valid
    let t : Token := ⟨selectPayload (slotMask (Tab.getD x.ctxs f.ctx {}) f.word) a.payload b.payload,
                      mkTag f.ctx (wTileEnd f.word) v 0 0⟩
    let lanes := Tab.set (Tab.set x.lanes (4 * wSrcA f.word + f.ctx) ra) (4 * wSrcB f.word + f.ctx) rb
    ({ x with lanes := lanes }, { f with outbox := [t], done := true })
  | _, _ => (x, f)

def execSelect (u : UnitRef) (s : State) : Host.Outcome State Fault Refusal :=
  .next (s.upd (runWord 5 startAlone noInit advSelect u.key))

/-- YIELD retires once every earlier word has, and the unit goes idle (R117). -/
def wordYield (u : Nat) (d : Device) : Device :=
  let x := d.unit u
  if canIssue x 6 && x.flight = [] then
    let pos := x.ctx.pos
    let x := (nextPos x).updCtx x.active (fun c => { c with yielded := true })
    retireNow u pos { x with idle := true } d
  else d

def execYield (u : UnitRef) (s : State) : Host.Outcome State Fault Refusal := .next (s.upd (wordYield u.key))

/-- FENCE: every token this context has sent has been acknowledged. -/
def advFence (_ : Device) (_ : Nat) (x : Unit) (f : Flight) : Unit × Flight :=
  (x, { f with done := x.out.all (fun e => e.2.ctx != f.ctx) })

def execFence (u : UnitRef) (s : State) : Host.Outcome State Fault Refusal :=
  .next (s.upd (runWord 7 startAlone noInit advFence u.key))

/-- DISCARD takes tokens and drops them. -/
def advDiscard (_ : Device) (_ : Nat) (x : Unit) (f : Flight) : Unit × Flight :=
  let (ts, x) := takeMany (wSrcA f.word) f.ctx (imm f.word 0 16 - f.takenA) x
  (x, { f with takenA := f.takenA + ts.length, done := imm f.word 0 16 ≤ f.takenA + ts.length })

def execDiscard (u : UnitRef) (s : State) : Host.Outcome State Fault Refusal :=
  .next (s.upd (runWord 8 startAlone noInit advDiscard u.key))

/-- R92: a FENCED border link completes no handshake. -/
def linkFenced (d : Device) (u dir : Nat) (edge : Bool) : Bool :=
  bitOf (d.unit u).fenced (linkKey dir edge)
    || (match farNode u dir edge with
        | some v => bitOf (d.unit v).fenced (linkKey (opposite dir) edge)
        | none => false)

/-- HARNESS_LINK_TOKEN (R61, R62): the token due crosses to the node at the far end. -/
def harnessLink (u dir : Nat) (edge : Bool) (d : Device) : Device :=
  let x := d.unit u
  match farNode u dir edge, dueSource x dir edge with
  | some v, some (src, t) =>
    if linkFenced d u dir edge || (Tab.find (d.unit v).latch (linkKey (opposite dir) edge)).isSome then d
    else
      let d := dropSource u src (d.setUnit u (stepLink (linkSlot dir edge) x))
      let d := d.updUnit v (fun y => { y with latch := Tab.set y.latch (linkKey (opposite dir) edge) t })
      if edge then resetIdle (u / 80) d else d
  | _, _ => d

def execHarnessLinkToken (u : UnitRef) (dir : Fin 4) (edge : Bool) (s : State) : Host.Outcome State Fault Refusal :=
  .next (s.upd (harnessLink u.key dir.val edge))

/-! ### Stream taps (Table 7.5) -/

/-- Node (row, column) and link of a tap. -/
def tapNode (tap : Nat) : Nat × Nat × Nat :=
  if tap < 8 then (tap, 0, 0) else if tap < 16 then (tap - 8, 9, 1) else if tap < 26 then (0, tap - 16, 2) else (7, tap - 26, 3)

def tapUnit (c tap : Nat) : Nat := let n := tapNode tap; 80 * c + 10 * n.1 + n.2.1

/-- The token that the node presents at a tap. -/
def tapToken (d : Device) (c tap : Nat) : Option (Nat × Token) := dueSource (d.unit (tapUnit c tap)) (tapNode tap).2.2 false

/-- Order 4 at the tap of the token presented there. -/
def tapTake (c tap src : Nat) (d : Device) : Device :=
  let u := tapUnit c tap
  dropSource u src (d.updUnit u (stepLink (tapNode tap).2.2))

/-- The stream-side pattern entry of a tap in the context active at its node (R247). -/
def tapPatternAt (x : Core) (tap ctx e : Nat) : BitVec 16 := Ram.read x.tapPatterns (256 * tap + 64 * ctx + e)

/-- The channel due from the stream engine at a tap. -/
def tapDue (d : Device) (c tap : Nat) : Option (Nat × Nat) :=
  let ctx := (d.unit (tapUnit c tap)).active
  let x := d.core c
  let e := tapPatternAt x tap ctx (Tab.getD x.tapPos (4 * tap + ctx) (0, 0)).1
  if e.getLsbD 15 then some (bitsOf e.toNat 0 12, ctx) else none

/-- The stream engine presents a token at a tap: it enters the node when the channel is due and the latch is free. -/
def tapReady (d : Device) (c tap chan ctx : Nat) : Bool :=
  tapDue d c tap = some (chan, ctx) && (Tab.find (d.unit (tapUnit c tap)).latch (tapNode tap).2.2).isNone

def tapSend (c tap : Nat) (t : Token) (d : Device) : Device :=
  let u := tapUnit c tap
  let ctx := (d.unit u).active
  let d := d.updCore c (fun x =>
    let p := stepPattern (tapPatternAt x tap ctx) (Tab.getD x.tapPos (4 * tap + ctx) (0, 0))
    { x with tapPos := Tab.set x.tapPos (4 * tap + ctx) p })
  d.updUnit u (fun x => { x with latch := Tab.set x.latch (tapNode tap).2.2 t })

/-! ### Lanes and spill (R53, R84 to R86) -/

/-- The spill region of a queue. -/
def spillOf (d : Device) (u port lane : Nat) : Option SpillRegion :=
  (coreSection d (u / 80)).bind (fun sec =>
    sec.spills.find? (fun r => r.unit = u && r.port = port && r.lane = lane))

def spillDesc (d : Device) (r : SpillRegion) : SpillDesc := Tab.getD (d.unit r.mu).mu.spills r.desc {}

def spillHeld (d : Device) (u port lane : Nat) : Nat :=
  match spillOf d u port lane with | some r => (spillDesc d r).count | none => 0

/-- Write the words of a region in an MU. -/
def Mu.poke (m : Mu) (word n v : Nat) : Mu := { m with ram := Ram.blit m.ram word n v, writeBack := m.writeBack.filter (fun w => !(word ≤ w && decide (w < word + n))) }

/-- A token in the 17 words at TAIL of a spill region (R83). -/
def putSpill (r : SpillRegion) (t : Token) (d : Device) : Device :=
  d.updUnit r.mu (fun x =>
    let s := Tab.getD x.mu.spills r.desc {}
    let m := x.mu.poke (s.base + 17 * s.tail) 17 (t.payload.toNat + (t.tag.toNat <<< 4096))
    let s' := { s with tail := (s.tail + 1) % max 1 s.cap, count := s.count + 1 }
    { x with mu := { m with spills := Tab.set m.spills r.desc s', bankSteps := satNat 48 m.bankSteps 2 } })

/-- The oldest token of a spill region goes to the end of its queue's lane. -/
def unspill (r : SpillRegion) (d : Device) : Device :=
  let s := spillDesc d r
  let v := Ram.slice (d.unit r.mu).mu.ram (s.base + 17 * s.head) 17
  let t : Token := ⟨BitVec.ofNat 4096 v, BitVec.ofNat 32 (v >>> 4096)⟩
  let d := d.updUnit r.mu (fun y => { y with mu := { y.mu with
    spills := Tab.set y.mu.spills r.desc { s with head := (s.head + 1) % max 1 s.cap, count := s.count - 1 } } })
  d.updUnit r.unit (fun y => { y with lanes := Tab.set y.lanes (4 * r.port + r.lane) (y.lane r.port r.lane ++ [t]) })

/-- A token is written to its spill region, and counts (R83, R221); the peak is that of the core's own queues, wherever
their regions lie (log entry 85, DEDUCED). -/
def spillWrite (u : Nat) (r : SpillRegion) (t : Token) (d : Device) : Device :=
  let d := putSpill r t d
  let held := (spillDesc d r).count
  let d := d.updCore (u / 80) (fun x => { x with fab := { x.fab with
    spillTokens := satNat 48 x.fab.spillTokens 1, spillPeak := max x.fab.spillPeak (min held 65535) } })
  setDegraded (coreMbx d (u / 80)) d

/-- TOKEN_TRANSFER (R51, R53): the token at a source of the node, routed to an input port of the unit, is accepted
into its lane or its spill region; else the handshake waits.  The fence of R53 is that of the border links, and no lane
is fenced by itself (log entry 64, DEDUCED).  A token that waits holds back only its own source (log entry 80, DEDUCED), and
one that is spilled to another core does not leave the core by an edge link (log entry 83, DEDUCED). -/
def tokenTransfer (u src : Nat) (d : Device) : Device :=
  let x := d.unit u
  match sourceToken x src with
  | none => d
  | some t =>
    match routeOf x t with
    | none => d
    | some r =>
      if 4 ≤ r || bitOf x.held t.ctx then d
      else
        let n := (x.lane r t.ctx).length
        if n < x.laneCap r t.ctx && spillHeld d u r t.ctx = 0 then
          dropSource u src (d.setUnit u { x with moved := true, lanes := Tab.set x.lanes (4 * r + t.ctx) (x.lane r t.ctx ++ [t]) })
        else
          match spillOf d u r t.ctx with
          | some sp => if (spillDesc d sp).count < sp.cap then dropSource u src ((spillWrite u sp t d).updUnit u (fun y => { y with moved := true })) else d
          | none => d

def execTokenTransfer (u : UnitRef) (src : Fin 12) (s : State) : Host.Outcome State Fault Refusal :=
  .next (s.upd (tokenTransfer u.key src.val))

/-- Count a corrected error of an MU and remember the word to write back (R216). -/
def muCorrected (u word : Nat) (cls : Bool) (d : Device) : Device :=
  let d := d.updUnit u (fun x => { x with mu := { x.mu with
    corrAct := satNat 48 x.mu.corrAct (bit01 (!cls)), corrWgt := satNat 48 x.mu.corrWgt (bit01 cls)
    writeBack := if x.mu.writeBack.contains word then x.mu.writeBack else x.mu.writeBack ++ [word] } })
  let h := Tab.getD d.mgmt.hourCorr u (0, 0)
  { d with mgmt := { d.mgmt with hourCorr := Tab.set d.mgmt.hourCorr u (h.1 + bit01 (!cls), h.2 + bit01 cls) } }

/-- Class of the segment of a word (R214). -/
def Mu.weightWord (m : Mu) (word : Nat) : Bool := m.classMap.getLsbD (word / 2048)

/-- SPILL_TOKEN_RETURN (R84): the oldest spilled token moves into a lane slot that is free; an error lies in
word `at_` of its entry. -/
def spillReturn (u port lane : Nat) (err : Ecc) (at_ : Nat) (d : Device) : Device :=
  let x := d.unit u
  match spillOf d u port lane with
  | none => d
  | some r =>
    let s := spillDesc d r
    if s.failed || s.count = 0 || x.laneCap port lane ≤ (x.lane port lane).length then d
    else
      let word := s.base + 17 * s.head
      let d := d.updUnit r.mu (fun y => { y with mu := { y.mu with bankSteps := satNat 48 y.mu.bankSteps 2 } })
      if err = .uncorrected then
        muError r.mu (word + at_) false false (d.updUnit r.mu (fun y => { y with mu := { y.mu with
          spills := Tab.set y.mu.spills r.desc { s with failed := true } } }))
      else
        unspill r (if err = .corrected then muCorrected r.mu (word + at_) false d else d)

def execSpillTokenReturn (u : UnitRef) (port lane : Fin 4) (err : Ecc) (word : Fin 17) (s : State) : Host.Outcome State Fault Refusal :=
  .next (s.upd (spillReturn u.key port.val lane.val err word.val))

/-! ### Exhausted queues and the watchdog (R86 to R88, R316) -/

/-- HCHAN bound to a queue in its lane's context (Table 2.2). -/
def laneChan (x : Unit) (port lane : Nat) : Nat :=
  (((Tab.getD x.ctxs lane {}).routes.find? (fun e => e.2.getLsbD 16 && bitsOf e.2.toNat 12 4 = port)).map
    (fun e => bitsOf e.2.toNat 0 12)).getD 0

/-- R86; a lane of capacity 0 holds no token to consume and is never full (log entry 65, DESIGN CHOICE). -/
def laneExhausted (d : Device) (u port lane : Nat) : Bool :=
  let x := d.unit u
  let cap := x.laneCap port lane
  0 < cap && cap ≤ (x.lane port lane).length
    && (match spillOf d u port lane with | some r => r.cap ≤ (spillDesc d r).count | none => true)

/-- R316, R317: a connection, a closing one too, that holds a token at its tap with no credit and a full ring. -/
def chanExhausted (d : Device) (c : Nat) (e : Ep) : Bool :=
  e.role = 2 && (e.state = .pending || ((e.state = .open_ || e.state = .closing) && e.credits = 0)) && e.ringCap ≤ e.ringHeld
    && (match tapToken d c e.tap with | some (_, t) => t.chan = e.hchan && t.ctx = e.ctx | none => false)

/-- The exhausted queues of a core, by QUEUE_ID, ascending within each kind. -/
def exhaustedOf (d : Device) (c : Nat) : List Nat :=
  let lanes := (coreUnits c).flatMap (fun u => (List.range 16).filterMap (fun k =>
    if laneExhausted d u (k / 4) (k % 4) then some (queueId u (k / 4) (k % 4) (laneChan (d.unit u) (k / 4) (k % 4))) else none))
  lanes ++ ((d.core c).eps.filter (fun e => chanExhausted d c e.2)).map (fun e => chanQueueId c e.1)

def insertNat (n : Nat) : List Nat → List Nat
  | [] => [n]
  | a :: rest => if n ≤ a then n :: a :: rest else a :: insertNat n rest

def sortNats (l : List Nat) : List Nat := l.foldl (fun acc n => insertNat n acc) []

/-- Region load of a section under way from Order 2 of Table 14.6. -/
def regionLoading (d : Device) (h : Nat) : Bool :=
  (List.range 16).any (fun m => match (d.mb m).job with | .region k _ _ sent => k = h && sent | _ => false)

/-- R88: the records of a deadlock: its first queue, and every named queue with a reserve. -/
def deadlockRecords (sec : Section) (ids : List Nat) (m : Nat) (d : Device) : Device :=
  let d := logCmd 0x11 0x30 (ids.headD 0) m ids.length d
  sec.spills.foldl (fun d r =>
    let q := queueId r.unit r.port r.lane (laneChan (d.unit r.unit) r.port r.lane)
    if ids.contains q then logCmd 0x12 0x31 q m r.cap d else d) d

/-- The exhausted queues of a section, ascending. -/
def sectionExhausted (d : Device) (sec : Section) : List Nat := sortNats (sec.cores.flatMap (exhaustedOf d))

/-- A core's watchdog fires: DEADLOCK, and the first exhausted queue of the section (R88, Tables 2.14 and 2.15). -/
def latchDeadlock (c : Nat) (d : Device) : Device :=
  match coreSection d c with
  | some sec =>
    let first := BitVec.ofNat 32 ((sectionExhausted d sec).headD 0xFFFFFFFF)
    d.updCore c (fun x => { x with fab := { x.fab with deadlock := true, deadlockQueue := first } })
  | none => d

/-- PROGRESS_WATCHDOG_EXPIRY (R87, R88). -/
def watchdogExpiry (c : Nat) (d : Device) : Device :=
  match coreSection d c with
  | none => d
  | some sec =>
    match liveMbx d sec with
    | none => d
    | some m =>
      if (d.core c).fab.idleSteps < 2000000 || regionLoading d sec.handle || (d.set.state = 3 && d.set.handle = sec.handle) then d
      else
        let ids := sectionExhausted d sec
        haltSection sec.handle 0x30 (replyQueues m ids (deadlockRecords sec ids m (latchDeadlock c d)))

def execProgressWatchdogExpiry (core : Fin 16) (s : State) : Host.Outcome State Fault Refusal :=
  .next (s.upd (watchdogExpiry core.val))

/-! ### Contexts (R73 to R77, R190) -/

/-- CONTEXT_SWITCH (R73, R74, R78). -/
def contextSwitch (u : Nat) (d : Device) : Device :=
  let x := d.unit u
  match x.switchReq with
  | some k =>
    if x.idle && x.flight = [] && x.reload = none then
      let idle := (Tab.getD x.ctxs k {}).image.isNone
      let x := { x with active := k, switchReq := none, idle := idle }
      d.setUnit u (if idle then x else x.updCtx k (fun c => { c with yielded := false }))
    else d
  | none => d

def execContextSwitch (u : UnitRef) (s : State) : Host.Outcome State Fault Refusal := .next (s.upd (contextSwitch u.key))

/-- Replace one part of a context by a frame's payload (Table 2.7). -/
def setPart (part v : Nat) (c : Ctx) : Ctx :=
  match part with
  | 0 => { c with words := Ram.cells 128 0 256 v ++ c.words.filter (fun e => decide (256 ≤ e.1)) }
  | 1 => { c with words := c.words.filter (fun e => decide (e.1 < 256)) ++ Ram.cells 128 256 256 v }
  | 2 => { c with routes := Ram.cells 32 0 256 v, patterns := Ram.cells 16 0 384 (v >>> 8192)
                  caps := BitVec.ofNat 32 (v >>> 14336), outTab := BitVec.ofNat 64 (v >>> 14368) }
  | _ => { c with consts := Ram.cells 64 0 64 v, predInit := Ram.cells 2048 0 4 (v >>> 4096) }

/-- A context starts anew after its parts were written: position, loops, predicates and pattern positions. -/
def freshCtx (image : Option Nat) (c : Ctx) : Ctx :=
  { c with image := image, pred := c.predInit, pos := 0, loops := [], yielded := true, linkPos := [] }

/-- Stream-side positions of the taps at a node return to entry 0 (R247). -/
def resetTaps (u k : Nat) (d : Device) : Device :=
  d.updCore (u / 80) (fun x => { x with tapPos := x.tapPos.filter (fun e =>
    !(e.1 % 4 = k && tapUnit (u / 80) (e.1 / 4) = u)) })

/-- R76: lane k of every input port, and its spill entries, are empty. -/
def laneEmpty (d : Device) (u k : Nat) : Bool :=
  [0, 1, 2, 3].all (fun p => (d.unit u).lane p k = [] && spillHeld d u p k = 0)

/-- R76: a unit of the row whose reload holds the context bus. -/
def rowBusy (d : Device) (u : Nat) : Bool :=
  (List.range 10).any (fun k => match (d.unit (u / 10 * 10 + k)).reload with | some r => r.begun | none => false)

/-- CONTEXT_RELOAD (R76, R77): the reload begins, and lane k is held. -/
def contextReload (u : Nat) (d : Device) : Device :=
  let x := d.unit u
  match x.reload with
  | some r =>
    if !r.begun && laneEmpty d u r.ctx && !rowBusy d u && (r.ctx != x.active || (x.idle && x.flight = [])) then
      d.setUnit u { x with reload := some { r with begun := true }, held := x.held ||| 2 ^ r.ctx }
    else d
  | none => d

def execContextReload (u : UnitRef) (s : State) : Host.Outcome State Fault Refusal := .next (s.upd (contextReload u.key))

/-- Where a core's frame store holds a part of an image for a unit; a generated frame, of which images from 2^20 up stand
for those of layout n - 2^20, has a part 2 alone (R284). -/
def storeAt (sec : Section) (u image part : Nat) : Option Nat :=
  let m := sec.pkg
  let l := (sec.cores.idxOf? (u / 80)).getD 0
  if 2 ^ 20 ≤ image then
    if part = 2 then
      let own := ((List.range (layouts m).length).filter (fun n => layCore m ((layouts m).getD n 0) = l))
      let row := u % 80 / 10
      let k := 16 * ((own.idxOf? (image - 2 ^ 20)).getD 0) + 2 * row + ((spareIn (colsAt sec l) row).idxOf? (u % 10)).getD 0
      some (storeAddr sec l ((storeImages m l).length + k) + 8192)
    else none
  else some (storeAddr sec l (((storeImages m l).idxOf? image).getD 0) + 4096 * part)

/-- The payload of a part of an image as the frame store holds it for a unit. -/
def storePart (d : Device) (sec : Section) (u image part : Nat) : Nat :=
  match storeAt sec u image part with
  | some a => readLogical d a 4096
  | none => 0

/-- R456, R229: the frame store page of a part is invalid or poisoned. -/
def storeFault (d : Device) (sec : Section) (u image part : Nat) : Option (Nat × BitVec 8) :=
  (storeAt sec u image part).bind (fun a => (accessFault d a).map (fun e => (a, e)))

/-- The reload's commit: the old records leave, the new context takes effect, its records arrive (R76, Table 5.8). -/
def commitReload (u : Nat) (r : Reload) (d : Device) : Device :=
  match coreSection d (u / 80) with
  | none => d
  | some sec =>
    let x := d.unit u
    let old := Tab.getD x.ctxs r.ctx {}
    let d := if isCu u then writeCtxRecords sec old d else d
    let img := if 2 ^ 20 ≤ r.image then none else some r.image
    let c := [0, 1, 2, 3].foldl (fun c p => setPart p (Ram.slice r.writes (256 * p) 256) c) old
    let c := freshCtx img c
    let clean := img.isSome && isCu u && (img.bind (statsPoison d sec)).isNone
    let v := if clean then readLogical d (statsBase sec + 8192 * r.image) 8192 else 0
    let c := { c with records := Ram.cells 128 0 512 v }
    let c := if r.ctx = x.active && img.isSome then { c with yielded := false } else c
    let x := { x.setCtx r.ctx c with reload := none, held := x.held - (x.held &&& 2 ^ r.ctx)
                                     idle := if r.ctx = x.active then img.isNone else x.idle }
    let d := resetTaps u r.ctx (d.setUnit u x)
    match (if isCu u then (old.image.bind (statsPoison d sec)).orElse (fun _ => img.bind (statsPoison d sec)) else none) with
    | some e => pageHalt sec.handle e d
    | none => d

/-- What a reload reads next: 16 bytes of a frame in the frame store, or at its commit the records of the new image. -/
def reloadReads (d : Device) (u : Nat) : Option (Nat × Nat) :=
  match (d.unit u).reload, coreSection d (u / 80) with
  | some r, some sec =>
    if !r.begun then none
    else if r.count < 1024 then (storeAt sec u r.image (r.count / 256)).map (fun a => (a + 16 * (r.count % 256), 16))
    else if isCu u && r.image < 2 ^ 20 then some (statsBase sec + 8192 * r.image, 8192)
    else none
  | _, _ => none

/-- A frame of a reload has been written into its context (Table 14.10). -/
def countReloadFrame (u image count : Nat) (d : Device) : Device :=
  if count % 256 = 0 && (image < 2 ^ 20 || count = 768) then
    d.updCore (u / 80) (fun x => { x with fab := { x.fab with cfgFrames := satNat 48 x.fab.cfgFrames 1 } })
  else d

/-- CONTEXT_WRITE (R76): one write of 16 bytes; after the last of 1,024 the commit. `err` is what its read finds. -/
def contextWrite (u : Nat) (err : TierErr) (d : Device) : Device :=
  let d := match reloadReads d u with
    | some a => tierFound ((coreSection d (u / 80)).bind (liveMbx d)) err a.1 a.2 d
    | none => d
  let x := d.unit u
  match x.reload, coreSection d (u / 80) with
  | some r, some sec =>
    if !r.begun then d
    else if r.count < 1024 then
      match storeFault d sec u r.image (r.count / 256) with
      | some (a, e) => streamFault sec.handle a 0xFFFFFFFF e d
      | none =>
        let v := storePart d sec u r.image (r.count / 256) >>> (128 * (r.count % 256))
        countReloadFrame u r.image (r.count + 1) <| d.setUnit u { x with reload := some { r with count := r.count + 1, writes := Ram.write r.writes r.count (BitVec.ofNat 128 v) } }
    else commitReload u r d
  | _, _ => d

def execContextWrite (u : UnitRef) (err : TierErr) (s : State) : Host.Outcome State Fault Refusal :=
  .next (s.upd (contextWrite u.key err))

/-! ### The packet network and the hitches (R40 to R42, R94 to R96) -/

/-- R40: the owner of a turn: 0 CONTROL, 1 CHANNEL, 2 HOST, 3 MEMORY. -/
def turnOwner (turn : Nat) : Nat := match turn % 8 with | 0 => 0 | 2 => 1 | 4 => 2 | 6 => 1 | _ => 3

def netReady (n : NetLink) (vc : Nat) : Bool := Tab.getD n.queues vc [] != [] && 0 < Tab.getD n.credits vc 0

/-- The channel that a turn serves. -/
def netPick (n : NetLink) : Option Nat :=
  if netReady n (turnOwner n.turn) then some (turnOwner n.turn) else [0, 1, 2, 3].find? (netReady n)

/-- The virtual channel of a class of traffic (R39, Table 1.5). -/
def trafficChannel (t : Traffic) : Nat :=
  match t with
  | .frames | .sync | .control => 0
  | .channel => 1
  | .host => 2
  | .memory | .spill => 3

/-- A flit joins the queue of its class's channel. -/
def NetLink.arrive (n : NetLink) (t : Traffic) (f : BitVec 512) : NetLink :=
  { n with queues := Tab.set n.queues (trafficChannel t) (Tab.getD n.queues (trafficChannel t) [] ++ [f]) }

/-- PACKET_FLIT_TURN: credits return, a flit may arrive, and one flit crosses.  The spec gives neither the links nor a
link's credits: 64 links, each without credit at reset, and credits that the row brings back (log entry 11, DESIGN CHOICE). -/
def packetTurn (arrive : Option (Traffic × BitVec 512)) (credit : BitVec 4) (n : NetLink) : NetLink :=
  let n := { n with credits := [0, 1, 2, 3].foldl (fun t vc =>
    if credit.getLsbD vc then Tab.set t vc (Tab.getD t vc 0 + 1) else t) n.credits }
  let n := match arrive with
    | some (t, f) => n.arrive t f
    | none => n
  let n' := match netPick n with
    | some vc =>
      match Tab.getD n.queues vc [] with
      | f :: rest =>
        let cr := Tab.set n.credits vc (Tab.getD n.credits vc 0 - 1)
        { n with queues := Tab.set n.queues vc rest, credits := cr, last := some (vc, f) }
      | [] => n
    | none => n
  { n' with turn := (n.turn + 1) % 8 }

/-- The quadrants that a link joins, 4 for the hub die (log entry 11, DESIGN CHOICE): link 4 * c + dir leaves core c towards
the left, right, upper or lower core; at the border of the grid a horizontal one goes to the hub and a vertical one comes
from it, both by the quadrant's hub bridge. -/
def linkQuads (l : Nat) : Nat × Nat :=
  let x := gridX (l / 4)
  let y := gridY (l / 4)
  let q := l / 16
  match l % 4 with
  | 0 => (q, if x = 0 then 4 else gridCore (x - 1) y / 4)
  | 1 => (q, if x = 3 then 4 else gridCore (x + 1) y / 4)
  | 2 => if y = 0 then (4, q) else (q, gridCore x (y - 1) / 4)
  | _ => if y = 3 then (4, q) else (q, gridCore x (y + 1) / 4)

/-- The fixed route from quadrant `a` to `b`: the upper-lower bridge first (R39); it goes through the hub die where it would
cross a quadrant that is turned off (R538). -/
def routeQuads (off : BitVec 4) (a b : Nat) : List Nat :=
  let mid := 2 * (b / 2) + a % 2
  if off.getLsbD a || off.getLsbD b || off.getLsbD mid then [a, 4, b] else if mid = a || mid = b then [a, b] else [a, mid, b]

/-- The link lies on a route. -/
def onRoute (r : List Nat) (l : Nat) : Bool :=
  let e := linkQuads l
  if e.1 = e.2 then r.contains e.1 else (r.zip r.tail).contains e

/-- The link is supplied from a VCORE that is off (R538); hub bridges stay on. -/
def linkDark (off : BitVec 4) (l : Nat) : Bool :=
  let e := linkQuads l
  e.1 != 4 && e.2 != 4 && (off.getLsbD e.1 || off.getLsbD e.2)

/-- The turn of a link that is on; a flit between quadrants joins it only where its route leads. -/
def flitTurn (l : Nat) (arrive : Option (Traffic × BitVec 512)) (credit : BitVec 4) (ends : Option (Fin 4 × Fin 4)) (d : Device) : Device :=
  let off := d.power.quadrantOff
  if linkDark off l then d
  else
    let a := if ends.all (fun e => onRoute (routeQuads off e.1.val e.2.val) l) then arrive else none
    { d with netLinks := Tab.set d.netLinks l (packetTurn a credit (Tab.getD d.netLinks l {})) }

def execPacketFlitTurn (link : Fin 64) (arrive : Option (Traffic × BitVec 512)) (credit : BitVec 4) (s : State)
    (ends : Option (Fin 4 × Fin 4) := none) : Host.Outcome State Fault Refusal :=
  .next (s.upd (flitTurn link.val arrive credit ends))

/-- The flit can join the buffer of a channel towards the hub: it is of the channel, and the buffer has room (R39, R94). -/
def Hitch.takesHub (h : Hitch) (vc : Nat) (f : HubFlit) : Bool := trafficChannel f.cls = vc && decide (h.toHub.length < 32)

/-- The hitch stores a flit; a request for a far-tier entry is remembered in order (R96). -/
def Hitch.storeHub (h : Hitch) (f : HubFlit) : Hitch :=
  { h with
    toHub := h.toHub ++ [f.bits]
    asked := match f.req with
      | some (q, e) => Tab.set h.asked q.val (Tab.getD h.asked q.val [] ++ [e])
      | none => h.asked }

/-- The hub takes the oldest flit. -/
def Hitch.giveHub (h : Hitch) : Hitch :=
  match h.toHub with
  | f :: rest => { h with toHub := rest, lastHub := some f, toHubCount := h.toHubCount + 1 }
  | [] => h

/-- A hitch of a quadrant and channel. -/
def updHitch (q vc : Nat) (f : Hitch → Hitch) (d : Device) : Device :=
  let k := 4 * q + vc
  { d with hitches := Tab.set d.hitches k (f (Tab.getD d.hitches k {})) }

/-- HITCH_FLIT_TO_HUB (Table 2.12): a flit is stored while the buffer has room, and one leaves when the hub is ready.
A token that leaves its core so returns the core's watchdog to 0 (R87). -/
def hitchToHub (q vc : Nat) (arrive : Option HubFlit) (ready : Bool) (d : Device) : Device :=
  let give (h : Hitch) : Hitch := if ready then h.giveHub else h
  match arrive with
  | some f =>
    if (Tab.getD d.hitches (4 * q + vc) {}).takesHub vc f then
      let d := updHitch q vc (fun h => give (h.storeHub f)) d
      match f.token with
      | some c => resetIdle (4 * q + c.val) d
      | none => d
    else updHitch q vc give d
  | none => updHitch q vc give d

def execHitchFlitToHub (q vc : Fin 4) (arrive : Option HubFlit) (ready : Bool) (s : State) :
    Host.Outcome State Fault Refusal :=
  .next (s.upd (hitchToHub q.val vc.val arrive ready))

/-- Place in the buffer of the flit to present next (R95, R96): the rest of a packet begun; else the oldest flit, or,
where that one is an early response, the first flit of the response its queue must present before it; none while that one
has not come. -/
def Hitch.nextFabric (h : Hitch) : Option Nat :=
  match h.packet with
  | some key => h.toFabric.findIdx? (fun f => f.resp = key)
  | none =>
    match h.toFabric with
    | [] => none
    | f :: _ =>
      match f.resp with
      | none => some 0
      | some (q, _) =>
        match Tab.getD h.asked q.val [] with
        | [] => some 0
        | e :: _ => h.toFabric.findIdx? (fun g => g.resp = some (q, e))

/-- The fabric accepts the flit at place `i`; the last of a response ends its turn in its queue. -/
def Hitch.giveFabric (h : Hitch) (i : Nat) : Hitch :=
  match h.toFabric[i]? with
  | none => h
  | some f =>
    { h with
      toFabric := h.toFabric.eraseIdx i
      packet := if f.last then none else some f.resp
      asked := match f.last, f.resp with
        | true, some (q, e) => Tab.set h.asked q.val ((Tab.getD h.asked q.val []).erase e)
        | _, _ => h.asked
      lastFabric := some f
      toFabricCount := h.toFabricCount + 1 }

/-- HITCH_FLIT_TO_FABRIC (Table 2.13): hub logic writes a flit of the channel while the buffer has room, and the packet
network takes the next in order when it holds a credit. -/
def hitchToFabric (vc : Nat) (arrive : Option FabricFlit) (credit : Bool) (h : Hitch) : Hitch :=
  let h := match arrive with
    | some f => if trafficChannel f.cls = vc && decide (h.toFabric.length < 32) then { h with toFabric := h.toFabric ++ [f] } else h
    | none => h
  match credit, h.nextFabric with
  | true, some i => h.giveFabric i
  | _, _ => h

def execHitchFlitToFabric (q vc : Fin 4) (arrive : Option PlainFlit) (resp : Option (Fin 64 × Fin 64)) (credit : Bool)
    (s : State) : Host.Outcome State Fault Refusal :=
  .next (s.upd (updHitch q.val vc.val (hitchToFabric vc.val (arrive.map (fun f => ⟨f, resp⟩)) credit)))

end Sys2Proof.Machine
end

