-- ==== Sys2Proof/Machine/Streams.lean ====
section
/-!
DEFINITION. Machine/Streams.lean: the decoupling-queue words, the stream engine and the store queues (R247 to R260).
-/
namespace Sys2Proof.Machine

/-! ### Decoupling-queue words (Table 7.6, R252) -/

def dqStream (w : BitVec 128) : Nat := imm w 0 4
def dqCount (w : BitVec 128) : Nat := imm w 4 16

/-- A wait is satisfied. -/
def dqMet (done expect : BitVec 32) : Bool := decide ((done - expect).toNat < 2 ^ 31)

/-- DQ_WAIT_FILL and DQ_WAIT_DRAIN: EXPECT rises once, then the word waits for DONE. -/
def advDqWait (d : Device) (u : Nat) (x : Unit) (f : Flight) : Unit × Flight :=
  let n := dqStream f.word
  let x := if f.takenA = 0 then
      x.updCtx f.ctx (fun c => { c with expect := Ram.write c.expect n (Ram.read c.expect n + BitVec.ofNat 32 (dqCount f.word)) })
    else x
  let done := (Tab.getD (d.core (u / 80)).slots n {}).done
  (x, { f with takenA := 1, done := dqMet done (Ram.read (Tab.getD x.ctxs f.ctx {}).expect n) })

def execDqWaitFill (u : UnitRef) (s : State) : Host.Outcome State Fault Refusal :=
  .next (s.upd (runWord 0xD0 startAlone noInit advDqWait u.key))

def execDqWaitDrain (u : UnitRef) (s : State) : Host.Outcome State Fault Refusal :=
  .next (s.upd (runWord 0xD1 startAlone noInit advDqWait u.key))

/-- DQ_OPEN adds COUNT to the stream's GATE, which saturates (R20). -/
def wordDqOpen (u : Nat) (d : Device) : Device :=
  let x := d.unit u
  if canIssue x 0xD2 && x.flight = [] then
    let w := nextWord x
    let d := d.updSlot (u / 80) (dqStream w) (fun s => { s with gate := satAdd s.gate (dqCount w) })
    retireNow u x.ctx.pos (nextPos x) d
  else d

def execDqOpen (u : UnitRef) (s : State) : Host.Outcome State Fault Refusal := .next (s.upd (wordDqOpen u.key))

/-! ### The translation cache (R240 to R242) -/

def tcSet (x : Core) (p : Nat) : List TcEntry := Tab.getD x.tc (p % 1024) []

def tcHas (x : Core) (p : Nat) : Bool := (tcSet x p).any (fun e => e.page = p)

/-- A hit makes the entry the most recently used of its set. -/
def tcTouch (p : Nat) (x : Core) : Core :=
  let s := tcSet x p
  match s.find? (fun e => e.page = p) with
  | some e => { x with tc := Tab.set x.tc (p % 1024) (e :: s.filter (fun y => y.page != p)) }
  | none => x

/-- A translation: a hit, or a walk where one of the eight is free. -/
def translate (p : Nat) (x : Core) : Core :=
  if tcHas x p then tcTouch p { x with fab := { x.fab with tcHits := satNat 48 x.fab.tcHits 1 } }
  else if x.walks.contains p || 8 ≤ x.walks.length then x
  else { x with walks := x.walks ++ [p], fab := { x.fab with tcMisses := satNat 48 x.fab.tcMisses 1 } }

/-- An AFFINITY increment, and the promotion it may queue (R242, R243). -/
def raiseAffinity (p : Nat) (d : Device) : Device :=
  let e := d.res p
  let a := min 255 (resAffinity e + 1)
  let d := d.setRes p (setField e 8 8 a)
  let queued := d.tiers.promoQ.any (fun q => q.page = p)
  if resTier e = 2 && !resPin e && !resMoving e && d.tiers.promote.toNat ≤ a && !queued then
    { d with tiers := { d.tiers with promoQ := d.tiers.promoQ ++ [{ page := p, core := resLast e, asked := false }] } }
  else d

/-- TRANSLATION_FILL (R240, R242): a walk ends; only a VALID entry is cached. `err` is what the read of the slice, in the
core's near tier, finds (R228); one that it cannot correct acts by R229 for the page (log entry 93, DESIGN CHOICE). -/
def translationFill (c p : Nat) (err : Ecc) (d : Device) : Device :=
  if (d.core c).walks.contains p then
    let d := d.updCore c (fun x => { x with walks := x.walks.erase p })
    let d := if err = .corrected then { d with tiers := { d.tiers with ntCorr := satAdd d.tiers.ntCorr 1 } } else d
    if err = .uncorrected then tierError none (d.core c).section_ false (65536 * p) 0xFFFFFFFF d
    else if resValid (d.res p) then
      let d := raiseAffinity p (d.setRes p (setField (d.res p) 44 4 c))
      d.updCore c (fun x =>
        let s := (tcSet x p).take 3
        { x with tc := Tab.set x.tc (p % 1024) ({ page := p, entry := d.res p, reads := 0 } :: s) })
    else d
  else d

def execTranslationFill (core : Fin 16) (page : Page) (s : State) (err : Ecc := .clean) : Host.Outcome State Fault Refusal :=
  .next (s.upd (translationFill core.val page.toNat err))

/-- A read of a far-tier page by a core's streams: each 128 raise AFFINITY (R242). -/
def countFarRead (c p : Nat) (d : Device) : Device :=
  if resTier (d.res p) != 2 then d
  else
    match (tcSet (d.core c) p).find? (fun e => e.page = p) with
    | none => d
    | some e =>
      let n := if e.reads + 1 = 128 then 0 else e.reads + 1
      let d := d.updCore c (fun x =>
        let s := (tcSet x p).map (fun y => if y.page = p then { y with reads := n } else y)
        { x with tc := Tab.set x.tc (p % 1024) s })
      if n = 0 then raiseAffinity p d else d

/-! ### Requests (R258, R259) -/

def loadCount (x : Core) (q : Nat) : Nat := (Tab.getD x.loadQ q []).length
def storeCount (x : Core) (q : Nat) : Nat := (Tab.getD x.storeQ q []).length

/-- The queue of a gang that takes the next entry: the emptiest, the lowest of equals (log entry 10). -/
def pickQueue (count : Nat → Nat) (gang : List Nat) : Option Nat :=
  gang.foldl (fun o q => if 64 ≤ count q then o else match o with
    | some b => if count q < count b then some q else some b
    | none => some q) none

/-- A load stream may request its next entry. -/
def loadEligible (x : Core) (s : Slot) : Bool :=
  s.active && !sdStore s.words && s.reqTile < s.total && s.reqTile ≤ s.tile + 4
    && (!sdGated s.words || s.reqTile < s.gate.toNat) && (pickQueue (loadCount x) s.gang).isSome

/-- The oldest accepted store entry of a slot whose write has not been requested: queue and index. -/
def nextStore (x : Core) (slot : Nat) : Option (Nat × StoreEntry) :=
  x.storeQ.findSome? (fun q => (q.2.find? (fun e => e.slot = slot && !e.issued)).map (fun e => (q.1, e)))

/-- A store stream is eligible whenever it holds a filled entry (R259), also once it has stopped (R262). -/
def storeEligible (x : Core) (n : Nat) (s : Slot) : Bool := sdStore s.words && (nextStore x n).isSome

/-- The eligible stream with the smallest time to dry. -/
def nextStream (x : Core) : Option Nat :=
  ((List.range 16).foldl (fun (o : Option (Nat × Nat)) n =>
    let s := Tab.getD x.slots n {}
    if loadEligible x s || storeEligible x n s then
      let k := s.pending * sdPace s.words
      match o with
      | some (b, m) => if k < m then some (n, k) else some (b, m)
      | none => some (n, k)
    else o) none).map (·.1)

/-- Mark the first entry of a list that satisfies `p` as requested. -/
def issueFirst (p : StoreEntry → Bool) : List StoreEntry → List StoreEntry
  | [] => []
  | e :: rest => if p e then { e with issued := true } :: rest else e :: issueFirst p rest

/-- A load stream's request: an entry of its next tile. -/
def requestLoad (c n : Nat) (s : Slot) (d : Device) : Device :=
  let a := s.addr s.reqTile s.reqIdx
  match accessFault d a with
  | some code => streamFault ((d.core c).section_.getD 0) a ((pickQueue (loadCount (d.core c)) s.gang).getD 0) code d
  | none =>
    let last := s.reqIdx + 1 = sdTile s.words
    let s' := { s with pending := s.pending + 1, reqTile := if last then s.reqTile + 1 else s.reqTile,
                       reqIdx := if last then 0 else s.reqIdx + 1 }
    d.updCore c (fun x =>
      match pickQueue (loadCount x) s.gang with
      | some q =>
        let e : LoadEntry := { slot := n, tile := s.reqTile, idx := s.reqIdx, addr := a, data := none }
        translate (a / 65536) { x with slots := Tab.set x.slots n s', loadQ := Tab.set x.loadQ q (Tab.getD x.loadQ q [] ++ [e]) }
      | none => x)

/-- A store stream's request: the write of its oldest accepted entry; to the far tier it leaves by a hitch (R87). -/
def requestStore (c n : Nat) (d : Device) : Device :=
  match nextStore (d.core c) n with
  | none => d
  | some (q, e) =>
    match accessFault d e.addr with
    | some _ => flushEntry c q e d
    | none =>
      let d := if resTier (d.res (e.addr / 65536)) = 2 then resetIdle c d else d
      d.updCore c (fun x =>
        let l := issueFirst (fun y => y.slot = n && !y.issued) (Tab.getD x.storeQ q [])
        translate (e.addr / 65536) { x with storeQ := Tab.set x.storeQ q l })

/-- STREAM_ENTRY_REQUEST: up to 48 requests of one step. -/
def requestLoop (c : Nat) : Nat → Device → Device
  | 0, d => d
  | k + 1, d =>
    match nextStream (d.core c) with
    | none => d
    | some n =>
      let s := d.slot c n
      requestLoop c k (if sdStore s.words then requestStore c n d else requestLoad c n s d)

def execStreamEntryRequest (core : Fin 16) (s : State) : Host.Outcome State Fault Refusal :=
  .next (s.upd (requestLoop core.val 48))

/-! ### Loads (R248, R233) -/

/-- Orders 5 of moves whose old frames no outstanding read needs (Table 7.4). -/
def pageReads (d : Device) (p : Nat) : Bool :=
  d.cores.any (fun c => c.2.loadQ.any (fun q => q.2.any (fun e => e.data.isNone && e.addr / 65536 = p)))

/-- A completed move is counted (Table 7.11, R430): a move into a near tier is a promotion, a move into a far-tier
package a demotion, whoever asked for it (DEDUCED, log entry 61). -/
def countMove (mv : Move) (d : Device) : Device :=
  let d := if mv.newUnit < 16 then { d with tiers := { d.tiers with promotions := satAdd d.tiers.promotions 1 } }
    else { d with tiers := { d.tiers with demotions := satAdd d.tiers.demotions 1 } }
  if mv.kind = 2 then
    d.updMb mv.mbx (fun x => match x.job with
      | .moving t todo fl a b =>
        if fl.contains mv.page then { x with job := .moving t todo (fl.erase mv.page) (a + 1) b } else x
      | _ => x)
  else d

/-- Order 5 of Table 7.4, once every translation cache has acknowledged Order 4 (R241). -/
def finishMove (mv : Move) (d : Device) : Device :=
  if mv.switched && !d.tiers.invals.contains mv.page && !pageReads d mv.page then
    countMove mv (giveFrame { d with tiers := { d.tiers with moves := d.tiers.moves.filter (fun x => x != mv) } } mv.oldUnit mv.oldFrame)
  else d

def finishMoves (d : Device) : Device := d.tiers.moves.foldl (fun d mv => finishMove mv d) d

/-- The oldest entry of a queue that has not filled. -/
def oldestUnfilled (x : Core) (q : Nat) : Option LoadEntry := (Tab.getD x.loadQ q []).find? (·.data.isNone)

/-- Fill the first unfilled entry of a list. -/
def fillFirst (v : BitVec 4096) : List LoadEntry → List LoadEntry
  | [] => []
  | e :: rest => if e.data.isNone then { e with data := some v } :: rest else e :: fillFirst v rest

/-- Entries of a tile in the load queues. -/
def tileEntries (x : Core) (n t : Nat) : List LoadEntry :=
  x.loadQ.flatMap (fun q => q.2.filter (fun e => e.slot = n && e.tile = t))

/-- The tile has been requested whole and every entry of it has filled or been sent. -/
def tileFilled (x : Core) (n t : Nat) : Bool :=
  t < (Tab.getD x.slots n {}).reqTile && (tileEntries x n t).all (·.data.isSome)

/-- LOAD_ENTRY_FILL: the tier's answer to the oldest request of a queue whose translation is at hand. -/
def loadFill (c q : Nat) (err : Ecc) (d : Device) : Device :=
  match oldestUnfilled (d.core c) q with
  | none => d
  | some e =>
    let p := e.addr / 65536
    match accessFault d e.addr with
    | some code => streamFault ((d.core c).section_.getD 0) e.addr q code d
    | none =>
      if !tcHas (d.core c) p then d.updCore c (fun x => if x.walks.contains p then x else translate p x)
      else if resTier (d.res p) != 0 && err = .uncorrected then tierError none (d.core c).section_ false e.addr q d
      else
        let d := if resTier (d.res p) = 0 then d else countTierRead p err d
        let v := BitVec.ofNat 4096 (readLogical d e.addr 512)
        let d := countFarRead c p d
        let d := d.updCore c (fun x => { x with loadQ := Tab.set x.loadQ q (fillFirst v (Tab.getD x.loadQ q [])) })
        let whole := tileFilled (d.core c) e.slot e.tile
        let d := d.updSlot c e.slot (fun s => { s with
          bytes := satNat 48 s.bytes 512, done := if whole then s.done + 1 else s.done,
          filled := if whole then s.filled + 1 else s.filled })
        finishMoves d

def execLoadEntryFill (core queue : Fin 16) (err : Ecc) (s : State) : Host.Outcome State Fault Refusal :=
  .next (s.upd (loadFill core.val queue.val err))

/-- Entries sent of tile `t`. -/
def Slot.sentOf (s : Slot) (t : Nat) : Nat := s.sent.getD (t - s.tile) 0

/-- One more entry of tile `t` has been sent; tiles sent whole leave the window. -/
def dropSent (n : Nat) : Nat → List Nat → Nat × List Nat
  | t, [] => (t, [])
  | t, k :: rest => if n ≤ k then dropSent n (t + 1) rest else (t, k :: rest)

def Slot.countSent (s : Slot) (t : Nat) : Slot :=
  let l := (List.range (max s.sent.length (t - s.tile + 1))).map (fun i => s.sent.getD i 0 + bit01 (i = t - s.tile))
  let r := dropSent (sdTile s.words) s.tile l
  { s with sent := r.2, tile := r.1, pending := s.pending - 1, active := s.active && decide (r.1 < s.total) }

/-- The tile of a load slot that can send an entry now: filled whole, due at its tap, and no earlier tile of its channel
left. -/
def sendable (d : Device) (c n : Nat) : Option Nat :=
  let x := d.core c
  let s := d.slot c n
  let ts := (List.range 5).map (· + s.tile)
  ts.find? (fun t =>
    let ch := s.chan t
    decide (t < s.total) && tileFilled x n t && decide (s.sentOf t < sdTile s.words)
      && tapReady d c ch.2.1 ch.1 ch.2.2
      && !ts.any (fun t' => t' < t && s.chan t' = ch && s.sentOf t' < sdTile s.words))

/-- STREAM_TILE_RELEASE: one entry of a wholly filled tile goes to its tap as a token (R248). -/
def tileRelease (c n : Nat) (d : Device) : Device :=
  let s := d.slot c n
  if !s.active || sdStore s.words then d
  else
    match sendable d c n with
    | none => d
    | some t =>
      let i := s.sentOf t
      match (tileEntries (d.core c) n t).find? (fun e => e.idx = i) with
      | some e =>
        let ch := s.chan t
        let tok : Token := ⟨e.data.getD 0, mkTag ch.2.2 (i + 1 = sdTile s.words) 512 0 ch.1⟩
        let d := tapSend c ch.2.1 tok d
        let d := d.updCore c (fun x => { x with loadQ := x.loadQ.map (fun q => (q.1, q.2.filter (fun y => y != e))) })
        d.updSlot c n (fun s => s.countSent t)
      | none => d

def execStreamTileRelease (core slot : Fin 16) (s : State) : Host.Outcome State Fault Refusal :=
  .next (s.upd (tileRelease core.val slot.val))

/-! ### Stores (R249, R258) -/

/-- The store slot whose next tile takes a token of this channel. -/
def storeSlot (x : Core) (tap : Nat) (t : Token) : Option Nat :=
  (List.range 16).find? (fun n =>
    let s := Tab.getD x.slots n {}
    s.active && sdStore s.words && decide (s.reqTile < s.total) && s.chan s.reqTile = (t.chan, tap, t.ctx))

/-- STORE_QUEUE_ACCEPT: a free entry takes the token presented at the tap. -/
def storeAccept (c tap : Nat) (d : Device) : Device :=
  match tapToken d c tap with
  | none => d
  | some (src, t) =>
    match storeSlot (d.core c) tap t with
    | none => d
    | some n =>
      let s := d.slot c n
      match pickQueue (storeCount (d.core c)) s.gang with
      | none => d
      | some q =>
        let e : StoreEntry := { slot := n, tile := s.reqTile, addr := s.addr s.reqTile s.reqIdx, data := t.payload }
        let last := s.reqIdx + 1 = sdTile s.words
        let d := tapTake c tap src d
        d.updCore c (fun x => { x with
          slots := Tab.set x.slots n { s with pending := s.pending + 1, reqTile := if last then s.reqTile + 1 else s.reqTile,
                                              reqIdx := if last then 0 else s.reqIdx + 1 },
          storeQ := Tab.set x.storeQ q (Tab.getD x.storeQ q [] ++ [e]) })

def execStoreQueueAccept (core : Fin 16) (tap : Fin 36) (s : State) : Host.Outcome State Fault Refusal :=
  .next (s.upd (storeAccept core.val tap.val))

/-- STORE_WRITE_ACK: the tier acknowledges the oldest requested write of a queue; its bytes are written (R249), or, into
a gradient page, its values are added to those that a read finds there (R327, R228, R229). -/
def storeAck (c q : Nat) (err : Ecc) (d : Device) : Device :=
  match (Tab.getD (d.core c).storeQ q []).find? (·.issued) with
  | none => d
  | some e =>
    match accessFault d e.addr with
    | some _ => flushEntry c q e d
    | none =>
      if !tcHas (d.core c) (e.addr / 65536) then
        d.updCore c (fun x => if x.walks.contains (e.addr / 65536) then x else translate (e.addr / 65536) x)
      else
        let p := e.addr / 65536
        let reads := (gradOwner d p).isSome && resTier (d.res p) != 0
        if reads && err = .uncorrected then tierError none (d.core c).section_ false e.addr (16 + q) d
        else
          let d := if reads then countTierRead p err d else d
          countWritten c e (dropStore c q e (writeEntry e.addr e.data d))

def execStoreWriteAck (core : Fin 16) (queue : Fin 8) (s : State) (err : Ecc := .clean) : Host.Outcome State Fault Refusal :=
  .next (s.upd (storeAck core.val queue.val err))

/-! ### Moves between the tiers (R242 to R246) -/

/-- A page may start a move to a home: Order 1 of Table 7.4. -/
def startMove (p unit kind mbx : Nat) (d : Device) : Option Device :=
  let e := d.res p
  if !resValid e || resPin e || resMoving e || resUnit e = unit || 4 ≤ d.tiers.moves.length || offerCount d unit = 0 then none
  else
    (takeFrame d unit).map (fun r =>
      let d := r.2
      let mv : Move := { page := p, oldUnit := resUnit e, oldFrame := resFrame e, newUnit := unit, newFrame := r.1, kind := kind, mbx := mbx }
      { (d.setRes p (setField e 6 1 1)) with tiers := { (d.setRes p (setField e 6 1 1)).tiers with moves := d.tiers.moves ++ [mv] } })

/-- R244: the count at which a demotion run ends. -/
def demoteHigh (d : Device) : Nat :=
  if d.tiers.demoteHigh.toNat ≤ d.tiers.demoteLow.toNat then d.tiers.demoteLow.toNat + 1 else d.tiers.demoteHigh.toNat

/-- Frames free or about to be, in a core's near tier. -/
def freeSoon (d : Device) (c : Nat) : Nat :=
  freeCount d c + (d.tiers.moves.filter (fun m => m.kind = 1 && m.oldUnit = c)).length

/-- Cores with a demotion run: it starts below DEMOTE_LOW and ends at DEMOTE_HIGH. -/
def demoteRuns (d : Device) : List Nat :=
  (List.range 16).filter (fun c =>
    freeCount d c < d.tiers.demoteLow.toNat || (d.tiers.demoting.contains c && decide (freeCount d c < demoteHigh d)))

/-- The page of a core that is demoted next: lowest AFFINITY, then lowest number. -/
def demotePage (d : Device) (c : Nat) : Option Nat :=
  (d.tiers.table.foldl (fun (o : Option (Nat × Nat)) r =>
    let e := d.res r.1
    if resValid e && resUnit e = c && !resPin e && !resMoving e then
      match o with
      | some (p, a) => if resAffinity e < a then some (r.1, resAffinity e) else some (p, a)
      | none => some (r.1, resAffinity e)
    else o) none).map (·.1)

/-- Start the demotion of a page of a core with a run. -/
def startDemotion (d : Device) : Option Device :=
  (demoteRuns d).findSome? (fun c =>
    if demoteHigh d ≤ freeSoon d c then none
    else (demotePage d c).bind (fun p => (bestHome d 0 farHomes).bind (fun u => startMove p u 1 0 d)))

/-- Whether a queued promotion may be made (R243, R292). -/
def promoOk (d : Device) (q : Promo) : Bool :=
  (q.asked || resTier (d.res q.page) = 2) && d.tiers.demoteLow.toNat < offerCount d q.core

/-- Take queued promotions until one starts; those that may not be made are dropped. -/
def startPromotion : Nat → Device → Option Device × Device
  | 0, d => (none, d)
  | n + 1, d =>
    match d.tiers.promoQ with
    | [] => (none, d)
    | q :: rest =>
      let d := { d with tiers := { d.tiers with promoQ := rest } }
      match if promoOk d q then startMove q.page q.core 0 0 d else none with
      | some d' => (some d', d)
      | none => startPromotion n d

/-- R241: the page commands whose changes every translation cache has acknowledged end. -/
def settleChanges (d : Device) : Device :=
  (List.range 16).foldl (fun d m =>
    match (d.mb m).job with
    | .changing ps => if (d.mb m).state.started && !ps.any (fun p => d.tiers.invals.contains p) then endDone m d else d
    | _ => d) d

/-- MIGRATION_MOVE_START: the first queued promotion that may be made, else a demotion. -/
def migrationStart (d : Device) : Device :=
  let d := finishMoves d
  let d := { d with tiers := { d.tiers with demoting := demoteRuns d } }
  if 4 ≤ d.tiers.moves.length then d
  else
    match startPromotion d.tiers.promoQ.length d with
    | (some d, _) => d
    | (none, d) => (startDemotion d).getD d

def execMigrationMoveStart (s : State) : Host.Outcome State Fault Refusal := .next (s.upd migrationStart)

/-- R229: a PAGE_MOVE is about to read a poisoned page. -/
def movePoison (d : Device) (p unit : Nat) : Bool := resPoison (d.res p) && (startMove p unit 2 0 d).isSome

/-- The pages of a PAGE_MOVE: moves begin while the engine has room; pages that cannot move are SKIPPED (R430). -/
def pageMoveLoop (m : Nat) : Nat → Device → Device
  | 0, d => d
  | n + 1, d =>
    match (d.mb m).job with
    | .moving t (p :: todo) fl a b =>
      if 4 ≤ d.tiers.moves.length then d
      else
        if movePoison d p t then endFailed m (classCode (d.res p)) (replyAddr m (65536 * p) d)
        else match startMove p t 2 m d with
        | some d => pageMoveLoop m n (d.updMb m (fun x => { x with job := .moving t todo (fl ++ [p]) a b }))
        | none => pageMoveLoop m n (d.updMb m (fun x => { x with job := .moving t todo fl a (b + 1) }))
    | _ => d

/-- A PAGE_MOVE goes on, and ends once every page has been handled. -/
def pageMoveStep (m : Nat) (d : Device) : Device :=
  match (d.mb m).job with
  | .moving _ todo _ _ _ =>
    let d := pageMoveLoop m todo.length d
    match (d.mb m).job with
    | .moving _ [] [] a b => endDone m (reply m 4 4 b (reply m 0 4 a d))
    | _ => d
  | _ => d

/-- INVALIDATION (R241): the oldest one reaches every translation cache; a walk in flight is repeated. -/
def invalidationDone (d : Device) : Device :=
  match d.tiers.invals with
  | [] => d
  | p :: rest =>
    let d := { d with tiers := { d.tiers with invals := rest } }
    let d := (List.range 16).foldl (fun d c =>
      if tcHas (d.core c) p || (d.core c).walks.contains p then
        d.updCore c (fun x =>
          let again := bit01 (x.walks.contains p)
          { x with tc := Tab.set x.tc (p % 1024) ((tcSet x p).filter (fun e => e.page != p)),
                   fab := { x.fab with tcMisses := satNat 48 x.fab.tcMisses again } })
      else d) d
    let d := settleChanges (finishMoves (giveFreed d))
    (List.range 16).foldl (fun d m => pageMoveStep m d) d

def execInvalidation (s : State) : Host.Outcome State Fault Refusal := .next (s.upd invalidationDone)

/-- A move whose copy meets an uncorrected error is given up: the page stays where it is. A PAGE_MOVE ends FAILED with
the code of the page's CLASS and the logical address (R229); a promotion or demotion has no command (log entry 66). -/
def dropMove (mv : Move) (addr : Nat) (d : Device) : Device :=
  let e := d.res mv.page
  let d := (endMove mv d).setRes mv.page (setField e 6 1 0)
  if mv.kind = 2 then
    match (d.mb mv.mbx).job with
    | .moving _ _ _ _ _ => endFailed mv.mbx (classCode e) (replyAddr mv.mbx addr d)
    | _ => d
  else d

/-- Orders 3 and 4 of Table 7.4, and Order 5 where nothing holds it. -/
def switchMove (mv : Move) (d : Device) : Device :=
  let p := mv.page
  let e := d.res p
  let absent := resTier e = 0
  let v := if absent then 0 else readFrame d mv.oldUnit mv.oldFrame 0 65536
  let d := if absent then d else writeFrame d mv.newUnit mv.newFrame 0 65536 v
  let tier := if absent then 0 else tierOf mv.newUnit
  let e := setField (setField (setField (setField e 16 8 mv.newUnit) 24 19 mv.newFrame) 6 1 0) 1 2 tier
  let d := invalidate p (d.setRes p e)
  { d with tiers := { d.tiers with moves := d.tiers.moves.map (fun x => if x = mv then { mv with switched := true } else x) } }

/-- MOVE_COPY_DONE: the 128 entries have been read, with what one read found (R228, R229, R233), and Orders 3 to 5 of
Table 7.4 follow. -/
def moveCopyDone (p : Nat) (err : TierErr) (d : Device) : Device :=
  match d.tiers.moves.find? (fun m => m.page = p && !m.switched) with
  | none => d
  | some mv =>
    let bad := if tierMeets err (65536 * p) 65536 d then err.filter (fun e => e.2 = .uncorrected) else none
    let d := tierFound (if mv.kind = 2 then some mv.mbx else none) err (65536 * p) 65536 d
    let d := match bad with
      | some e => dropMove mv e.1.toNat d
      | none => finishMoves (switchMove mv d)
    if mv.kind = 2 then pageMoveStep mv.mbx d else d

def execMoveCopyDone (page : Page) (s : State) (err : TierErr := none) : Host.Outcome State Fault Refusal :=
  .next (s.upd (moveCopyDone page.toNat err))

/-- AFFINITY_DECAY_SWEEP (R242): once per DECAY_S seconds. -/
def decaySweep (d : Device) : Device :=
  let n := d.tiers.decayS.toNat
  if n = 0 || d.now < d.tiers.decayAt + 1000000 * n || !meridianRuns d then d
  else
    let d := d.tiers.table.foldl (fun d r => d.setRes r.1 (setField (d.res r.1) 8 8 (resAffinity (d.res r.1) / 2))) d
    { d with tiers := { d.tiers with decayAt := d.now } }

def execAffinityDecaySweep (s : State) : Host.Outcome State Fault Refusal := .next (s.upd decaySweep)

/-! ### Patrol scrub and refresh (R227, R230) -/

/-- The page whose frame lies at a place of a near tier. -/
def pageAt (d : Device) (unit frame : Nat) : Option Nat :=
  (d.tiers.table.find? (fun r =>
    let e := d.res r.1
    resValid e && resTier e != 0 && resUnit e = unit && resFrame e = frame)).map (·.1)

/-- PATROL_SCRUB: an entry of a near tier is read. -/
def patrolScrub (c frame entry : Nat) (err : Ecc) (d : Device) : Device :=
  match err with
  | .corrected => { d with tiers := { d.tiers with ntCorr := satAdd d.tiers.ntCorr 1 } }
  | .uncorrected =>
    match pageAt d c frame with
    | some p => tierError none none true (65536 * p + 512 * entry) 0 d
    | none => log 0x20 0 (2 ^ 40 - 1 + (1 <<< 72)) d
  | _ => d

def execPatrolScrub (core : Fin 16) (frame : BitVec 18) (entry : Fin 128) (err : Ecc) (s : State) :
    Host.Outcome State Fault Refusal :=
  .next (s.upd (patrolScrub core.val frame.toNat entry.val err))

/-- REFRESH takes channel time and changes nothing else (R227). -/
def execRefresh (_ : Fin 16) (_ : Fin 32) (s : State) : Host.Outcome State Fault Refusal := .next s

end Sys2Proof.Machine
end

