-- ==== Sys2Proof/Machine/Sequencer.lean ====
section
/-!
DEFINITION. Machine/Sequencer.lean: how a core sequencer walks its Ephemeris, the entries that are not
synchronization operations, and the suspend and halt messages (R44, R45, R348 to R357).
-/
namespace Sys2Proof.Machine

/-! ### Entries (Tables 11.1 and 11.2) -/

/-- The entry in progress, or next to start. -/
def Seq.now (q : Seq) : BitVec 256 := Ram.read q.entries q.entry

def ephKind (v : BitVec 256) : Nat := bitsOf v.toNat 128 4

def ephBits (v : BitVec 256) (lo w : Nat) : Nat := bitsOf v.toNat lo w

/-- OP of a SYNC entry (Table 9.1), and the kind of any other entry above it: 0x100 times KIND. -/
def ephCode (v : BitVec 256) : Nat := if ephKind v = 3 then ephBits v 0 8 else 256 * (ephKind v + 1)

def codeNop : Nat := 0x100
def codeUnits : Nat := 0x200
def codeStream : Nat := 0x300
def codeChunk : Nat := 0x500
def codeMark : Nat := 0x600

/-- The sequencer walks its entries. -/
def Seq.walks (q : Seq) : Bool := q.state = .issuing || q.state = .waiting

/-- The trip count in force (R353). -/
def Core.trips (x : Core) : Nat := tripsOf x x.seq.lenReg x.seq.trips

/-- The position after the entry in progress has retired (R353). -/
def afterEntry (trips : Nat) (q : Seq) : Seq :=
  let loops := q.entry = q.cycleLast && q.cycleFirst ≤ q.entry
  let done := if loops then q.tripsDone + 1 else q.tripsDone
  let next := if loops && done < trips then q.cycleFirst else q.entry + 1
  let next := if next = q.cycleFirst && trips = 0 then q.cycleLast + 1 else next
  { q with entry := next, tripsDone := done, started := false, acted := false, unitsLeft := [], waitDone := false,
           retired := satNat 48 q.retired 1, state := if next < q.count then .issuing else .finished }

/-- The sequencer at entry 0 of a command (R353), with the counts of the command at zero. -/
def startSeq (x : Core) : Core :=
  let first := if x.seq.cycleFirst = 0 && x.trips = 0 then x.seq.cycleLast + 1 else 0
  { x with quiesce := 0
           seq := { x.seq with entry := first, tripsDone := 0, started := false, acted := false, unitsLeft := [],
                               waitDone := false, chunks := 0, rounds := [], stopAt := none, markEpoch := false
                               epochStop := false
                               state := if first < x.seq.count then .issuing else .finished } }

def Device.updSeq (d : Device) (c : Nat) (f : Seq → Seq) : Device := d.updCore c (fun x => { x with seq := f x.seq })

/-- The entry in progress retires (R352, R363). -/
def retireEntry (c : Nat) (d : Device) : Device :=
  progressed c false (d.updCore c (fun x => { x with seq := afterEntry x.trips x.seq }))

/-- What an entry does: it acts, and says whether it retires. -/
abbrev EntryAct := Section → Nat → BitVec 256 → Device → Device × Bool

/-- One turn of the entry in progress or next to start, when its code is `code`: a control message that is due goes
first (R44); an entry that does not retire waits. -/
def entryTurn (code : Nat) (act : EntryAct) (c : Nat) (d : Device) : Device :=
  let x := d.core c
  match coreSection d c with
  | some sec =>
    if x.seq.walks && ephCode x.seq.now = code && (x.seq.started || d.ctrl c = []) then
      let r := act sec c x.seq.now (d.updSeq c (fun q => { q with started := true }))
      if r.2 then retireEntry c r.1 else r.1.updSeq c (fun q => { q with state := .waiting })
    else d
  | none => d

/-- R299: every store stream of the core has ended. -/
def drained (d : Device) (c : Nat) : Bool := (d.core c).slots.all (fun e => !(e.2.active && sdStore e.2.words))

/-! ### NOP, MARK, STREAM and CHUNK -/

def execEphemerisNop (core : Fin 16) (s : State) : Host.Outcome State Fault Refusal :=
  .next (s.upd (entryTurn codeNop (fun _ _ _ d => (d, true)) core.val))

/-- MARK: the milestone report. -/
def actMark (sec : Section) (_ : Nat) (v : BitVec 256) (d : Device) : Device × Bool :=
  match liveMbx d sec with
  | some m =>
    let k := ephBits v 0 16
    (d.updMb m (fun x => if x.milestones.contains k then x else { x with milestones := x.milestones ++ [k] }), true)
  | none => (d, true)

def execMark (core : Fin 16) (s : State) : Host.Outcome State Fault Refusal :=
  .next (s.upd (entryTurn codeMark actMark core.val))

/-- R254: a stream starts in a slot whose previous stream has ended. -/
def startStream (c desc slot : Nat) (d : Device) : Device :=
  d.updCore c (fun x =>
    let w := Ram.read x.streamTab desc
    let n := sdCounts x.lens w
    let s := Tab.getD x.slots slot {}
    let s := { s with desc := desc, words := w, c0 := n.1, c1 := n.2.1, c2 := n.2.2, tile := 0, sent := [], reqTile := 0,
                      reqIdx := 0, written := 0, pending := 0 }
    { x with slots := Tab.set x.slots slot { s with active := decide (0 < s.total) } })

def actStream (_ : Section) (c : Nat) (v : BitVec 256) (d : Device) : Device × Bool :=
  if (d.slot c (ephBits v 8 4)).active then (d, false) else (startStream c (ephBits v 0 8) (ephBits v 8 4) d, true)

def execStream (core : Fin 16) (s : State) : Host.Outcome State Fault Refusal :=
  .next (s.upd (entryTurn codeStream actStream core.val))

/-- R357: the lowest number of CHUNK entries retired among the cores of CHUNK_MASK. -/
def chunkCount (d : Device) (sec : Section) : Nat :=
  (((List.range sec.cores.length).filter (fun l => bitOf (chunkMask sec.pkg) l)).map (fun l =>
    (d.core (sec.phys l)).seq.chunks)).min?.getD 0

/-- CHUNK: the report of the core, and the chunks that it commits. -/
def actChunk (sec : Section) (c : Nat) (_ : BitVec 256) (d : Device) : Device × Bool :=
  if !drained d c then (d, false)
  else
    let was := chunkCount d sec
    let d := d.updSeq c (fun q => { q with chunks := satNat 32 q.chunks 1 })
    let more := chunkCount d sec - was
    match liveMbx d sec with
    | some m =>
      if more = 0 then (d, true)
      else
        (d.updMb m (fun x => { x with
          progress := satAdd x.progress more, state := if x.state = .running then .partial_ else x.state }), true)
    | none => (d, true)

def execChunk (core : Fin 16) (s : State) : Host.Outcome State Fault Refusal :=
  .next (s.upd (entryTurn codeChunk actChunk core.val))

/-! ### UNITS (R350, R78) -/

/-- Rows that a UNIT_MASK names. -/
def maskRows (mask : Nat) : List Nat := (List.range 8).filter (fun r => bitsOf mask (8 * r) 8 != 0)

/-- Physical columns of a row to which no logical unit maps (R284). -/
def spareCols (sec : Section) (l row : Nat) : List Nat :=
  spareIn (colsAt sec l) row

/-- Columns of a row's logical units whose context no image names: its frames are generated too (R556, R284). -/
def emptyCols (sec : Section) (l row ctx : Nat) : List Nat :=
  ((List.range 8).filter (fun k => (firstImage sec.pkg l row k ctx).isNone)).map (fun k => sec.l2p.getD (64 * l + 8 * row + k) 0)

/-- The units named: (unit, image index), bit 8 * row + column of the mask in ascending order. -/
def namedUnits (sec : Section) (l mask first : Nat) : List (Nat × Nat) :=
  (((List.range 64).filter (fun b => bitOf mask b)).zipIdx).map (fun e =>
    (80 * sec.phys l + 10 * (e.1 / 8) + sec.l2p.getD (64 * l + e.1) 0, first + e.2))

/-- The first image of a UNITS entry that lies in a row. -/
def rowImage (mask first row : Nat) : Nat :=
  first + ((List.range (8 * row)).filter (fun b => bitOf mask b)).length

/-- A reload that has not begun. -/
def askReload (u ctx image : Nat) (d : Device) : Device :=
  d.updUnit u (fun x => { x with reload := some { ctx := ctx, image := image, begun := false, count := 0, writes := [] } })

def askSwitch (u ctx : Nat) (d : Device) : Device := d.updUnit u (fun x => { x with switchReq := some ctx })

/-- The units that a UNITS entry names, with their images. -/
def unitsNamed (sec : Section) (l : Nat) (v : BitVec 256) : List (Nat × Nat) := namedUnits sec l (ephBits v 0 64) (ephBits v 68 19)

/-- The units of the spare columns of its rows, with their row. -/
def unitsSpare (sec : Section) (c l : Nat) (v : BitVec 256) : List (Nat × Nat) :=
  (maskRows (ephBits v 0 64)).flatMap (fun r =>
    (spareCols sec l r).map (fun p => (80 * c + 10 * r + p, r)))

/-- The units of its rows whose context no image names, with their row. -/
def unitsEmpty (sec : Section) (c l : Nat) (v : BitVec 256) : List (Nat × Nat) :=
  (maskRows (ephBits v 0 64)).flatMap (fun r => (emptyCols sec l r (ephBits v 64 2)).map (fun p => (80 * c + 10 * r + p, r)))

/-- A UNITS entry starts: reloads with the generated frames of the rows named, or switches.  The spare columns of a
row switch with it (log entry 25). -/
def startUnits (sec : Section) (c : Nat) (v : BitVec 256) (d : Device) : Device :=
  let l := (d.core c).logical
  let ctx := ephBits v 64 2
  let action := ephBits v 66 2
  let frames := fun r => 2 ^ 20 + imgLayout sec.pkg (rowImage (ephBits v 0 64) (ephBits v 68 19) r)
  let named := unitsNamed sec l v
  let spare := unitsSpare sec c l v
  let reload := action = 1 || action = 2
  let switch := action = 0 || action = 2
  let d := if reload then
      let d := named.foldl (fun d e => askReload e.1 ctx e.2 d) d
      (spare ++ unitsEmpty sec c l v).foldl (fun d e => askReload e.1 ctx (frames e.2) d) d
    else d
  let d := if switch then spare.foldl (fun d e => askSwitch e.1 ctx d) d else d
  let d := if switch && !reload then named.foldl (fun d e => askSwitch e.1 ctx d) d else d
  d.updSeq c (fun q => { q with acted := true, unitsLeft := named.map (fun e => 4 * e.1 + 2 * bit01 reload + bit01 switch) })

/-- One look at the units that are left: after its reload a unit is told to switch. -/
def stepUnits (c ctx : Nat) (d : Device) : Device :=
  let r := (d.core c).seq.unitsLeft.foldl (fun (a : Device × List Nat) k =>
    let u := k / 4
    let x := a.1.unit u
    if bitOf k 1 then
      if x.reload.isSome then (a.1, a.2 ++ [k])
      else if bitOf k 0 then (askSwitch u ctx a.1, a.2 ++ [k - 2]) else a
    else if x.switchReq.isSome then (a.1, a.2 ++ [k]) else a) (d, [])
  r.1.updSeq c (fun q => { q with unitsLeft := r.2 })

/-- Table 14.7: a UNITS entry that names a unit of a region being loaded waits. -/
def regionWaits (sec : Section) (c : Nat) (v : BitVec 256) (d : Device) : Bool :=
  let x := d.core c
  !x.seq.acted && x.cfg.open_ && x.cfg.mode = 2
    && (namedUnits sec x.logical (ephBits v 0 64) 0).any (fun e => bitOf x.cfg.units (e.1 % 80))

/-- The context port of a unit that a UNITS entry would ask still holds what an earlier entry asked of it, as it may at
a spare or an empty column, for which no entry waits (R54, R73, R76). -/
def portsBusy (sec : Section) (c : Nat) (v : BitVec 256) (d : Device) : Bool :=
  !(d.core c).seq.acted && ((unitsNamed sec (d.core c).logical v).map (·.1) ++ (unitsSpare sec c (d.core c).logical v).map (·.1)
      ++ (unitsEmpty sec c (d.core c).logical v).map (·.1)).any (fun u =>
    (d.unit u).reload.isSome || (d.unit u).switchReq.isSome)

/-- A UNITS entry that names a unit of a region being loaded stays before its start (Table 14.7), and so does one whose
units still have an earlier entry's reload or switch to make. -/
def actUnits (sec : Section) (c : Nat) (v : BitVec 256) (d : Device) : Device × Bool :=
  if regionWaits sec c v d || portsBusy sec c v d then (d, false)
  else
    let d := if (d.core c).seq.acted then stepUnits c (ephBits v 64 2) d else startUnits sec c v d
    (d, (d.core c).seq.unitsLeft = [])

def execUnits (core : Fin 16) (s : State) : Host.Outcome State Fault Refusal :=
  .next (s.upd (entryTurn codeUnits actUnits core.val))

/-! ### Suspend and halt (R44, R45, R300, R352) -/

/-- The sequencer stands at an entry boundary: no entry is in progress, or one that waits and is not UNITS. -/
def atBoundary (q : Seq) : Bool := !q.started || (q.state = .waiting && ephCode q.now != codeUnits)

/-- The semaphore operation and the wait of a core leave its tally: an abandoned wait (R300). -/
def dropWait (c : Nat) (d : Device) : Device :=
  { d with quads := d.quads.map (fun e => (e.1, { e.2 with
      waits := e.2.waits.filter (fun w => w.src != c)
      ops := e.2.ops.filter (fun w => !(w.src = c && w.op = 3)) })) }

/-- Stop at the boundary; what the entry has done is not repeated, save a semaphore wait, which is issued again. -/
def stopSeq (st : SeqState) (c : Nat) (d : Device) : Device :=
  let wait := ephCode (d.core c).seq.now = 0x03
  (dropWait c d).updSeq c (fun q =>
    if q.walks then
      { q with state := st, started := false, acted := q.acted && !wait, waitDone := false }
    else if st = .halted then { q with state := .halted } else q)

/-- A suspended core goes on from its boundary (R363, R366); one that has stopped at the end of an epoch does not
(Order 4 of Table 12.8). -/
def continueSeq (q : Seq) : Seq :=
  if q.state = .suspended && !q.epochStop then { q with state := if q.entry < q.count then .issuing else .finished } else q

/-- A resume message that is the core's next one takes effect: the core stands at a boundary. -/
def takeResume (c : Nat) (d : Device) : Device :=
  if (d.ctrl c).head? = some .resume then (d.setCtrl c (d.ctrl c).tail).updSeq c continueSeq else d

/-- Meridian sends a core the resume message (R37, R39, R366). -/
def sendResume (c : Nat) (d : Device) : Device := takeResume c (pushCtrl c [.resume] d)

/-- The oldest control message has been acted on. -/
def popCtrl (c : Nat) (d : Device) : Device := d.setCtrl c (d.ctrl c).tail

/-- SUSPEND_MESSAGE: a UNITS entry completes first. -/
def suspendMessage (c : Nat) (d : Device) : Device :=
  let x := d.core c
  if (d.ctrl c).head? = some .suspend && atBoundary x.seq then takeResume c (stopSeq .suspended c (popCtrl c d)) else d

def execSuspendMessage (core : Fin 16) (s : State) : Host.Outcome State Fault Refusal :=
  .next (s.upd (suspendMessage core.val))

/-- A UNITS entry is abandoned: what its units have not begun is withdrawn (R352). -/
def abandonUnits (c : Nat) (d : Device) : Device :=
  (d.core c).seq.unitsLeft.foldl (fun d k => d.updUnit (k / 4) (fun x =>
    { x with switchReq := none, reload := x.reload.filter (fun r => r.begun) })) d

/-- Suspend and resume, which a halt overtakes (R352). -/
def CtrlMsg.overtaken (m : CtrlMsg) : Bool := m = .suspend || m = .resume

/-- A halt is the next message once those that it overtakes are left out. -/
def haltDue (ms : List CtrlMsg) : Bool := (ms.dropWhile CtrlMsg.overtaken).head? = some .halt

/-- HALT_MESSAGE: also acted on while a UNITS entry waits; the core's streams stop (R45, R352, R427). -/
def haltMessage (c : Nat) (d : Device) : Device :=
  let q := (d.core c).seq
  if haltDue (d.ctrl c) && (atBoundary q || q.state = .waiting) then
    haltCore c (stopSeq .halted c (abandonUnits c (d.setCtrl c ((d.ctrl c).dropWhile CtrlMsg.overtaken).tail)))
  else d

def execHaltMessage (core : Fin 16) (s : State) : Host.Outcome State Fault Refusal :=
  .next (s.upd (haltMessage core.val))

end Sys2Proof.Machine
end

