-- ==== Sys2Proof/Machine/SyncChannels.lean ====
section
/-!
DEFINITION. Machine/SyncChannels.lean: semaphores, barriers and message channels (R297 to R319).
-/
namespace Sys2Proof.Machine

/-! ### Semaphores (R301 to R303) -/

/-- An operation travels to the tally of the quadrant that holds its semaphore. -/
def sendTally (sec : Section) (c op : Nat) (v : BitVec 256) (d : Device) : Device :=
  let home := sec.phys (ephBits v 8 4)
  let t : TallyOp := { src := c, sem := 1024 * (home % 4) + ephBits v 12 10, op := op, n := BitVec.ofNat 32 (ephBits v 32 32) }
  d.updQuad (home / 4) (fun q => { q with ops := q.ops ++ [t] })

/-- DRAIN is met, or is not asked for (R299). -/
def drainMet (d : Device) (c : Nat) (v : BitVec 256) : Bool := !v.getLsbD 31 || drained d c

/-- SEM_ADD and SEM_SUB. -/
def actSem (op : Nat) (sec : Section) (c : Nat) (v : BitVec 256) (d : Device) : Device × Bool :=
  if drainMet d c v then (sendTally sec c op v d, true) else (d, false)

def execSemAdd (core : Fin 16) (s : State) : Host.Outcome State Fault Refusal :=
  .next (s.upd (entryTurn 0x01 (actSem 1) core.val))

def execSemSub (core : Fin 16) (s : State) : Host.Outcome State Fault Refusal :=
  .next (s.upd (entryTurn 0x02 (actSem 2) core.val))

/-- SEM_WAIT_GE: the wait goes to the tally once, and the entry retires when it is released. -/
def actSemWait (sec : Section) (c : Nat) (v : BitVec 256) (d : Device) : Device × Bool :=
  let q := (d.core c).seq
  if q.waitDone then (d, true)
  else if q.acted then (d, false)
  else ((sendTally sec c 3 v d).updSeq c (fun q => { q with acted := true }), false)

def execSemWaitGe (core : Fin 16) (s : State) : Host.Outcome State Fault Refusal :=
  .next (s.upd (entryTurn 0x03 actSemWait core.val))

/-- A wait is met: signed value at least signed N. -/
def waitMet (v n : BitVec 32) : Bool := decide (n.toInt ≤ v.toInt)

/-- Release a core's wait. -/
def releaseWait (c : Nat) (d : Device) : Device := d.updSeq c (fun q => { q with waitDone := true })

/-- TALLY_OPERATION: the operation that arrived first; every change re-evaluates the waits of its semaphore. -/
def tallyOperation (k : Nat) (d : Device) : Device :=
  let q := d.quad k
  match q.ops with
  | [] => d
  | t :: rest =>
    let old := Ram.read q.sems t.sem
    let v := if t.op = 1 then old + t.n else if t.op = 2 then old - t.n else old
    let waits := if t.op = 3 then q.waits ++ [t] else q.waits
    let freed := waits.filter (fun w => w.sem = t.sem && waitMet v w.n)
    let q' := { q with ops := rest, sems := Ram.write q.sems t.sem v, waits := waits.filter (fun w => !freed.contains w),
                       opCount := satNat 48 q.opCount 1 }
    freed.foldl (fun d w => releaseWait w.src d) (d.updQuad k (fun _ => q'))

def execTallyOperation (q : Fin 4) (s : State) : Host.Outcome State Fault Refusal := .next (s.upd (tallyOperation q.val))

/-! ### Barriers (R304 to R307, R399, R404) -/

/-- PARTICIPANTS and SYSTEM of a barrier (R304). -/
def barCores (sec : Section) (b : Nat) : List Nat :=
  ((List.range sec.cores.length).filter (fun l => bitOf (barrierEntry sec.pkg b) l)).map sec.phys

def barSystem (sec : Section) (b : Nat) : Bool := bitOf (barrierEntry sec.pkg b) 16

/-- PARTICIPANTS covers every logical core. -/
def barCovers (sec : Section) (b : Nat) : Bool := (List.range sec.cores.length).all (fun l => bitOf (barrierEntry sec.pkg b) l)

def barKey (level handle b round : Nat) : Nat := level * 2 ^ 41 + handle * 2 ^ 9 + 2 * b + round % 2

/-- An arrival travels to level 0 to 3 (supervisors) or 4 (device root). -/
def postArrival (level : Nat) (m : BarMsg) (d : Device) : Device :=
  { d with sync := { d.sync with arrivals := Tab.set d.sync.arrivals level (Tab.getD d.sync.arrivals level [] ++ [m]) } }

/-- Releases travel to the participating cores. -/
def postRelease (c : Nat) (m : BarMsg) (d : Device) : Device :=
  { d with sync := { d.sync with releases := Tab.set d.sync.releases c (Tab.getD d.sync.releases c [] ++ [m]) } }

/-- Rounds of a barrier that a core has arrived at, and that have been released to it. -/
def Seq.arrived (q : Seq) (b : Nat) : Nat := Tab.getD q.rounds (2 * b) 0
def Seq.released (q : Seq) (b : Nat) : Nat := Tab.getD q.rounds (2 * b + 1) 0

/-- R306: the tree holds two rounds of a barrier; the core's next arrival fits. -/
def mayArrive (q : Seq) (b : Nat) : Bool := q.arrived b ≤ q.released b + 1

/-- R407: the core stops before its next arrival at a SYSTEM barrier. -/
def lossStops (sec : Section) (b : Nat) : Bool := sec.lossStop && barSystem sec b

/-- The arrival of a core for its next round. -/
def arrive (sec : Section) (c b : Nat) (d : Device) : Device :=
  let n := (d.core c).seq.arrived b
  let m : BarMsg := { handle := sec.handle, barrier := b, round := n, end_ := c, stop := false, epoch := false }
  (postArrival (c / 4) m d).updSeq c (fun q => { q with acted := true, rounds := Tab.set q.rounds (2 * b) (n + 1) })

/-- The part of BAR_ARRIVE and BAR_ARRIVE_WAIT that sends the arrival; true once it is sent. -/
def tryArrive (sec : Section) (c : Nat) (v : BitVec 256) (d : Device) : Device × Bool :=
  let b := ephBits v 8 8
  if (d.core c).seq.acted then (d, true)
  else if drainMet d c v && mayArrive (d.core c).seq b then (arrive sec c b d, true)
  else (d, false)

/-- The round of the core's latest arrival at the barrier has been released. -/
def roundReleased (d : Device) (c b : Nat) : Bool := (d.core c).seq.arrived b ≤ (d.core c).seq.released b

def actBarArrive (sec : Section) (c : Nat) (v : BitVec 256) (d : Device) : Device × Bool := tryArrive sec c v d

def actBarWait (_ : Section) (c : Nat) (v : BitVec 256) (d : Device) : Device × Bool := (d, roundReleased d c (ephBits v 8 8))

def actBarArriveWait (sec : Section) (c : Nat) (v : BitVec 256) (d : Device) : Device × Bool :=
  let r := tryArrive sec c v d
  (r.1, r.2 && roundReleased r.1 c (ephBits v 8 8))

/-- R407: a core stops before an arrival at a SYSTEM barrier that it has not sent, and abandons a wait there. -/
def stopsForLoss (d : Device) (c code : Nat) : Bool :=
  let x := d.core c
  match coreSection d c with
  | some sec =>
    x.seq.walks && ephCode x.seq.now = code && lossStops sec (ephBits x.seq.now 8 8)
      && (code != 0x11 || x.seq.started)
  | none => false

/-- The core stops after the wait that retires on a marked release (Tables 11.8 and 12.8). -/
def stopAtMark (c b : Nat) (d : Device) : Device :=
  let q := (d.core c).seq
  if q.stopAt = some (b, q.arrived b - 1) && q.walks then
    d.updSeq c (fun q => { q with state := .suspended, stopAt := none, markEpoch := false, epochStop := q.markEpoch })
  else d

/-- A BAR entry's turn. -/
def barTurn (code : Nat) (act : EntryAct) (c : Nat) (d : Device) : Device :=
  if stopsForLoss d c code then stopSeq .suspended c d
  else
    let x := d.core c
    let d' := entryTurn code act c d
    if code != 0x10 && x.seq.walks && ephCode x.seq.now = code && (d'.core c).seq.retired != x.seq.retired then
      stopAtMark c (ephBits x.seq.now 8 8) d'
    else d'

def execBarArrive (core : Fin 16) (s : State) : Host.Outcome State Fault Refusal :=
  .next (s.upd (barTurn 0x10 actBarArrive core.val))

def execBarWait (core : Fin 16) (s : State) : Host.Outcome State Fault Refusal :=
  .next (s.upd (barTurn 0x11 actBarWait core.val))

def execBarArriveWait (core : Fin 16) (s : State) : Host.Outcome State Fault Refusal :=
  .next (s.upd (barTurn 0x12 actBarArriveWait core.val))

/-- Release a round to the cores of this device.  Table 11.8: a stop request marks the next covering round, in a
section with LINK_ROUTES that of a SYSTEM barrier. -/
def releaseLive (sec : Section) (b round : Nat) (epoch : Bool) (d : Device) : Device :=
  let stop := sec.markNext && barCovers sec b && (!hasLinks sec.pkg || barSystem sec b)
  let d := d.updSection sec.handle (fun s => { s with markNext := s.markNext && !stop, epochEnd := s.epochEnd || epoch })
  let cs := barCores sec b
  let d := [0, 1, 2, 3].foldl (fun d q =>
    if cs.any (fun c => c / 4 = q) then d.updQuad q (fun x => { x with barReleases := satNat 48 x.barReleases 1 }) else d) d
  cs.foldl (fun d c =>
    postRelease c { handle := sec.handle, barrier := b, round := round, end_ := c, stop := stop, epoch := epoch } d) d

/-- A SYSTEM release reaches a pre-empted section in its save, where its cores' counts stand (R307, R362). -/
def releaseSaved (sec : Section) (b : Nat) (epoch : Bool) (v : Save) : Save :=
  { v with cores := v.cores.map (fun e =>
      if bitOf (barrierEntry sec.pkg b) e.1 then
        (e.1, { e.2 with seq := { e.2.seq with
          rounds := Tab.set e.2.seq.rounds (2 * b + 1) (Tab.getD e.2.seq.rounds (2 * b + 1) 0 + 1)
          stopAt := if epoch then some (b, e.2.seq.released b) else e.2.seq.stopAt
          markEpoch := epoch || e.2.seq.markEpoch } })
      else e) }

/-- A round is released to the section's own cores. -/
def releaseLocal (sec : Section) (b round : Nat) (epoch : Bool) (d : Device) : Device :=
  match sec.save with
  | some v => d.updSection sec.handle (fun s => { s with save := some (releaseSaved sec b epoch v), epochEnd := s.epochEnd || epoch })
  | none => releaseLive sec b round epoch d

/-- ARG of a barrier packet (Table 12.5). -/
def barArg (b round : Nat) (flag : Bool) : Nat := b + ((round % 2) <<< 8) + (bit01 flag <<< 9)

/-- A SYSTEM round is released to the children's nodes and to this device (R305, R399). -/
def releaseSystem (sec : Section) (b round : Nat) (epoch : Bool) (d : Device) : Device :=
  let d := d.set.children.foldl (fun d n => sendPacket (setPacket d 0x11 n (barArg b round epoch) 0 0) d) d
  releaseLocal sec b round epoch d

/-- A supervisor has counted an arrival of every participating core of its quadrant. -/
def supDone (sec : Section) (q b : Nat) (arrived : List Nat) : Bool :=
  ((barCores sec b).filter (fun c => c / 4 = q)).all arrived.contains

/-- The device root has counted every quadrant that takes part and, for a SYSTEM barrier, every child node. -/
def rootDone (d : Device) (sec : Section) (b : Nat) (arrived : List Nat) : Bool :=
  (barCores sec b).all (fun c => arrived.contains (c / 4))
    && (!barSystem sec b || d.set.children.all (fun n => arrived.contains (16 + n)))

def setCount (k : Nat) (x : BarCount) (d : Device) : Device := { d with sync := { d.sync with counts := Tab.set d.sync.counts k x } }
def clearCount (k : Nat) (d : Device) : Device := { d with sync := { d.sync with counts := Tab.erase d.sync.counts k } }

/-- What the device root does once a round is complete here (R305, Orders 2 and 3 of Table 12.8).  An arrival goes to
the parent node once a round, also when a resumption counts the cores again (level 5 of the counts). -/
def rootComplete (sec : Section) (b round : Nat) (epoch : Bool) (d : Device) : Device :=
  if !barSystem sec b then releaseLocal sec b round false d
  else
    let e := b = linkEpochBarrier sec.pkg && (epoch || d.set.epochReq = 1)
    match d.set.parent with
    | some p =>
      let k := barKey 5 sec.handle b round
      if (Tab.find d.sync.counts k).isSome then d
      else setCount k {} (sendPacket (setPacket d 0x10 p (barArg b round e) 0 0) d)
    | none => releaseSystem sec b round e d

/-- An arrival is counted at a level. -/
def countArrival (level : Nat) (sec : Section) (m : BarMsg) (d : Device) : Device :=
  let k := barKey level m.handle m.barrier m.round
  let x := Tab.getD d.sync.counts k {}
  let x := { x with arrived := if x.arrived.contains m.end_ then x.arrived else x.arrived ++ [m.end_], epoch := x.epoch || m.epoch }
  if level < 4 then
    if supDone sec level m.barrier x.arrived then postArrival 4 { m with end_ := level } (clearCount k d) else setCount k x d
  else if rootDone d sec m.barrier x.arrived then rootComplete sec m.barrier m.round x.epoch (clearCount k d)
  else setCount k x d

/-- BARRIER_ARRIVAL: the oldest arrival at a level. -/
def barrierArrival (level : Nat) (d : Device) : Device :=
  match Tab.getD d.sync.arrivals level [] with
  | [] => d
  | m :: rest =>
    let d := { d with sync := { d.sync with arrivals := Tab.set d.sync.arrivals level rest } }
    match d.section? m.handle with
    | some sec => countArrival level sec m d
    | none => d

def execBarrierArrival (level : Fin 5) (s : State) : Host.Outcome State Fault Refusal := .next (s.upd (barrierArrival level.val))

/-- BARRIER_RELEASE: the oldest release on its way to a core. -/
def barrierRelease (c : Nat) (d : Device) : Device :=
  match Tab.getD d.sync.releases c [] with
  | [] => d
  | m :: rest =>
    let d := { d with sync := { d.sync with releases := Tab.set d.sync.releases c rest } }
    d.updSeq c (fun q => { q with
      rounds := Tab.set q.rounds (2 * m.barrier + 1) (q.released m.barrier + 1),
      stopAt := if m.stop || m.epoch then some (m.barrier, q.released m.barrier) else q.stopAt
      markEpoch := m.epoch || q.markEpoch })

def execBarrierRelease (core : Fin 16) (s : State) : Host.Outcome State Fault Refusal := .next (s.upd (barrierRelease core.val))

/-! ### Channels: opening (R311 to R313) -/

/-- What a receiving channel unit does with an open request (Order 3 of Table 9.5). -/
inductive OpenAnswer where
  | hold
  | grant
  | refuse
deriving DecidableEq, Repr

def answerOpen (x : Ep) (slot gen : Nat) : OpenAnswer :=
  if (Tab.find x.held slot).isSome then .refuse
  else if x.state = .idle || x.gen < gen then .hold
  else if x.role = 1 && x.state = .listen && x.gen = gen && slot ≤ x.slot && (Tab.find x.granted slot).isNone then .grant
  else .refuse

/-- Hold, grant or refuse. -/
def takeOpen (sec : Section) (c : Nat) (src dst : EpName) (slot gen : Nat) (d : Device) : Device :=
  let x := d.ep c dst.ep
  match answerOpen x slot gen with
  | .hold => d.updEp c dst.ep (fun y => { y with held := Tab.set y.held slot (src, gen) })
  | .grant =>
    sendChan sec src (.grant src dst slot x.rxEntries)
      (d.updEp c dst.ep (fun y => { y with granted := Tab.set y.granted slot src }))
  | .refuse =>
    sendChan sec src (.refuse src dst slot)
      (d.updCore c (fun y => { y with fab := { y.fab with chRefused := satNat 32 y.fab.chRefused 1 } }))

/-- Order 4 of Table 9.5: every held request is examined again. -/
def reopen (sec : Section) (c e : Nat) (d : Device) : Device :=
  (d.ep c e).held.foldl (fun d h =>
    let d := d.updEp c e (fun y => { y with held := Tab.erase y.held h.1 })
    takeOpen sec c h.2.1 ⟨ownNode d, (d.core c).logical, e⟩ h.1 h.2.2 d) d

/-- A close that has fallen due at a receiving endpoint is carried out (R318). -/
def closeDue (sec : Section) (c e : Nat) (d : Device) : Device := if (d.ep c e).due then closeEndpoint sec c e d else d

/-- CH_LISTEN. -/
def actListen (sec : Section) (c : Nat) (v : BitVec 256) (d : Device) : Device × Bool :=
  let e := ephBits v 8 6
  let d := closeDue sec c e d
  let d := d.updEp c e (fun y => { y with
    role := 1, state := .listen, gen := ephBits v 14 8, slot := ephBits v 22 3, rxEntries := ephBits v 25 6 + 1,
    hchan := ephBits v 31 12, tap := ephBits v 43 6, ctx := ephBits v 49 2, granted := [], rx := [], marked := [],
    turn := 0, partway := false, msgTokens := 0, due := false, credits := 0, opened := false, ringHeld := 0, ringEnds := [],
    sentEnds := [] })
  (reopen sec c e d, true)

def execChListen (core : Fin 16) (s : State) : Host.Outcome State Fault Refusal :=
  .next (s.upd (entryTurn 0x20 actListen core.val))

/-- CH_OPEN: OVERFLOW_BASE is the entry's RELOC_ADDR (R351). -/
def actOpen (sec : Section) (c : Nat) (v : BitVec 256) (d : Device) : Device × Bool :=
  let e := ephBits v 8 6
  let node := if v.getLsbD 25 then ownNode d else ephBits v 26 10
  let dst : EpName := ⟨node, ephBits v 36 4, ephBits v 40 6⟩
  let src : EpName := ⟨ownNode d, (d.core c).logical, e⟩
  let d := closeDue sec c e d
  let d := d.updEp c e (fun y => { y with
    role := 2, state := .pending, gen := ephBits v 14 8, slot := ephBits v 22 3, dest := dst,
    hchan := ephBits v 46 12, tap := ephBits v 58 6, ctx := ephBits v 64 2, ringCap := ephBits v 66 14,
    ringBase := ephBits v 192 40, ringHead := 0, ringHeld := 0, ringEnds := [], sentEnds := [], credits := 0,
    opened := false, msgTokens := 0 })
  (sendChan sec dst (.open_ src dst (ephBits v 22 3) (ephBits v 14 8)) d, true)

def execChOpen (core : Fin 16) (s : State) : Host.Outcome State Fault Refusal :=
  .next (s.upd (entryTurn 0x21 actOpen core.val))

/-- CH_CLOSE: the connection goes to CLOSING, or the close of the receiving endpoint falls due. -/
def actClose (_ : Section) (c : Nat) (v : BitVec 256) (d : Device) : Device × Bool :=
  (d.updEp c (ephBits v 8 6) (fun y =>
    if v.getLsbD 14 then (if y.role = 1 && y.state = .listen then { y with due := true } else y)
    else if y.role = 2 && (y.state = .pending || y.state = .open_) then { y with state := .closing }
    else y), true)

def execChClose (core : Fin 16) (s : State) : Host.Outcome State Fault Refusal :=
  .next (s.upd (entryTurn 0x22 actClose core.val))

/-- The section and name of a core's endpoint. -/
def epName (d : Device) (c e : Nat) : EpName := ⟨ownNode d, (d.core c).logical, e⟩

/-- The oldest message on its way to a core has been taken; the tokens and closes behind it arrive (R42). -/
def popChan (c : Nat) (d : Device) : Device :=
  let d := setChan c (Tab.getD d.sync.chan c []).tail d
  match coreSection d c with
  | some sec => settleChan sec c (Tab.getD d.sync.chan c []).length d
  | none => d

/-- OPEN_REQUEST_RECEIVED. -/
def openReceived (c : Nat) (d : Device) : Device :=
  match (Tab.getD d.sync.chan c []).head?, coreSection d c with
  | some (.open_ src dst slot gen), some sec => takeOpen sec c src dst slot gen (popChan c d)
  | _, _ => d

def execOpenRequestReceived (core : Fin 16) (s : State) : Host.Outcome State Fault Refusal :=
  .next (s.upd (openReceived core.val))

/-! ### Channels: sending (R312, R315, R317) -/

/-- Address of the ring slot `i` tokens after the head. -/
def Ep.ringAddr (x : Ep) (i : Nat) : Nat := x.ringBase + 1024 * ((x.ringHead + i) % max 1 x.ringCap)

/-- A token goes into the connection on a credit. -/
def sendToken (sec : Section) (c e : Nat) (t : Token) (ends : Bool) (d : Device) : Device :=
  let x := d.ep c e
  let d := d.updEp c e (fun y => { y with credits := y.credits - 1, sentEnds := y.sentEnds ++ [ends] })
  let d := if x.dest.node = ownNode d then d else resetIdle c d
  sendChan sec x.dest (.token (epName d c e) x.dest x.slot t) d

/-- Tokens leave the ring in order while credits last; `n` bounds them. `err` is what their reads find. -/
def drainRing (sec : Section) (c e : Nat) (err : TierErr) : Nat → Device → Device
  | 0, d => d
  | n + 1, d =>
    let x := d.ep c e
    if 0 < x.credits && 0 < x.ringHeld && (x.state = .open_ || x.state = .closing) then
      let a := x.ringAddr 0
      let d := tierFound (liveMbx d sec) err a 1024 d
      match accessFault d a with
      | some code => streamFault sec.handle a 0 code d
      | none =>
        let t : Token := ⟨BitVec.ofNat 4096 (readLogical d a 512), BitVec.ofNat 32 (readLogical d (a + 512) 4)⟩
        let d := d.updEp c e (fun y => { y with
          ringHead := (y.ringHead + 1) % max 1 y.ringCap, ringHeld := y.ringHeld - 1, ringEnds := y.ringEnds.tail })
        drainRing sec c e err n (sendToken sec c e t (x.ringEnds.headD false) d)
    else d

/-- GRANT_RECEIVED: a grant opens the connection and its ring drains; a refusal closes it. -/
def grantReceived (c : Nat) (err : TierErr) (d : Device) : Device :=
  match (Tab.getD d.sync.chan c []).head?, coreSection d c with
  | some (.grant src dst slot n), some sec =>
    let d := popChan c d
    let d := d.updEp c src.ep (fun y =>
      if y.sendsTo dst slot && (y.state = .pending || (y.state = .closing && !y.opened)) then
        { y with credits := n, opened := true, state := if y.state = .pending then .open_ else y.state }
      else y)
    drainRing sec c src.ep err n d
  | some (.refuse src dst slot), some _ =>
    if (d.ep c src.ep).sendsTo dst slot then closeSender c src.ep false (popChan c d) else popChan c d
  | _, _ => d

def execGrantReceived (core : Fin 16) (s : State) (err : TierErr := none) : Host.Outcome State Fault Refusal :=
  .next (s.upd (grantReceived core.val err))

/-- CREDIT_RETURN: credits come back, and the ring drains. -/
def creditReturn (c : Nat) (err : TierErr) (d : Device) : Device :=
  match (Tab.getD d.sync.chan c []).head?, coreSection d c with
  | some (.credit src dst slot n), some sec =>
    let d := popChan c d
    let d := d.updEp c src.ep (fun y =>
      if !y.sendsTo dst slot then y
      else if y.state = .open_ || y.state = .closing then { y with credits := y.credits + n, sentEnds := y.sentEnds.drop n }
      else { y with sentEnds := y.sentEnds.drop n })
    drainRing sec c src.ep err n d
  | _, _ => d

def execCreditReturn (core : Fin 16) (s : State) (err : TierErr := none) : Host.Outcome State Fault Refusal :=
  .next (s.upd (creditReturn core.val err))

/-- A token enters its message: the count of its tokens, and whether an end is forced at the eighth (R310). -/
def countEntry (c e : Nat) (t : Token) (d : Device) : Device :=
  let x := d.ep c e
  let forced := x.msgTokens = 7 && !t.tileEnd
  let d := d.updEp c e (fun y => { y with msgTokens := if endsMessage x.msgTokens t then 0 else x.msgTokens + 1 })
  if forced then d.updCore c (fun y => { y with fab := { y.fab with chFraming := satNat 32 y.fab.chFraming 1 } }) else d

/-- A token goes to the overflow ring (R315). -/
def overflow (sec : Section) (c e : Nat) (t : Token) (ends : Bool) (d : Device) : Device :=
  let x := d.ep c e
  let a := x.ringAddr x.ringHeld
  match accessFault d a with
  | some code => streamFault sec.handle a 0 code d
  | none =>
    let d := writeLogical (a + 512) 512 t.tag.toNat (writeLogical a 512 t.payload.toNat d)
    let d := d.updEp c e (fun y => { y with ringHeld := y.ringHeld + 1, ringEnds := y.ringEnds ++ [ends] })
    let d := d.updCore c (fun y => { y with fab := { y.fab with chOverflow := satNat 48 y.fab.chOverflow 1 } })
    setDegraded sec.mbx d

/-- A dropped token; its message counts at the last one (R318). -/
def dropToken (c e : Nat) (ends : Bool) (d : Device) : Device :=
  if ends then d.updEp c e (fun y => { y with dropped := satNat 32 y.dropped 1, hadDrops := true }) else d

/-- CHANNEL_TOKEN_ENTRY: the token that waits at the tap of a sending endpoint. -/
def channelTokenEntry (c e : Nat) (d : Device) : Device :=
  let x := d.ep c e
  match coreSection d c, tapToken d c x.tap with
  | some sec, some (src, t) =>
    if x.role != 2 || t.chan != x.hchan || t.ctx != x.ctx then d
    else
      let ends := endsMessage x.msgTokens t
      let enter := fun d => countEntry c e t (tapTake c x.tap src d)
      match x.state with
      | .closed => dropToken c e ends (enter d)
      | .pending => if x.ringHeld < x.ringCap then overflow sec c e t ends (enter d) else d
      | .open_ | .closing =>
        if 0 < x.credits && x.ringHeld = 0 then sendToken sec c e t ends (enter d)
        else if x.ringHeld < x.ringCap then overflow sec c e t ends (enter d) else d
      | _ => d
  | _, _ => d

def execChannelTokenEntry (core : Fin 16) (ep : Fin 64) (s : State) : Host.Outcome State Fault Refusal :=
  .next (s.upd (channelTokenEntry core.val ep.val))

/-- CLOSE_MARKER (R317): the lowest CLOSING connection whose last message has been sent closes. -/
def closeMarker (c : Nat) (d : Device) : Device :=
  match coreSection d c, (d.core c).eps.find? (fun e =>
      e.2.role = 2 && e.2.state = .closing && e.2.opened && e.2.msgTokens = 0 && e.2.ringHeld = 0) with
  | some sec, some (e, x) =>
    sendChan sec x.dest (.close (epName d c e) x.dest x.slot 0) (d.updEp c e (fun y => { y with state := .closed }))
  | _, _ => d

def execCloseMarker (core : Fin 16) (s : State) : Host.Outcome State Fault Refusal := .next (s.upd (closeMarker core.val))

/-! ### Channels: delivery and closing (R314, R318) -/

/-- The slot whose turn it is: closed slots that hold nothing are skipped; none once every slot has closed. -/
def Ep.nextSlot (x : Ep) : Option Nat :=
  if x.partway then some x.turn
  else ((List.range (x.slot + 1)).map (fun i => (x.turn + i) % (x.slot + 1))).find? (fun s =>
    !(x.marked.contains s && Tab.getD x.rx s [] = []))

/-- MESSAGE_DELIVERY: one token of the message whose turn it is goes through the tap, and its credit returns. -/
def messageDelivery (c e : Nat) (d : Device) : Device :=
  let x := d.ep c e
  match coreSection d c, x.nextSlot with
  | some sec, some s =>
    match Tab.getD x.rx s [], Tab.find x.granted s with
    | t :: rest, some src =>
      if x.role = 1 && x.state = .listen && (x.partway || wholeMessage 0 (t :: rest)) && tapReady d c x.tap x.hchan x.ctx then
        let ends := endsMessage (if x.partway then x.msgTokens else 0) t
        let d := tapSend c x.tap ((t.withChan x.hchan).withCtx x.ctx) d
        let d := d.updEp c e (fun y => { y with
          rx := Tab.set y.rx s rest, partway := !ends,
          msgTokens := if ends then 0 else (if x.partway then x.msgTokens else 0) + 1,
          turn := if ends then (s + 1) % (x.slot + 1) else s })
        sendChan sec src (.credit src (epName d c e) s 1) d
      else d
    | _, _ => d
  | _, _ => d

def execMessageDelivery (core : Fin 16) (ep : Fin 64) (s : State) : Host.Outcome State Fault Refusal :=
  .next (s.upd (messageDelivery core.val ep.val))

/-- ENDPOINT_CLOSE: a close that CH_CLOSE with SIDE 1 made due. -/
def endpointClose (c e : Nat) (d : Device) : Device :=
  match coreSection d c with
  | some sec => closeDue sec c e d
  | none => d

def execEndpointClose (core : Fin 16) (ep : Fin 64) (s : State) : Host.Outcome State Fault Refusal :=
  .next (s.upd (endpointClose core.val ep.val))

end Sys2Proof.Machine
end

