-- ==== Sys2Proof/Machine/Training.lean ====
section
/-!
DEFINITION. Machine/Training.lean: the apply phase and the replica comparison (R332 to R344).
-/
namespace Sys2Proof.Machine

/-! ### The program of one element (R334, Table 10.5) -/

/-- The argument block (R333). -/
structure OptArgs where
  lr : BitVec 32
  beta1 : BitVec 32
  beta2 : BitVec 32
  eps : BitVec 32
  wd : BitVec 32
  c1 : BitVec 32
  c2 : BitVec 32
  gscale : BitVec 32
deriving DecidableEq, Repr

def optArgs (v : Nat) : OptArgs :=
  let w := fun i => BitVec.ofNat 32 (v >>> (32 * i))
  { lr := w 0, beta1 := w 1, beta2 := w 2, eps := w 3, wd := w 4, c1 := w 5, c2 := w 6, gscale := w 7 }

/-- +1.0 in FP32. -/
def oneF32 : BitVec 32 := 0x3F800000#32

/-- sign(u): +1.0, -1.0, +0 for either zero, NaN for NaN. -/
def signF32 (u : BitVec 32) : BitVec 32 :=
  match f32 u with
  | .nan => u
  | x => if x.isZero then 0 else if x.isNeg then 0xBF800000#32 else oneF32

/-- A new parameter and new states. -/
structure OptOut where
  w : BitVec 32
  m : BitVec 32
  v : BitVec 32
  counts : Counts
deriving DecidableEq, Repr

/-- beta * m + (1 - beta) * g. -/
def decayAdd (beta m g : BitVec 32) (c : Counts) : BitVec 32 × Counts :=
  let (a, c) := fmul true beta m c
  let (b, c) := fsub true oneF32 beta c
  let (b, c) := fmul true b g c
  fadd true a b c

/-- Direction and new states of an optimizer. -/
def optDirection (opt states : Nat) (a : OptArgs) (g m v : BitVec 32) (c : Counts) : BitVec 32 × BitVec 32 × BitVec 32 × Counts :=
  match opt with
  | 1 =>
    if states = 1 then
      let (x, c) := fmul true a.beta1 m c
      let (m, c) := fadd true x g c
      (m, m, v, c)
    else (g, m, v, c)
  | 2 =>
    let (m, c) := decayAdd a.beta1 m g c
    let (g2, c) := fmul true g g c
    let (v, c) := decayAdd a.beta2 v g2 c
    let (num, c) := fmul true m a.c1 c
    let (x, c) := fmul true v a.c2 c
    let (x, c) := ffunc true 1 2 (f32 x) c
    let (den, c) := fadd true x a.eps c
    let (d, c) := fdiv true num den c
    (d, m, v, c)
  | _ =>
    let (u, c) := decayAdd a.beta1 m g c
    let (m, c) := decayAdd a.beta2 m g c
    (signF32 u, m, v, c)

/-- One element of one tile. -/
def optElement (opt states : Nat) (a : OptArgs) (gacc w m v : BitVec 32) (c : Counts) : OptOut :=
  let (g, c) := fmul true a.gscale gacc c
  let (d, m, v, c) := optDirection opt states a g m v c
  let (x, c) := fmul true a.wd w c
  let (x, c) := fadd true d x c
  let (x, c) := fmul true a.lr x c
  let (w, c) := fsub true w x c
  { w := w, m := m, v := v, counts := c }

/-! ### One tile (R323 to R336) -/

/-- Number of states that a group keeps. -/
def gStates (m : Memory) (g : Nat) : Nat :=
  match gField m g 3 1 with
  | 1 => if gField m g 2 1 = 0xFF then 0 else 1
  | 2 => 2
  | _ => 1

/-- Elements of one tile. -/
def gElems (m : Memory) (g : Nat) : Nat := gRows m g * gCols m g

/-- Logical bytes of a region: pages that it touches. -/
def gradPages (sec : Section) (g k : Nat) : List Nat := pagesOf (gradAddr sec g k) (gGrad sec.pkg g)

def statePages (sec : Section) (g k : Nat) : List Nat :=
  let m := sec.pkg
  (List.range (gStates m g)).flatMap (fun s =>
    pagesOf (stateAddr sec g s (k * gElems m g)) (stateWidth m g * gElems m g))

/-- The first access of a list of pages that fails (R238, R339): the code, and the logical address: that of the error a
read has just found in the page, or the page's. -/
def pagesFault (err : TierErr) (d : Device) (ps : List Nat) : Option (BitVec 8 × Nat) :=
  ps.findSome? (fun p => (accessFault d (65536 * p)).map (fun e =>
    (e, match err with | some (x, _) => if x.toNat / 65536 = p then x.toNat else 65536 * p | none => 65536 * p)))

/-- R336, R181: how a value of an update is rounded. -/
def optMode (sec : Section) (seed : BitVec 64) (step : BitVec 32) (g kind e : Nat) : RMode :=
  if bitOf (gField sec.pkg g 7 1) 5 then .nearestEven
  else .stochastic (srDraw seed step (BitVec.ofNat 64 (e % 2 ^ 56 + (kind <<< 56) + (g <<< 58))))

/-- A region as 512-byte units. -/
def unitsOf (v n : Nat) : Array (BitVec 4096) := ((List.range n).map (fun i => BitVec.ofNat 4096 (v >>> (4096 * i)))).toArray

/-- Units as one number. -/
def unitsNat (us : List (BitVec 4096)) : Nat := us.foldr (fun u acc => u.toNat + (acc <<< 4096)) 0

/-- What the update of one tile writes: parameters, states, counts and blocks of scale 0xFF. -/
structure TileOut where
  params : List (BitVec 4096)
  m : Nat
  v : Nat
  counts : Counts
  nans : Nat
deriving DecidableEq, Repr

/-- One state value in its format, and where it goes. -/
def putState (fmt : Fmt) (mode : RMode) (w : Nat) (i : Nat) (x : BitVec 32) (acc : Nat × Counts) : Nat × Counts :=
  if fmt = .fp32 then (acc.1 + (x.toNat <<< (8 * w * i)), acc.2)
  else
    let e := fmt.convert mode (f32 x)
    (acc.1 + (e.bits <<< (8 * w * i)), { sat := acc.2.sat + e.sat, flush := acc.2.flush + e.flush })

/-- The new values of tile `k` of group `g`. -/
def updateTile (d : Device) (sec : Section) (seed : BitVec 64) (step : BitVec 32) (a : OptArgs) (g k : Nat) : TileOut :=
  let m := sec.pkg
  let sh := gShape m g
  let us := unitsOf (readLogical d (paramAddr sec g k) (512 * sh.units)) sh.units
  let gr := readLogical d (gradAddr sec g k) (gGrad m g)
  let w := stateWidth m g
  let sf : Fmt := if w = 4 then .fp32 else .bf16
  let n := gElems m g
  let st := fun s => readLogical d (stateAddr sec g s (k * n)) (w * n)
  let s0 := if 0 < gStates m g then st 0 else 0
  let s1 := if 1 < gStates m g then st 1 else 0
  let dec := fun (v i : Nat) => (roundF32 (sf.decode ((v >>> (8 * w * i)) % 2 ^ (8 * w)))).1
  let outs := (positions sh.rows sh.cols).foldl (fun (acc : Array OptOut × Counts) ij =>
    let i := ij.1 * sh.cols + ij.2
    let gacc := BitVec.ofNat 32 (gr >>> (32 * slabPos sh.rows sh.cols ij.1 ij.2))
    let x := sh.value true us ij.1 ij.2 acc.2
    let o := optElement (gField m g 3 1) (gStates m g) a gacc x.1 (dec s0 i) (dec s1 i) x.2
    (acc.1.push o, o.counts)) (#[], {})
  let at_ := fun (i : Nat) => outs.1.getD i ⟨0, 0, 0, {}⟩
  let base := k * n
  let cv := convertTile sh false (fun i j => some (f32 (at_ (i * sh.cols + j)).w)) id
    (fun i j => optMode sec seed step g 0 (base + i * sh.cols + j))
  let mm := (List.range n).foldl (fun acc i => putState sf (optMode sec seed step g 1 (base + i)) w i (at_ i).m acc) (0, {})
  let vv := (List.range n).foldl (fun acc i => putState sf (optMode sec seed step g 2 (base + i)) w i (at_ i).v acc) (0, {})
  let nans := if sh.dir = .none then 0 else
    ((List.range sh.blocks).filter (fun b => byteOf cv.units.toArray b = 0xFF)).length
  { params := cv.units, m := mm.1, v := vv.1, nans := nans
    counts := { sat := outs.2.sat + cv.counts.sat + mm.2.sat + vv.2.sat
                flush := outs.2.flush + cv.counts.flush + mm.2.flush + vv.2.flush } }

/-- R338: the tile is skipped. -/
def tileClean (d : Device) (sec : Section) (g k : Nat) : Bool :=
  bitOf (gField sec.pkg g 7 1) 3 && (paramPages sec g k).all (fun p => !(d.res p).getLsbD 4)

/-- An apply in progress: the device, the failure that ended it, and NAN_BLOCKS and TILES of the group. -/
structure ApplyAcc where
  dev : Device
  fail : Option (BitVec 8 × Nat)
  nans : Nat
  tiles : Nat
deriving DecidableEq, Repr

/-- The places that Order 3 reads for one tile: parameters, gradients and states. -/
def tileReads (sec : Section) (g k : Nat) : List (Nat × Nat) :=
  let m := sec.pkg
  let n := gElems m g
  let w := stateWidth m g
  [(paramAddr sec g k, 512 * (gShape m g).units), (gradAddr sec g k, gGrad m g)]
    ++ (List.range (gStates m g)).map (fun s => (stateAddr sec g s (k * n), w * n))

/-- Order 3 of Table 10.4 for one tile. -/
def applyTile (sec : Section) (err : TierErr) (seed : BitVec 64) (step : BitVec 32) (a : OptArgs) (g k : Nat)
    (acc : ApplyAcc) : ApplyAcc :=
  if acc.fail.isSome || tileClean acc.dev sec g k then acc
  else
    let d := (tileReads sec g k).foldl (fun d r => tierFound (liveMbx d sec) err r.1 r.2 d) acc.dev
    let d := { d with training := { d.training with group := BitVec.ofNat 6 g, tile := BitVec.ofNat 32 k } }
    match pagesFault err d (paramPages sec g k ++ gradPages sec g k ++ statePages sec g k) with
    | some e => { acc with dev := d, fail := some e }
    | none =>
      let m := sec.pkg
      let o := updateTile d sec seed step a g k
      let w := stateWidth m g
      let n := gElems m g
      let d := writeLogical (paramAddr sec g k) (512 * (gShape m g).units) (unitsNat o.params) d
      let d := if 0 < gStates m g then writeLogical (stateAddr sec g 0 (k * n)) (w * n) o.m d else d
      let d := if 1 < gStates m g then writeLogical (stateAddr sec g 1 (k * n)) (w * n) o.v d else d
      let d := writeLogical (gradAddr sec g k) (gGrad m g) 0 d
      let d := countGroup sec.handle g o.counts.sat o.counts.flush d
      let d := { d with training := { d.training with tiles := satAdd d.training.tiles 1, tile := BitVec.ofNat 32 (k + 1) } }
      { acc with dev := d, nans := satNat 32 acc.nans o.nans, tiles := satNat 32 acc.tiles 1 }

/-- R337: STATUS_ADDR of a group's record. -/
def statusAddr (sec : Section) (g : Nat) : Nat := fld sec.pkg (trainOff sec.pkg + 8) 8 + 32 * g

/-- Order 4: PENDING_GRAD of a group's parameter pages is cleared. -/
def clearPending (sec : Section) (g : Nat) (d : Device) : Device :=
  let i := gField sec.pkg g 0 1
  (List.range (segPages sec.pkg i)).foldl (fun d k =>
    let p := sec.segBase.getD i 0 + k
    d.setRes p (setField (d.res p) 4 1 0)) d

/-- The status record of a group, with ROOT of the last comparison. -/
def statusRecord (d : Device) (h : Nat) (step : BitVec 32) (g nans tiles : Nat) : Nat :=
  let c := Tab.getD d.training.counts (64 * h + g) (0, 0)
  step.toNat + (c.1 <<< 32) + (c.2 <<< 64) + (nans <<< 96) + (tiles <<< 128)
    + (Tab.getD d.training.roots (64 * h + g) 0 <<< 192)

/-- Order 2: the argument block of a group. -/
def argsAddr (sec : Section) (g : Nat) : Nat := gField sec.pkg g 0x18 8

/-- Pages that Order 2 reads. -/
def argsPages (sec : Section) : List Nat := (List.range (groupCount sec.pkg)).flatMap (fun g => pagesOf (argsAddr sec g) 32)

/-- The entries that writes of `n` bytes at offset `off` of the groups' status records cover in part are read first: what
that finds, and the first page that stops the writes (R228, R229). -/
def statusReads (sec : Section) (gs : List Nat) (off n : Nat) (err : TierErr) (d : Device) : Device × Option (BitVec 8 × Nat) :=
  let d := gs.foldl (fun d g => writeFound (liveMbx d sec) err (statusAddr sec g + off) n d) d
  (d, pagesFault err d (gs.flatMap (fun g => pagesOf (statusAddr sec g + off) n)))

/-- Orders 2 to 5 of Table 10.4. -/
def applyPhase (sec : Section) (err : TierErr) (seed : BitVec 64) (step : BitVec 32) (d : Device) :
    Device × Option (BitVec 8 × Nat) :=
  let m := sec.pkg
  let d := (List.range (groupCount m)).foldl (fun d g => tierFound (liveMbx d sec) err (argsAddr sec g) 32 d) d
  match pagesFault err d (argsPages sec) with
  | some e => (d, some e)
  | none =>
    let args := (List.range (groupCount m)).map (fun g => optArgs (readLogical d (argsAddr sec g) 32))
    let r := args.zipIdx.foldl (fun (s : Device × Option (BitVec 8 × Nat) × List (Nat × Nat)) e =>
      let a := (List.range (gTiles m e.2)).foldl (fun acc k => applyTile sec err seed step e.1 e.2 k acc)
        { dev := s.1, fail := s.2.1, nans := 0, tiles := 0 }
      (a.dev, a.fail, s.2.2 ++ [(a.nans, a.tiles)])) (d, none, [])
    match r.2.1 with
    | some e => (r.1, some e)
    | none =>
      let d := (List.range (groupCount m)).foldl (fun d g => clearPending sec g d) r.1
      let f := statusReads sec (List.range (groupCount m)) 0 32 err d
      match f.2 with
      | some e => (f.1, some e)
      | none =>
        (r.2.2.zipIdx.foldl (fun d e =>
          writeLogical (statusAddr sec e.2) 32 (statusRecord d sec.handle step e.2 e.1.1 e.1.2) d) f.1, none)

/-! ### Digests (R340) -/

/-- The fold of one digest over (low, high) words, last first. -/
def digestFold (ws : List (BitVec 32 × BitVec 32)) : Nat :=
  let r := ws.foldr (fun w (acc : BitVec 32 × BitVec 32) => (mix32 (acc.1 ^^^ w.1), mix32 (mix32 (acc.2 ^^^ w.2))))
    ((0, 0) : BitVec 32 × BitVec 32)
  r.1.toNat + (r.2.toNat <<< 32)

/-- Entry digest. -/
def entryDigest (v : BitVec 4096) : Nat :=
  digestFold ((List.range 128).map (fun i => let w := BitVec.ofNat 32 (v.toNat >>> (32 * i)); (w, w)))

/-- Page digest. -/
def pageDigest (d : Device) (p : Nat) : Nat :=
  digestFold ((List.range 128).map (fun e =>
    let x := entryDigest (BitVec.ofNat 4096 (readPage d p (512 * e) 512))
    (BitVec.ofNat 32 x, BitVec.ofNat 32 (x >>> 32))))

/-- A node above two others. -/
def joinDigest (l r : Nat) : Nat :=
  let w := fun (x : Nat) => BitVec.ofNat 32 x
  (mix32 (w l ^^^ mix32 (w r))).toNat + ((mix32 (w (l >>> 32) ^^^ mix32 (w (r >>> 32)))).toNat <<< 32)

def digestLevel : List Nat → List Nat
  | l :: r :: rest => joinDigest l r :: digestLevel rest
  | rest => rest

/-- Pages of the leaves of a group: parameter pages, then state pages. -/
def leafPages (sec : Section) (g : Nat) : List Nat :=
  let seg := fun i => (List.range (segPages sec.pkg i)).map (· + sec.segBase.getD i 0)
  seg (gField sec.pkg g 0 1) ++ (if gStates sec.pkg g = 0 then [] else seg (gField sec.pkg g 2 1))

def leafDigests (d : Device) (sec : Section) (g : Nat) : List Nat := (leafPages sec g).map (pageDigest d)

/-- Level `n` above the leaves. -/
def levelDigests : Nat → List Nat → List Nat
  | 0, l => l
  | n + 1, l => levelDigests n (digestLevel l)

/-- Levels between the leaves and the root. -/
def treeDepth : Nat → Nat → Nat
  | 0, _ => 0
  | fuel + 1, n => if n ≤ 1 then 0 else treeDepth fuel ((n + 1) / 2) + 1

def groupDepth (sec : Section) (g : Nat) : Nat := treeDepth 32 (leafPages sec g).length

/-! ### Comparison (R341 to R343) -/

def replicatedGroups (m : Memory) : List Nat :=
  (List.range (groupCount m)).filter (fun g => bitOf (gField m g 7 1) 4)

/-- The replica sets as lists of NODE_IDs. -/
def replicaSets (m : Memory) : List (List Nat) :=
  let t := trainOff m
  let n := fld m (t + 4) 2
  let base := t + 0x40 + 64 * groupCount m
  (List.range n).map (fun i =>
    let w := fld m (base + 4 * i) 4
    (List.range (bitsOf w 16 16)).map (fun j => bitsOf (fld m (base + 4 * n + 2 * (bitsOf w 0 16 + j)) 2) 0 10))

/-- The replica set that lists this device, when it compares at a step (R341). -/
def comparingSet (d : Device) (sec : Section) (step : Nat) : List Nat :=
  let m := sec.pkg
  let own := fld m (trainOff m + 2) 2
  let i := if d.training.interval = 0 then (if own = 0 then 64 else own) else d.training.interval.toNat
  let set := ((replicaSets m).find? (fun s => s.contains (ownNode d))).getD []
  if step % i = 0 && replicatedGroups m != [] && 2 ≤ set.length then set else []

/-- The digest of a node of a group's tree. -/
def nodeDigest (d : Device) (sec : Section) (g level idx : Nat) : Nat :=
  (levelDigests level (leafDigests d sec g)).getD idx 0

/-- This device's records of a group in the current round: (index, digest). -/
def roundRecords (d : Device) (sec : Section) (nodes : List (Nat × Nat × Nat)) (g : Nat) : List (Nat × Nat) :=
  let mine := nodes.filter (fun n => n.1 = g)
  match mine with
  | [] => []
  | n :: _ =>
    let ds := levelDigests n.2.1 (leafDigests d sec g)
    mine.map (fun x => (x.2.2, ds.getD x.2.2 0))

/-- A DIGEST packet's body. -/
def digestBody (rs : List (Nat × Nat)) : Nat :=
  rs.zipIdx.foldl (fun acc e => acc + ((e.1.1 + (e.1.2 <<< 64)) <<< (128 * e.2))) 0

/-- Records in packets of at most 256; `n` bounds the packets. -/
def recordChunks : Nat → List (Nat × Nat) → List (List (Nat × Nat))
  | 0, _ => []
  | n + 1, rs => if rs = [] then [] else rs.take 256 :: recordChunks n (rs.drop 256)

/-- Groups with a node in a round. -/
def roundGroups (nodes : List (Nat × Nat × Nat)) : List Nat := (List.range 64).filter (fun g => nodes.any (fun n => n.1 = g))

/-- Send this device's digests of the current round to every other member (log entry 26). -/
def sendRound (sec : Section) (d : Device) : Device :=
  let t := d.training
  (roundGroups t.cmpNodes).foldl (fun d g =>
    let rs := roundRecords d sec t.cmpNodes g
    (recordChunks rs.length rs).foldl (fun d c =>
      (t.cmpSet.filter (fun n => n != ownNode d)).foldl (fun d n =>
        sendPacket (setPacket d 0x20 n (t.cmpRound % 65536 + (g <<< 16)) (16 * c.length) (digestBody c)) d) d) d) d

/-- The reads of Order 6 (R339): every leaf page of the REPLICATED groups, and the entries that take ROOT; an error, or a
poisoned page. -/
def digestReads (sec : Section) (err : TierErr) (d : Device) : Device × Option (BitVec 8 × Nat) :=
  let ps := (replicatedGroups sec.pkg).flatMap (leafPages sec)
  let d := ps.foldl (fun d p => tierFound (liveMbx d sec) err (65536 * p) 65536 d) d
  let f := statusReads sec (replicatedGroups sec.pkg) 24 8 err d
  (f.1, (pagesFault err f.1 ps).orElse (fun _ => f.2))

/-- Begin a comparison: round 0 holds the roots. -/
def startCompare (sec : Section) (set : List Nat) (d : Device) : Device :=
  let gs := replicatedGroups sec.pkg
  let nodes := gs.map (fun g => (g, groupDepth sec g, 0))
  let roots := gs.foldl (fun t g => Tab.set t (64 * sec.handle + g) (nodeDigest d sec g (groupDepth sec g) 0)) d.training.roots
  let d := { d with training := { d.training with
    phase := 3, cmpRound := 0, cmpSet := set, cmpNodes := nodes, cmpLeaves := [],
    cmpWait := [], truncated := false, roots := roots } }
  let d := gs.foldl (fun d g => writeLogical (statusAddr sec g + 24) 8 (Tab.getD roots (64 * sec.handle + g) 0) d) d
  sendRound sec d

/-- The record of a member for a node of the current round. -/
def memberRecord (d : Device) (member g idx : Nat) : Option Nat :=
  d.set.digests.findSome? (fun r =>
    if r.1 = member && r.2.1 = d.training.cmpRound && r.2.2.1 = g then
      (r.2.2.2.find? (fun e => e.1 = idx)).map (·.2)
    else none)

/-- Every member's digest of a node, this device's own among them. -/
def nodeDigests (d : Device) (sec : Section) (n : Nat × Nat × Nat) : List (Nat × Nat) :=
  d.training.cmpSet.filterMap (fun k =>
    if k = ownNode d then some (k, nodeDigest d sec n.1 n.2.1 n.2.2)
    else (memberRecord d k n.1 n.2.2).map (fun v => (k, v)))

/-- Nodes below a node. -/
def childNodes (sec : Section) (n : Nat × Nat × Nat) : List (Nat × Nat × Nat) :=
  let width := ((leafPages sec n.1).length + 2 ^ (n.2.1 - 1) - 1) / 2 ^ (n.2.1 - 1)
  [(n.1, n.2.1 - 1, 2 * n.2.2)] ++ (if 2 * n.2.2 + 1 < width then [(n.1, n.2.1 - 1, 2 * n.2.2 + 1)] else [])

/-- Nodes with their digests, in order of group and index. -/
def insertNode (x : (Nat × Nat × Nat) × List (Nat × Nat)) :
    List ((Nat × Nat × Nat) × List (Nat × Nat)) → List ((Nat × Nat × Nat) × List (Nat × Nat))
  | [] => [x]
  | y :: rest => if x.1.1 < y.1.1 || (x.1.1 = y.1.1 && x.1.2.2 ≤ y.1.2.2) then x :: y :: rest else y :: insertNode x rest

/-- R342: the differing leaves found and the differing nodes of a round, the 16 lowest of which the descent follows. -/
def lowestNodes (leaves : List (Nat × Nat × List (Nat × Nat))) (diff : List ((Nat × Nat × Nat) × List (Nat × Nat))) :
    List ((Nat × Nat × Nat) × List (Nat × Nat)) :=
  let done := leaves.map (fun l => ((l.1, 0, l.2.1), l.2.2))
  (diff ++ done).foldl (fun l e => insertNode e l) []

/-- The records of the current round leave the buffer. -/
def dropRound (d : Device) : Device :=
  let keep := d.set.digests.filter (fun r => r.2.1 != d.training.cmpRound)
  { d with set := { d.set with digests := keep } }

/-- Segment page offset of a leaf: PART and PAGE. -/
def leafPart (sec : Section) (g leaf : Nat) : Nat × Nat :=
  let n := segPages sec.pkg (gField sec.pkg g 0 1)
  if leaf < n then (0, leaf) else (1, leaf - n)

/-- The reply of R343. -/
def replyLeaves (m : Nat) (sec : Section) (repaired : Bool) (source : Nat) (d : Device) : Device :=
  let ls := d.training.cmpLeaves.take 16
  let d := reply m 0 8 (ls.length + (bit01 d.training.truncated <<< 16) + (bit01 repaired <<< 24)
    + (source <<< 32)) d
  ls.zipIdx.foldl (fun d e =>
    let p := leafPart sec e.1.1 e.1.2.1
    let own := ((e.1.2.2.find? (fun x => x.1 = ownNode d)).map (·.2)).getD 0
    reply m (8 + 16 * e.2) 16 (e.1.1 + (p.1 <<< 8) + (p.2 <<< 32) + (own <<< 64)) d) d

/-- A digest of a leaf that more than half the set holds. -/
def majority (ds : List (Nat × Nat)) : Option Nat :=
  (ds.find? (fun e => decide (ds.length < 2 * (ds.filter (fun x => x.2 = e.2)).length))).map (·.2)

/-- The lowest NODE_ID that holds a digest. -/
def lowestHolder (ds : List (Nat × Nat)) (v : Nat) : Nat := ((ds.filter (fun x => x.2 = v)).map (·.1)).min?.getD 0

/-- R344: every differing leaf has a majority in a set of 3 or more. -/
def repairable (d : Device) : Bool :=
  d.training.repair = 1 && 3 ≤ d.training.cmpSet.length && !d.training.truncated
    && d.training.cmpLeaves.all (fun l => (majority l.2.2).isSome)

/-- The pieces of a page go to a member that does not hold it. -/
def sendPage (sec : Section) (g leaf node : Nat) (d : Device) : Device :=
  let p := leafPart sec g leaf
  let page := (leafPages sec g).getD leaf 0
  (List.range 16).foldl (fun d i =>
    let v := readPage d page (4096 * i) 4096
    sendPacket (setPacket d 0x21 node (g + (p.1 <<< 6) + (i <<< 7)) 4112 (p.2 + (v <<< 128))) d) d

/-- The source and the receivers of each differing leaf: this device sends where it is the source. -/
def sendRepairs (sec : Section) (d : Device) : Device :=
  d.training.cmpLeaves.foldl (fun d l =>
    match majority l.2.2 with
    | some v =>
      if lowestHolder l.2.2 v = ownNode d then
        (l.2.2.filter (fun e => e.2 != v)).foldl (fun d e => sendPage sec l.1 l.2.1 e.1 d) d
      else d
    | none => d) d

/-- The leaves that this device waits for. -/
def wantedLeaves (d : Device) : List (Nat × Nat) :=
  d.training.cmpLeaves.filterMap (fun l => (majority l.2.2).bind (fun v =>
    if l.2.2.any (fun e => e.1 = ownNode d && e.2 != v) then some (l.1, l.2.1) else none))

/-- How a comparison stands: still waiting, no difference, or it ends with the leaves repaired or not. -/
inductive CompareEnd where
  | waiting
  | equal
  | repaired
  | differs
deriving DecidableEq, Repr

/-- When no leaf waits for a page, this device sends its digests of the repaired leaves: the last round, which tells every
member whether every leaf agrees (R344; log entry 26). -/
def leavesDone (sec : Section) (d : Device) : Device :=
  if d.training.cmpWait = [] then
    sendRound sec { d with training := { d.training with cmpNodes := d.training.cmpLeaves.map (fun l => (l.1, 0, l.2.1)) } }
  else d

/-- Rounds go on while every member's digests are here; `fuel` bounds them. -/
def compareRounds (sec : Section) : Nat → Device → Device × CompareEnd
  | 0, d => (d, .waiting)
  | fuel + 1, d =>
    let t := d.training
    let all := t.cmpNodes.map (fun n => (n, nodeDigests d sec n))
    if all.any (fun e => e.2.length < t.cmpSet.length) then (d, .waiting)
    else
      let diff := all.filter (fun e => e.2.any (fun x => decide (x.2 != (e.2.headD (0, 0)).2)))
      let found := lowestNodes t.cmpLeaves diff
      let kept := found.take 16
      let cmp := (kept.filter (fun e => e.1.2.1 = 0)).map (fun e => (e.1.1, e.1.2.2, e.2))
      let next := (kept.filter (fun e => e.1.2.1 != 0)).flatMap (fun e => childNodes sec e.1)
      let d := dropRound d
      let d := { d with training := { t with
        rounds := satAdd t.rounds 1, leaves := satAdd t.leaves (cmp.length - t.cmpLeaves.length), cmpLeaves := cmp
        cmpRound := t.cmpRound + 1, cmpNodes := next, truncated := t.truncated || decide (16 < found.length) } }
      if next != [] then compareRounds sec fuel (sendRound sec d)
      else if cmp = [] then (d, .equal)
      else if repairable d then
        let d := sendRepairs sec d
        (leavesDone sec { d with training := { d.training with phase := 4, cmpWait := wantedLeaves d } }, .waiting)
      else (d, .differs)

/-- A repair page is whole: its 16 pieces are here. -/
def pageWhole (d : Device) (g part page : Nat) : Option Nat :=
  let ps := d.set.pieces.filter (fun x => x.1 = g && x.2.1 = part && x.2.2.1 = page)
  if (List.range 16).all (fun i => ps.any (fun x => x.2.2.2.1 = i)) then
    some ((List.range 16).foldl (fun acc i =>
      acc + (((ps.find? (fun x => x.2.2.2.1 = i)).map (fun x => x.2.2.2.2)).getD 0 <<< (32768 * i))) 0)
  else none

/-- A whole repair page is written, and its leaf recomputed. -/
def writeRepair (sec : Section) (g leaf : Nat) (d : Device) : Device :=
  let p := leafPart sec g leaf
  match pageWhole d g p.1 p.2 with
  | none => d
  | some v =>
    let page := (leafPages sec g).getD leaf 0
    let d := writePage page 0 65536 v d
    let d := { d with set := { d.set with
      pieces := d.set.pieces.filter (fun x => !(x.1 = g && x.2.1 = p.1 && x.2.2.1 = p.2)) } }
    let want := ((d.training.cmpLeaves.find? (fun l => l.1 = g && l.2.1 = leaf)).bind (fun l => majority l.2.2)).getD 0
    { d with training := { d.training with
        repaired := satAdd d.training.repaired (bit01 (decide (pageDigest d page = want)))
        cmpWait := d.training.cmpWait.filter (fun w => w != (g, leaf)) } }

/-- Repair pages that are whole are written; the repair ends when every member's digests of the leaves are here (R344). -/
def repairStep (sec : Section) (d : Device) : Device × CompareEnd :=
  let waited := d.training.cmpWait != []
  let d := d.training.cmpWait.foldl (fun d w => writeRepair sec w.1 w.2 d) d
  let d := if waited then leavesDone sec d else d
  if d.training.cmpWait != [] then (d, .waiting)
  else
    let all := d.training.cmpNodes.map (nodeDigests d sec)
    if all.any (fun e => decide (e.length < d.training.cmpSet.length)) then (d, .waiting)
    else (dropRound d, if all.all (fun e => e.all (fun x => x.2 = (e.headD (0, 0)).2)) then .repaired else .differs)

/-- A comparison goes on as far as it can. -/
def compareStep (sec : Section) (d : Device) : Device × CompareEnd :=
  if d.training.phase = 4 then repairStep sec d else compareRounds sec 40 d

end Sys2Proof.Machine
end

