-- ==== Sys2Proof/Machine/Runs.lean ====
section
/-!
DEFINITION. Machine/Runs.lean: how a run command starts, hands over between stages, ends, is stopped and meets its
deadline (R262, R354, R358, R368 to R370, R404, R427).
-/
namespace Sys2Proof.Machine

/-! ### The command's fields (Table 13.9) -/

def isRunOp (op : Nat) : Bool := op = 0x12 || op = 0x13

/-- The section handles of a run command, stage 0 first. -/
def Mailbox.stages (x : Mailbox) : List Nat :=
  if x.opcode = 0x13 then (List.range (min 8 (x.arg 0x88 1))).map (fun i => x.arg (0x90 + 4 * i) 4) else [x.arg 0 4]

def Mailbox.priority (x : Mailbox) : Nat := bitsOf (x.arg 4 1) 0 3
def Mailbox.update (x : Mailbox) : Bool := bitOf (x.arg 5 1) 0
def Mailbox.deadline (x : Mailbox) : Nat := x.arg 0x14 4
def Mailbox.seed (x : Mailbox) : BitVec 64 := BitVec.ofNat 64 (x.arg 8 8)
def Mailbox.stepNo (x : Mailbox) : BitVec 32 := BitVec.ofNat 32 (x.arg 0x10 4)

/-- The bindings of a run command: window, logical core, tap, context, channel, stage. -/
def Mailbox.bindings (x : Mailbox) : List (Nat × Nat × Nat × Nat × Nat × Nat) :=
  (List.range (x.arg 6 1)).map (fun i =>
    let v := x.arg (0x48 + 8 * i) 8
    (bitsOf v 0 8, bitsOf v 8 8, bitsOf v 16 8, bitsOf v 24 8, bitsOf v 32 16, bitsOf v 48 8))

/-- The windows that are bound: a binding lasts from the start of its command to its end (R439). -/
def boundWindows (d : Device) : List Nat := (d.host.ingest.filter (fun e => e.2.bound.isSome)).map (·.1)

/-- A waiting run command (R358). -/
def Mailbox.waitsToRun (x : Mailbox) : Bool := x.state = .accepted && !x.rung && isRunOp x.opcode

/-- `a` comes before `b` in the order of R358. -/
def runsBefore (a b : Mailbox) : Bool := b.priority < a.priority || (a.priority = b.priority && a.order < b.order)

/-- Every section that a command names is placed, idle and free. -/
def sectionsIdle (d : Device) (x : Mailbox) : Bool :=
  x.stages.all (fun h => (d.section? h).any (fun s => s.state = .idle && s.mbx.isNone))

/-- R407: the error with which a lost set ends its command; NODE_LOST once the apply phase has begun (R343, Table 12.9). -/
def lossCode (d : Device) (applying : Bool) : BitVec 8 :=
  if applying || d.set.losses.any (fun l => l.2 = 0) then 0x52 else 0x51

/-- A failure found when Meridian would start a command (Table 13.6): a halted section, a dissolved set, an
uncorrected weight error found by the scrubber; DESIGN CHOICE (log entry 69): a window that another command has bound
since this one was accepted. -/
def startFault (d : Device) (x : Mailbox) : Option (BitVec 8) :=
  if x.bindings.any (fun b => (boundWindows d).contains b.1) then some 0x02
  else x.stages.findSome? (fun h =>
    match d.section? h with
    | none => some 0x02
    | some s =>
      if hasLinks s.pkg && d.set.handle = h && d.set.state = 4 then some d.set.lossError
      else if s.state = .halted then some 0x02
      else if s.state = .idle && (sectionUnits s).any (fun u => (d.unit u).mu.scrubBad) then some 0x40
      else none)

/-! ### Starting (R302, R307, R252, R124, R439) -/

/-- The length registers of a core (R124). -/
def lengthRegs (m : Memory) (x : Mailbox) : Tab LenReg :=
  (List.range 8).filterMap (fun n =>
    if lenDeclared m n then
      some (n, { value := if bitOf (x.arg 7 1) n then x.arg (0x28 + 4 * n) 4 else lenMax m n, grain := lenGrain m n })
    else none)

/-- DONE, GATE and EXPECT of a section's cores and units are 0 at the start of a command (R252). -/
def zeroCounts (sec : Section) (d : Device) : Device :=
  let d := sec.cores.foldl (fun d c => d.updCore c (fun x => { x with
    slots := x.slots.map (fun e => (e.1, { e.2 with done := 0, gate := 0, filled := 0 })) })) d
  (sectionUnits sec).foldl (fun d u => d.updUnit u (fun x =>
    { x with ctxs := x.ctxs.map (fun e => (e.1, { e.2 with expect := [] })) })) d

/-- The endpoints of a core are IDLE at the start of a command and of each stage; open requests held stay held
(Table 9.4), and so does whether the command has dropped messages there (R319). -/
def idleEndpoints (x : Core) : Core :=
  { x with eps := x.eps.map (fun e => (e.1, { held := e.2.held, dropped := e.2.dropped, hadDrops := e.2.hadDrops })) }

/-- No message has been dropped in a command that starts. -/
def noDrops (sec : Section) (d : Device) : Device :=
  sec.cores.foldl (fun d c => d.updCore c (fun x => { x with eps := x.eps.map (fun e => (e.1, { e.2 with hadDrops := false })) })) d

/-- What every section of a command gets at its start, Order 1 of Table 5.8 included. -/
def prepareSection (m : Nat) (h : Nat) (d : Device) : Device :=
  match d.section? h with
  | none => d
  | some sec =>
    let d := noDrops sec (zeroRecords sec (zeroCounts sec (clearBarriers true h (clearSems sec.cores d))))
    let keep := d.training.counts.filter (fun e => e.1 / 64 != h)
    let d := { d with training := { d.training with counts := keep } }
    d.updSection h (fun s => { s with mbx := some m, epochEnd := false, markNext := false, lossStop := false })

/-- One ingest binding (Table 13.9); `to_` maps its stage to the section that takes its tokens. -/
def ingestBinding (d : Device) (m : Nat) (to_ : Nat → Nat) (i : Nat) : Nat × IngestBind :=
  let x := d.mb m
  let v := x.arg (0x48 + 8 * i) 8
  let h := to_ (if x.opcode = 0x13 then bitsOf v 48 8 else 0)
  let l := bitsOf v 8 8
  let core := ((d.section? h).map (fun s => s.phys l)).getD 0
  (bitsOf v 0 8, { mbx := m, handle := h, logical := l, core := core, tap := bitsOf v 16 8, ctx := bitsOf v 24 2, hchan := bitsOf v 32 12 })

/-- The ingest windows of a command are bound, and a bank fills (R439). -/
def bindIngest (m : Nat) (to_ : Nat → Nat) (d : Device) : Device :=
  (List.range ((d.mb m).arg 6 1)).foldl (fun d i =>
    let b := ingestBinding d m to_ i
    let w := Tab.getD d.host.ingest b.1 {}
    let w := { w with bound := some b.2, filling := some false, fillBank := false, bank0 := {}, bank1 := {} }
    { d with host := { d.host with ingest := Tab.set d.host.ingest b.1 w } }) d

/-- A stage begins at entry 0 of every core's Ephemeris.  SEQ_LEN_n keeps a command's value until the next one starts (R124;
log entry 86, DEDUCED). -/
def beginStage (m h stage : Nat) (d : Device) : Device :=
  match d.section? h with
  | none => d
  | some sec =>
    let x := d.mb m
    let d := sec.cores.foldl (fun d c => d.updCore c (fun y =>
      startSeq { idleEndpoints y with lens := lengthRegs sec.pkg x })) d
    let d := d.updSection h (fun s => { s with state := .running, mbx := some m })
    d.updMb m (fun y => { y with job := .run h stage })

/-- Meridian starts a run command. -/
def startRun (m : Nat) (d : Device) : Device :=
  let x := d.mb m
  let d := x.stages.foldl (fun d h => prepareSection m h d) d
  let d := d.updMb m (fun y => { y with state := .running, progress := 0, started := d.now, milestones := [], atRisk := false })
  beginStage m (x.stages.headD 0) 0 (bindIngest m (fun s => x.stages.getD s 0) d)

/-- The scrubber's finding ends one command (R218). -/
def clearScrub (x : Mailbox) (d : Device) : Device :=
  x.stages.foldl (fun d h =>
    match d.section? h with
    | some s => (sectionUnits s).foldl (fun d u => d.updUnit u (fun y => { y with mu := { y.mu with scrubBad := false } })) d
    | none => d) d

/-- The waiting run commands whose sections are idle, or that fail at their start, the first of R358's order. -/
def nextRun (d : Device) : Option Nat :=
  (List.range 16).foldl (fun (o : Option Nat) m =>
    let x := d.mb m
    if x.waitsToRun && (sectionsIdle d x || (startFault d x).isSome) then
      match o with
      | some b => if runsBefore x (d.mb b) then some m else o
      | none => some m
    else o) none

/-- COMMAND_START. -/
def commandStart (d : Device) : Device :=
  if !meridianRuns d then d
  else
    match nextRun d with
    | none => d
    | some m =>
      match startFault d (d.mb m) with
      | some e => endFailed m e (if e = 0x40 then clearScrub (d.mb m) d else d)
      | none => startRun m d

def execCommandStart (s : State) : Host.Outcome State Fault Refusal := .next (s.upd commandStart)

/-! ### Ending (R354, R319, R404) -/

/-- D has passed (R369). -/
def deadlinePassed (d : Device) (x : Mailbox) : Bool := x.deadline != 0 && decide (x.since + x.deadline ≤ d.now)

/-- The sections of a command: those of its stages, and a fallback's. -/
def commandSections (m : Nat) (d : Device) : List Section :=
  d.sections.filter (fun s => (d.mb m).stages.contains s.handle || s.mbx = some m)

/-- Messages dropped in a command's sections: the informational code and the list of R319. -/
def noteDrops (m : Nat) (d : Device) : Device :=
  match sortNats ((commandSections m d).flatMap (droppedQueues d)) with
  | [] => d
  | q => (replyQueues m q d).updMb m (addNote 0x32)

/-- A command that ends with DEADLINE_MISSED counts (Table 11.10). -/
def countMissed (m : Nat) (d : Device) : Device :=
  if (d.mb m).error = 0x61 then { d with sched := { d.sched with missed := satAdd d.sched.missed 1 } } else d

/-- A section whose cores have finished stays placed and idle: a suspend not yet acted on is withdrawn, and a core lost
before Order 2 of Table 11.4 stops nothing (Table 11.6). -/
def idleSection (h : Nat) (d : Device) : Device :=
  match d.section? h with
  | some sec => lostReturns h ((dropSuspends sec d).updSection h (fun s => { s with state := .idle, epochEnd := false, markNext := false }))
  | none => d

/-- Records of the FALLBACK section: milestone, fraction, tag. -/
def fallbacks (p : Memory) : List (Nat × Nat × Nat) :=
  (List.range (secCount p 0x11)).map (fun i =>
    let a := secAt p 0x11 + 32 * i
    (fld p a 2, fld p (a + 2) 2, fld p (a + 8) 16))

/-- The milestone of a record has been reached. -/
def milestoneMet (x : Mailbox) (k : Nat) : Bool := if k = 0xFFFF then x.state.started else x.milestones.contains k

/-- The record that is the first to fall at risk: that of the smallest FRACTION, the first of equals. -/
def atRisk (d : Device) (x : Mailbox) (p : Memory) : Option (Nat × Nat × Nat) :=
  ((fallbacks p).filter (fun r => !milestoneMet x r.1 && decide (x.deadline * r.2.1 ≤ 1024 * (d.now - x.since)))).foldl
    (fun (o : Option (Nat × Nat × Nat)) r => match o with
      | some b => if r.2.1 < b.2.1 then some r else o
      | none => some r) none

/-- D has passed, or, unless the policy abandons, a record has fallen at risk that no check has met (R370, never). -/
def endsLate (m h : Nat) (d : Device) : Bool :=
  let x := d.mb m
  deadlinePassed d x || (x.deadline != 0 && !x.atRisk && d.sched.policy != 2
    && ((d.section? h).bind (fun s => atRisk d x s.pkg)).isSome)

/-- The command of a section ends DONE; the section is idle. -/
def doneRun (m h : Nat) (d : Device) : Device :=
  let d := if endsLate m h d then d.updMb m (addNote 0x61) else d
  let d := releaseStages m (idleSection h d)
  settleJobs (countMissed m (endDone m d))

/-- Orders 3 and 4 of Table 5.8. -/
def finishRun (m : Nat) (sec : Section) (d : Device) : Device :=
  match recordsPoison d sec with
  | some e => pageHalt sec.handle e d
  | none => doneRun m sec.handle (noteDrops m (closeEndpoints sec (writeRecords sec sec.cores d)))

/-- What a comparison's end makes of the command (R343, R344). -/
def settleCompare (m : Nat) (sec : Section) (r : Device × CompareEnd) : Device :=
  let d := r.1
  let mismatch := fun (d : Device) => d.updMb m (fun x => { x with digestMismatch := true })
  match r.2 with
  | .waiting => d.updMb m (fun x => { x with job := .comparing sec.handle })
  | .equal => finishRun m sec (endCompare d)
  | .repaired =>
    let src := ((d.training.cmpLeaves.head?).bind (fun l => (majority l.2.2).map (lowestHolder l.2.2))).getD 0
    finishRun m sec (endCompare ((replyLeaves m sec true src (mismatch d)).updMb m (addNote 0x50)))
  | .differs =>
    let d := endCompare (replyLeaves m sec false 0 (mismatch d))
    let d := closeEndpoints sec (writeRecords sec sec.cores d)
    settleJobs (endFailed m 0x50 (releaseStages m (idleSection sec.handle d)))

/-- Every core has stopped. -/
def allStopped (d : Device) (sec : Section) : Bool :=
  sec.cores.all (fun c => let q := (d.core c).seq.state; q = .finished || q = .suspended || q = .halted)

/-- A section whose cores have stopped, or are reset with it, becomes halted (R427, R559): its accepted stores complete,
Order 3 of Table 5.8 is carried out, its endpoints close, and cores that have not halted are sent the message.  The
result is the code of a failure met on the way and its address (R561). -/
def stopRun (h : Nat) (d : Device) : Device × Option (BitVec 8 × Nat) :=
  match d.section? h with
  | none => (d, none)
  | some sec =>
    let d := flushStores sec.cores (sendHalts sec.cores d)
    let e := recordsPoison d sec
    let d := closeEndpoints sec (writeRecords sec sec.cores d)
    (settleJobs (lostReturns h (failWaiting h 0x02 (d.updSection h (fun s => { s with state := .halted, mbx := none })))), e)

/-- The reply of a command that ends at a loss: up to 64 lost nodes, each with its cause (R407). -/
def replyLosses (m : Nat) (d : Device) : Device :=
  d.set.losses.take 64 |>.zipIdx.foldl (fun d e => reply m (4 + 4 * e.2) 4 (e.1.1 + (e.1.2 <<< 16)) d)
    (reply m 0 4 (min 64 d.set.losses.length) d)

/-- The set dissolves with the error that its section's commands get (item 5 of R407). -/
def dissolveSet (code : BitVec 8) (d : Device) : Device :=
  let d := leaveSet 4 d
  { d with set := { d.set with lossError := code } }

/-- Items 3 to 5 of R407: connections to other members close without a report, the command ends, the set dissolves. -/
def endHalting (d : Device) : Device :=
  let h := d.set.handle
  match d.section? h with
  | none => dissolveSet (lossCode d false) d
  | some sec =>
    let live := liveMbx d sec
    let code := lossCode d (live.any (fun m => (d.mb m).applying))
    let d := sec.cores.foldl (fun d c => (d.core c).eps.foldl (fun d e =>
      if e.2.dest.node = ownNode d then d else closeSender c e.1 true d) d) d
    let d := failWaiting h code d
    match live with
    | none => dissolveSet code d
    | some m =>
      let r := if sec.state = .preempted then (d, none) else stopRun h d
      let d := releaseStages m (endComparing m r.1)
      dissolveSet code (match r.2 with
        | some e => endFailed m e.1 (replyAddr m e.2 d)
        | none => if (d.mb m).state.live then endFailed m code (replyLosses m d) else d)

/-- Order 6 of Table 10.4; a loss met before ends the command (R343, Table 12.9). -/
def compareRun (m : Nat) (err : TierErr) (sec : Section) (d : Device) : Device :=
  match comparingSet d sec (d.mb m).stepNo.toNat with
  | [] => finishRun m sec d
  | set =>
    if d.set.state = 3 then endHalting d
    else if d.set.state = 4 then haltSection sec.handle 0x52 d
    else
      let r := digestReads sec err d
      match r.2 with
      | some e => pageHalt sec.handle e r.1
      | none => settleCompare m sec (compareStep sec (startCompare sec set r.1))

/-- Orders 2 to 8 of Table 10.4, over the groups of every stage (log entry 27). -/
def applyRun (m : Nat) (err : TierErr) (sec : Section) (d : Device) : Device :=
  let x := d.mb m
  let d := d.updMb m (fun y => { y with applying := true })
  let r := (x.stages.eraseDups).foldl (fun (a : Device × Option (BitVec 8 × Nat)) h =>
    if a.2.isSome then a
    else
      match a.1.section? h with
      | some s => applyPhase s err x.seed x.stepNo a.1
      | none => a) (d, none)
  match r.2 with
  | some e => pageHalt sec.handle e r.1
  | none => compareRun m err sec r.1

/-- Every core of the section is finished. -/
def allFinished (d : Device) (sec : Section) : Bool := sec.cores.all (fun c => (d.core c).seq.state = .finished)

/-- The last stage of the command. -/
def lastStage (x : Mailbox) (stage : Nat) : Bool := x.fallback || x.stages.length ≤ stage + 1

/-- The set is HALTING and every core of its section has stopped (R407). -/
def haltingDone (d : Device) : Bool :=
  d.set.state = 3 && (match d.section? d.set.handle with
    | some sec => sec.state != .preempting && !stopsNow d sec && (sec.state != .running || allStopped d sec)
    | none => true)

/-- Every core has stopped at the marked release (Order 4 of Table 12.8). -/
def epochStopped (d : Device) (sec : Section) : Bool :=
  allStopped d sec && sec.cores.all (fun c => (d.core c).seq.stopAt.isNone && Tab.getD d.sync.releases c [] = [])

/-- Order 5 of Table 12.8. -/
def endEpoch (m : Nat) (sec : Section) (d : Device) : Device :=
  let d := stopStreams sec.cores d
  if (d.mb m).state.started then
    let d := { d with set := { d.set with epoch := d.set.epoch + 1, epochReq := 0 } }
    finishRun m sec (reply m 0 2 d.set.epoch.toNat d)
  else d

/-! ### Stopping a command (R427) -/

/-- A started run command is stopped: Meridian sends halt to its cores, and the command ends FAILED with `code`, or goes
on in the fallback section, once they have halted. -/
def stopCommand (m : Nat) (code : BitVec 8) (to_ : Option Nat) (d : Device) : Device :=
  match (d.mb m).job with
  | .run h _ =>
    match d.section? h with
    | some sec =>
      let d := (sendHalts sec.cores d).updSection h (fun s => { s with state := .halted })
      d.updMb m (fun x => { x with job := .stopping h code to_ })
    | none => endFailed m code d
  | .stopping h _ _ => d.updMb m (fun x => { x with job := .stopping h code to_ })
  | _ => d

/-- The cores that a stopped command held have halted, and the fallback section, if it goes on in one, is idle. -/
def stopDone (d : Device) (sec : Section) (to_ : Option Nat) : Bool :=
  sec.cores.all (fun c => (d.core c).seq.state = .halted) && to_.all (fun f => (d.section? f).all (fun s => s.state != .preempted && s.state != .preempting))

/-- R370, fallback: the command goes on in a fallback section. -/
def switchFallback (m f : Nat) (d : Device) : Device :=
  let d := d.updMb m (fun x => { addNote 0x60 x with
    fallback := true, atRisk := true, state := if x.progress = 0 then .running else .partial_, milestones := []
    started := if x.state.started then x.started else d.now })
  let d := { d with sched := { d.sched with fallbacks := satAdd d.sched.fallbacks 1 } }
  beginStage m f 0 (bindIngest m (fun _ => f) (prepareSection m f (unbind m d)))

/-- The stop of a command is complete: it ends, or is switched. -/
def finishStop (m h : Nat) (code : BitVec 8) (to_ : Option Nat) (d : Device) : Device :=
  let r := stopRun h d
  if !(d.mb m).state.live || !(r.1.mb m).state.live then r.1
  else
    let d := releaseStages m r.1
    settleJobs (match r.2, to_.filter (fun f => (d.section? f).any (fun s => s.state = .idle)) with
      | some e, _ => endFailed m e.1 (replyAddr m e.2 d)
      | none, some f => switchFallback m f d
      | none, none => countMissed m (endFailed m code d))

/-- COMMAND_END. -/
def commandEnd (m : Nat) (err : TierErr) (d : Device) : Device :=
  match (d.mb m).job with
  | .run h stage =>
    match d.section? h with
    | none => d
    | some sec =>
      if !(sec.state = .running || sec.state = .preempting) then d
      else if d.set.handle = h && haltingDone d then endHalting d
      else if sec.epochEnd && !(d.set.handle = h && d.set.state = 3) && epochStopped d sec then endEpoch m sec d
      else if allFinished d sec && lastStage (d.mb m) stage then
        let d := stopStreams sec.cores d
        if !(d.mb m).state.started then d
        else if (d.mb m).update then applyRun m err sec d
        else finishRun m sec d
      else d
  | .comparing h =>
    match d.section? h with
    | some sec =>
      let r := digestReads sec err d
      match r.2 with
      | some e => pageHalt sec.handle e r.1
      | none => settleCompare m sec (compareStep sec r.1)
    | none => d
  | .stopping h code to_ =>
    match d.section? h with
    | some sec =>
      if stopDone d sec to_ then
        let d := finishStop m h code to_ d
        if d.set.handle = h && haltingDone d then endHalting d else d
      else d
    | none => d
  | _ => d

def execCommandEnd (m : Fin 16) (err : TierErr) (s : State) : Host.Outcome State Fault Refusal :=
  .next (s.upd (commandEnd m.val err))

/-- STAGE_HANDOVER (R262, R263). -/
def stageHandover (m : Nat) (d : Device) : Device :=
  let x := d.mb m
  match x.job with
  | .run h stage =>
    match d.section? h, d.section? (x.stages.getD (stage + 1) 0) with
    | some sec, some next =>
      if (sec.state = .running || sec.state = .preempting) && allFinished d sec && !lastStage x stage then
        if next.state = .halted then haltSection h 0x02 d
        else if next.handle != h && next.state != .idle then d
        else
          let d := stopStreams sec.cores d
          if !(d.mb m).state.started then d
          else
            match recordsPoison d sec with
            | some e => pageHalt h e d
            | none =>
              let d := closeEndpoints sec (writeRecords sec sec.cores d)
              settleJobs (beginStage m next.handle (stage + 1) (idleSection h d))
      else d
    | _, _ => d
  | _ => d

def execStageHandover (m : Fin 16) (s : State) : Host.Outcome State Fault Refusal := .next (s.upd (stageHandover m.val))

/-! ### Deadlines (R368 to R370) -/

/-- A placed idle section of a package tag. -/
def idleTag (d : Device) (tag : Nat) : Option Nat :=
  (d.sections.find? (fun s => s.state = .idle && s.mbx.isNone && pkgTag s.pkg = tag)).map (·.handle)

/-- R370, never: the command goes on and will end with DEADLINE_MISSED. -/
def lateNever (m : Nat) (d : Device) : Device := d.updMb m (fun x => { addNote 0x61 x with atRisk := true })

/-- R370, fallback: the command is stopped, and the idle section of the record is kept for it. -/
def startFallback (m f : Nat) (d : Device) : Device :=
  let keep := fun (d : Device) => d.updSection f (fun s => { s with mbx := some m })
  match (d.mb m).job with
  | .run _ _ => (keep (stopCommand m 0 (some f) d)).updMb m (fun x => { x with atRisk := true })
  | _ => switchFallback m f d

/-- The first record at risk, or the passing of D, by FALLBACK_POLICY. -/
def lateCommand (m : Nat) (rec_ : Option (Nat × Nat × Nat)) (d : Device) : Device :=
  let x := d.mb m
  match d.sched.policy with
  | 1 =>
    match rec_.bind (fun r => idleTag d r.2.2) with
    | some h => if x.progress = 0 && !x.update && !x.applying then startFallback m h d else lateNever m d
    | none => lateNever m d
  | 2 =>
    if !deadlinePassed d x then d
    else if x.applying then lateNever m d
    else if x.state.started then stopCommand m 0x61 none d
    else countMissed m (endFailed m 0x61 d)
  | _ => lateNever m d

/-- DEADLINE_CHECK (R369). -/
def deadlineCheck (m : Nat) (d : Device) : Device :=
  let x := d.mb m
  let live := x.waitsToRun || (x.state.started && (match x.job with | .run _ _ => true | .comparing _ => true | _ => false))
  if !isRunOp x.opcode || x.deadline = 0 || x.atRisk || !live then d
  else
    let h := x.job.runs.getD (x.stages.headD 0)
    let r := (d.section? h).bind (fun s => atRisk d x s.pkg)
    if r.isSome || deadlinePassed d x then lateCommand m r d else d

def execDeadlineCheck (m : Fin 16) (s : State) : Host.Outcome State Fault Refusal := .next (s.upd (deadlineCheck m.val))

end Sys2Proof.Machine
end

