-- ==== Sys2Proof/Machine/Loading.lean ====
section
/-!
DEFINITION. Machine/Loading.lean: frames, their checks, the configuration messages of a core sequencer and the region
load (chapter 14, R90 to R93).
-/
namespace Sys2Proof.Machine

/-! ### Frames (R445 to R449) -/

def frameBytes : Nat := 4116

def frAddr (f : Memory) : Nat := fld f 0 4
def frSerial (f : Memory) : Nat := fld f 8 4
def frPayload (f : Memory) : Nat := fld f 0x10 4096

/-- The CRC of a frame is right (R446). -/
def frameCrcOk (f : Memory) : Bool := fld f 0x1010 4 = (crc32 (natToBytes 0x1010 (fld f 0 0x1010))).toNat

/-- Reserved bits of an address in the physical and in the logical form are zero (Table 14.2). -/
def fabricAddrClean (a : Nat) : Bool := bitsOf a 21 1 = 0 && bitsOf a 0 16 = 0

/-- R449, but for SERIAL: CRC, FORMAT, TARGET as the stream allows it, reserved fields. -/
def frameOk (target : Nat) (f : Memory) : Bool :=
  frameCrcOk f && fld f 4 1 = 1 && fld f 5 1 = target && fld f 6 1 ≤ 1 && fld f 7 1 = 0 && fld f 12 4 = 0
    && (target = 2 || fabricAddrClean (frAddr f))

/-- A frame with its CRC. -/
def makeFrame (addr target flags serial payload : Nat) : Memory :=
  let f := Ram.blit ([] : Memory) 0 4 addr
  let f := Ram.blit (Ram.blit (Ram.blit f 4 1 1) 5 1 target) 6 1 flags
  fixCrc (Ram.blit (Ram.blit f 8 4 serial) 0x10 4096 payload) 0

/-- Physical address of a unit frame, and of a table frame. -/
def physAddr (core col ctx minor : Nat) : Nat := core * 2 ^ 28 + col * 2 ^ 24 + ctx * 2 ^ 22 + minor * 2 ^ 16

/-! ### What a frame writes (R448, R456) -/

/-- Replace bytes of a table of `w`-bit cells. -/
def putBytes {w : Nat} (t : Ram w) (cells off n v : Nat) : Ram w :=
  let old := Ram.slice t 0 cells
  let cut := bitsOf old (8 * off) (8 * n)
  Ram.cells w 0 cells (old - (cut <<< (8 * off)) + ((v % 2 ^ (8 * n)) <<< (8 * off)))

/-- A stream-table frame: descriptors, tap patterns, and the core header (R448). -/
def putStreamFrame (minor v : Nat) (x : Core) : Core :=
  let at_ := 4096 * minor
  let lo := if at_ < 12288 then min 4096 (12288 - at_) else 0
  let x := if lo = 0 then x else { x with streamTab := putBytes x.streamTab 256 at_ lo v }
  let stop := min (at_ + 4096) 30720
  let x :=
    if 12288 ≤ at_ && at_ < stop then { x with tapPatterns := putBytes x.tapPatterns 9216 (at_ - 12288) (stop - at_) v } else x
  if minor = 7 then
    let h := v >>> (8 * 2048)
    let len := if bitOf h 51 then bitsOf h 48 3 else 15
    { x with seq := { x.seq with
        count := bitsOf h 0 16, cycleFirst := bitsOf h 16 16, cycleLast := bitsOf h 32 16, lenReg := len, trips := bitsOf h 64 32 } }
  else x

/-- An Ephemeris frame: 128 entries. -/
def putEphFrame (minor v : Nat) (x : Core) : Core :=
  let old := x.seq.entries
  let es := old.filter (fun e => decide (e.1 < 128 * minor)) ++ Ram.cells 256 (128 * minor) 128 v
    ++ old.filter (fun e => decide (128 * minor + 128 ≤ e.1))
  { x with seq := { x.seq with entries := es } }

/-- A checked frame in physical form is written to its target: a unit context or a core table. -/
def writeFrameTarget (image : Option Nat) (f : Memory) (c : Nat) (d : Device) : Device :=
  let a := frAddr f
  let col := bitsOf a 24 4
  let minor := bitsOf a 16 5
  let v := frPayload f
  let d := d.updCore c (fun x => { x with fab := { x.fab with cfgFrames := satNat 48 x.fab.cfgFrames 1 } })
  if col < 10 then
    d.updUnit (80 * c + 10 * (minor / 4) + col) (fun x =>
      x.updCtx (bitsOf a 22 2) (fun k =>
        let k' := setPart (minor % 4) v k
        { k' with image := if image.isSome then image else k.image }))
  else if col = 0xE then d.updCore c (putStreamFrame (minor % 8) v)
  else if col = 0xF then d.updCore c (putEphFrame minor v)
  else d

/-! ### The region of a load -/

/-- Physical units of a core named by a mask, bit 10 * row + column. -/
def maskUnits (c mask : Nat) : List Nat := ((List.range 80).filter (fun b => bitOf mask b)).map (· + 80 * c)

/-- Fields of a region stream (R459). -/
def rsCount (s : Memory) : Nat := fld s 6 2
def rsFrames (s : Memory) : Nat := fld s 8 4
def rsCore (s : Memory) (i : Nat) : Nat := fld s (64 + 16 * i) 1
def rsMask (s : Memory) (i : Nat) : Nat := fld s (64 + 16 * i + 8) 8
def rsFrameOff (s : Memory) (k : Nat) : Nat := 64 + 16 * rsCount s + 4116 * k

/-- A part of a memory as a memory of its own. -/
def cutMem (m : Memory) (off n : Nat) : Memory := Ram.blit ([] : Memory) 0 n (fld m off n)

def rsFrame (s : Memory) (k : Nat) : Memory := cutMem s (rsFrameOff s k) 4116

/-- Logical cores and logical unit masks of the region. -/
def rsRegion (s : Memory) : List (Nat × Nat) := (List.range (rsCount s)).map (fun i => (rsCore s i, rsMask s i))

/-- Physical units of the region in one logical core. -/
def regionIn (sec : Section) (l mask : Nat) : List Nat :=
  ((List.range 64).filter (fun b => bitOf mask b)).map (fun b => sec.unitAt l (b / 8) (b % 8))

def regionUnits (sec : Section) (s : Memory) : List Nat := (rsRegion s).flatMap (fun e => regionIn sec e.1 e.2)

def regionCores (sec : Section) (s : Memory) : List Nat := ((rsRegion s).map (fun e => sec.phys e.1)).eraseDups

/-- A REGION_LOAD of a section has been checked and has not ended. -/
def regionPending (d : Device) (h : Nat) : Bool :=
  (List.range 16).any (fun m => match (d.mb m).job with | .region k _ _ _ => k = h | _ => false)

/-- The REGION_LOAD under way in a section, whose messages have been sent: mailbox and stream. At most one is (R461). -/
def regionJob (d : Device) (h : Nat) : Option (Nat × Memory) :=
  (List.range 16).findSome? (fun m =>
    match (d.mb m).job with
    | .region k s _ true => if k = h then some (m, s) else none
    | _ => none)

/-- FORCE of a REGION_LOAD. -/
def Mailbox.force (x : Mailbox) : Bool := bitOf (x.arg 5 1) 0

/-! ### The fence (R92) -/

/-- Links of a unit's node with the far end outside a set of units, as a mask over link keys. A stream tap has no far node
and is no link of the border (log entry 74, DEDUCED). -/
def borderMask (units : List Nat) (u : Nat) : Nat :=
  ((List.range 8).filter (fun k =>
    match farNode u (k % 4) (decide (4 ≤ k)) with
    | some v => !units.contains v
    | none => false)).foldl (fun a k => a + 2 ^ k) 0

/-- The fence of Order 2 of Table 14.7 stands at once: a token due at a border link then is no handshake in progress (R92; log entry
84, DEDUCED). -/
def setFence (mine all : List Nat) (d : Device) : Device :=
  mine.foldl (fun d u => d.updUnit u (fun x => { x with fenced := borderMask all u })) d

def liftFence (mine : List Nat) (d : Device) : Device := mine.foldl (fun d u => d.updUnit u (fun x => { x with fenced := 0 })) d

/-- Lane `ctx` of units is held, or no more (R76). -/
def holdLane (ctx : Nat) (on : Bool) (units : List Nat) (d : Device) : Device :=
  units.foldl (fun d u => d.updUnit u (fun x =>
    { x with held := if on then x.held ||| 2 ^ ctx else x.held - (x.held &&& 2 ^ ctx) })) d

/-! ### Messages (Table 14.4) -/

/-- R44, R455: an entry boundary, or a UNITS entry that waits for a region and has not acted. -/
def cfgBoundary (q : Seq) : Bool := atBoundary q || (q.state = .waiting && !q.acted)

/-- The oldest control message, at an entry boundary. -/
def ctrlNow (d : Device) (c : Nat) : Option CtrlMsg := if cfgBoundary (d.core c).seq then (d.ctrl c).head? else none

/-- The four empty contexts that MODE 0 begins with (R556). -/
def emptyContexts (x : Unit) : Unit :=
  { x with ctxs := (List.range 4).map (fun k => (k, ({} : Ctx))), active := 0, idle := true, switchReq := none, reload := none }

/-- CFG_BEGIN. -/
def cfgBegin (c : Nat) (d : Device) : Device :=
  match ctrlNow d c with
  | some (.cfgBegin mode ctx units) =>
    let mine := maskUnits c units
    let d := (popCtrl c d).updCore c (fun x => { x with regionWait := 0, cfg := { open_ := true, mode := mode, ctx := ctx, units := units } })
    match mode with
    | 0 => mine.foldl (fun d u => d.updUnit u emptyContexts) d
    | 1 => holdLane ctx true mine d
    | _ =>
      let all := ((coreSection d c).bind (fun sec => (regionJob d sec.handle).map (fun j => regionUnits sec j.2))).getD mine
      setFence mine all d
  | _ => d

def execCfgBegin (core : Fin 16) (s : State) : Host.Outcome State Fault Refusal := .next (s.upd (cfgBegin core.val))

/-- What is left of a core's control messages when its configuration is aborted (CFG_ABORT). -/
def dropCfg (ms : List CtrlMsg) : List CtrlMsg :=
  ms.filter (fun q => match q with
    | .cfgBegin _ _ _ => false
    | .cfgFrame _ _ => false
    | .cfgCommit => false
    | _ => true)

/-- A region load whose commit has begun is undone: the package, its frame stores and the units committed so far are as
they were before (Table 14.7). -/
def undoRegion (sec : Section) (d : Device) : Device :=
  match sec.before with
  | none => d
  | some (pkg, units) =>
    let d := units.foldl (fun d e => d.setUnit e.1 e.2) d
    let d := d.updSection sec.handle (fun s => { s with pkg := pkg, before := none, stale := 0 })
    (List.range (imgCount pkg)).foldl (fun d n =>
      if [0, 1, 2, 3].all (fun p => fld sec.pkg (imgPart pkg n p) 4096 = fld pkg (imgPart pkg n p) 4096) then d
      else writeStoreImage { sec with pkg := pkg } n d) d

/-- Every core of a region load is told to abort; the load ends FAILED. -/
def abortRegion (h : Nat) (e : BitVec 8) (d : Device) : Device :=
  match d.section? h, regionJob d h with
  | some sec, some (m, s) =>
    endFailed m e (undoRegion sec <| (regionCores sec s).foldl (fun d c =>
      d.setCtrl c (dropCfg (d.ctrl c) ++ (if (d.core c).cfg.open_ then [.cfgAbort] else []))) d)
  | _, _ => d

/-- A LOAD ends; a feeder's waits for its broadcast (R402, R425). -/
def endLoad (m : Nat) (code : Option (BitVec 8)) (d : Device) : Device :=
  if d.set.bcasts.any (fun b => match b.feeder with | some f => f.1 = m | none => false) then
    d.updMb m (fun x => { x with job := .feeding code })
  else match code with
    | none => endDone m d
    | some e => endFailed m e d

/-- R456: a frame of MODE 0 or 1 fails: the contexts being written read as zero, and the lane is held no more. -/
def dropWritten (g : CfgState) (mine : List Nat) (d : Device) : Device :=
  if g.mode = 1 then
    holdLane g.ctx false mine (mine.foldl (fun d u => d.updUnit u (fun x => { x.updCtx g.ctx (fun _ => {}) with reload := none })) d)
  else mine.foldl (fun d u => d.updUnit u emptyContexts) d

/-- R456: a frame fails its check at the sequencer. -/
def frameFailed (c : Nat) (f : Memory) (d : Device) : Device :=
  let d := d.updCore c (fun x => { x with fab := { x.fab with cfgFrameFail := satNat 32 x.fab.cfgFrameFail 1 } })
  match coreSection d c with
  | none => d
  | some sec =>
    if (d.core c).cfg.mode = 2 then abortRegion sec.handle 0x20 d
    else
      let m := ((List.range 16).find? (fun m => (d.mb m).job = .loading sec.handle)).orElse (fun _ => liveMbx d sec)
      let d := logEnd 0x14 0x20 c m (frAddr f) d
      let d := dropWritten (d.core c).cfg (maskUnits c (d.core c).cfg.units) d
      let d := (d.updCore c (fun x => { x with cfg := {} })).setCtrl c []
      let d := (List.range 16).foldl (fun d m =>
        match (d.mb m).job with
        | .loading h => if h = sec.handle then endLoad m (some 0x20) d else d
        | _ => d) d
      haltSection sec.handle 0x20 d

/-- CFG_FRAME: checked, then written (MODE 0 and 1) or staged (MODE 2). -/
def cfgFrame (c : Nat) (d : Device) : Device :=
  match ctrlNow d c with
  | some (.cfgFrame image f) =>
    let d := popCtrl c d
    if !(d.core c).cfg.open_ then d
    else if !frameOk 1 f then frameFailed c f d
    else if (d.core c).cfg.mode = 2 then
      if 160 ≤ (d.core c).cfg.frames then d
      else
        d.updCore c (fun x => { x with cfg := { x.cfg with frames := x.cfg.frames + 1, staged := x.cfg.staged ++ [(image, f)] } })
    else writeFrameTarget image f c d
  | _ => d

def execCfgFrame (core : Fin 16) (s : State) : Host.Outcome State Fault Refusal := .next (s.upd (cfgFrame core.val))

/-- R91: the tokens of a unit are dropped: lanes, spill entries and handshakes at Order 3 of its ports. -/
def dropTokens (sec : Section) (u : Nat) (d : Device) : Device :=
  let x := d.unit u
  let atPort := x.latch.filter (fun e => (routeOf x e.2).any (fun r => r < 4))
  let own := x.out.filter (fun e => (routeOf x e.2).any (fun r => r < 4))
  let lanes := (x.lanes.map (fun e => e.2.length)).sum
  let spilled := (((sec.spills.filter (fun r => r.unit = u)).map (fun r => (spillDesc d r).count))).sum
  let n := lanes + spilled + atPort.length + own.length
  let d := d.updUnit u (fun x => { x with lanes := [], latch := x.latch.filter (fun e => !(atPort.contains e)) })
  let d := own.foldl (fun d e => ackOut u e.1 d) d
  let d := (sec.spills.filter (fun r => r.unit = u)).foldl (fun d r => d.updUnit r.mu (fun y =>
    let s := Tab.getD y.mu.spills r.desc {}
    { y with mu := { y.mu with spills := Tab.set y.mu.spills r.desc { s with head := 0, tail := 0, count := 0 } } })) d
  let d := d.updCore (u / 80) (fun y => { y with fab := { y.fab with staleTokens := satNat 48 y.fab.staleTokens n } })
  d.updSection sec.handle (fun s => { s with stale := s.stale + n })

/-- The tokens that wait outside the border for a link into the region (R93): each is dropped with its due turn. -/
def dropBorder (sec : Section) (u k : Nat) (d : Device) : Device :=
  let dir := k % 4
  let edge := decide (4 ≤ k)
  match farNode u dir edge with
  | none => d
  | some v =>
    match dueSource (d.unit v) (opposite dir) edge with
    | none => d
    | some (src, _) =>
      let d := dropSource v src (d.updUnit v (stepLink (linkSlot (opposite dir) edge)))
      let d := d.updCore (u / 80) (fun y => { y with fab := { y.fab with staleTokens := satNat 48 y.fab.staleTokens 1 } })
      d.updSection sec.handle (fun s => { s with stale := s.stale + 1 })

/-- The context of a unit takes effect from its start, as a region commit leaves it. -/
def restartUnit (x : Unit) : Unit :=
  { x with ctxs := x.ctxs.map (fun e => (e.1, freshCtx e.2.image e.2)), active := 0, idle := true, switchReq := none,
           reload := none, flight := [] }

/-- Order 7 of Table 14.6, once no core of the region has a stream open. -/
def finishRegion (h : Nat) (d : Device) : Device :=
  match d.section? h, regionJob d h with
  | some sec, some (m, s) =>
    if (regionCores sec s).any (fun c => (d.core c).cfg.open_) then d
    else
      let d := d.updSection h (fun s => { s with before := none })
      let mark := fun (i : Nat) (d : Device) => d.updMb i (fun x => addNote 0x33 { x with staleDiscard := true })
      let d := if 0 < sec.stale then
          let d := mark m d
          match liveMbx d sec with | some i => mark i d | none => d
        else d
      endDone m d
  | _, _ => d

/-- CFG_COMMIT: MODE 0 and 1 make the contexts written take effect (R76); MODE 2 is Orders 4 to 6 of Table 2.11. -/
def cfgCommit (c : Nat) (d : Device) : Device :=
  match ctrlNow d c with
  | some .cfgCommit =>
    let d := popCtrl c d
    let g := (d.core c).cfg
    let mine := maskUnits c g.units
    let close := fun (d : Device) => d.updCore c (fun x => { x with cfg := {}, regionWait := 0 })
    if !g.open_ then d
    else if g.mode = 0 then
      let d := mine.foldl (fun d u => d.updUnit u restartUnit) d
      close (d.updCore c (fun x => { x with tapPos := [] }))
    else if g.mode = 1 then
      let d := mine.foldl (fun d u => resetTaps u g.ctx (d.updUnit u (fun x => x.updCtx g.ctx (fun k => freshCtx k.image k)))) d
      close (holdLane g.ctx false mine d)
    else
      match coreSection d c with
      | none => close d
      | some sec =>
        let force := (regionJob d sec.handle).any (fun j => (d.mb j.1).force)
        let d := d.updSection sec.handle (fun s => { s with
          before := s.before.map (fun b => (b.1, b.2 ++ mine.map (fun u => (u, d.unit u)))) })
        let d := if force then mine.foldl (fun d u => dropTokens sec u d) d else d
        let d := g.staged.foldl (fun d e => writeFrameTarget e.1 e.2 c d) d
        let d := mine.foldl (fun d u =>
          [0, 1, 2, 3].foldl (fun d k => resetTaps u k d) (d.updUnit u restartUnit)) d
        let d := if force then
            mine.foldl (fun d u => ((List.range 8).filter (fun k => bitOf (d.unit u).fenced k)).foldl (fun d k => dropBorder sec u k d) d) d
          else d
        finishRegion sec.handle (close (liftFence mine d))
  | _ => d

/-- A core of a section being loaded has acted on all its messages: LOAD goes on (Order 6 of Table 1.6). -/
def loadedCore (c : Nat) (d : Device) : Device :=
  match coreSection d c with
  | none => d
  | some sec =>
    if sec.state != .loading || (d.core c).cfg.open_ || d.ctrl c != [] then d
    else
      let d := d.updSection sec.handle (fun s => { s with cfgLeft := s.cfgLeft - 1 })
      if sec.cfgLeft != 1 then d
      else
        let d := d.updSection sec.handle (fun s => { s with state := .idle })
        (List.range 16).foldl (fun d m =>
          match (d.mb m).job with
          | .loading h =>
            if h = sec.handle then endLoad m none d else d
          | _ => d) d

def execCfgCommit (core : Fin 16) (s : State) : Host.Outcome State Fault Refusal :=
  .next (s.upd (fun d =>
    let open_ := (d.core core.val).cfg.open_
    let d := cfgCommit core.val d
    if open_ && !(d.core core.val).cfg.open_ then loadedCore core.val d else d))

/-- A core of a section whose LOAD is being cancelled has taken CFG_ABORT: once each has, the section is unloaded (R428). -/
def abortedCore (c : Nat) (d : Device) : Device :=
  match coreSection d c with
  | none => d
  | some sec =>
    match (List.range 16).find? (fun m => match (d.mb m).job with | .aborting h => h = sec.handle | _ => false) with
    | some m =>
      if sec.cores.any (fun k => (d.ctrl k).contains .cfgAbort) then d
      else settleJobs (endFailed m 0 (unloadSection sec.handle d))
    | none => d

/-- CFG_ABORT: the staging buffer is emptied, the fence or hold lifted. -/
def cfgAbort (c : Nat) (d : Device) : Device :=
  match ctrlNow d c with
  | some .cfgAbort =>
    let d := popCtrl c d
    let g := (d.core c).cfg
    let mine := maskUnits c g.units
    let d := if g.open_ && g.mode = 1 then holdLane g.ctx false mine d else if g.open_ && g.mode = 2 then liftFence mine d else d
    abortedCore c (d.updCore c (fun x => { x with cfg := {}, regionWait := 0 }))
  | _ => d

def execCfgAbort (core : Fin 16) (s : State) : Host.Outcome State Fault Refusal := .next (s.upd (cfgAbort core.val))

/-! ### The commit of a region load (Table 14.6) -/

/-- The section's package with the frames of the region in place of those of the loaded images, and the images they are. -/
def patchedPackage (sec : Section) (s : Memory) (d : Device) : Memory × List Nat :=
  (List.range (rsFrames s)).foldl (fun (a : Memory × List Nat) k =>
    let f := rsFrame s k
    let ad := frAddr f
    let minor := bitsOf ad 16 5
    let u := sec.unitAt (bitsOf ad 28 4) (minor / 4) (bitsOf ad 24 4)
    match (Tab.getD (d.unit u).ctxs (bitsOf ad 22 2) {}).image with
    | some n => (Ram.blit a.1 (imgPart sec.pkg n (minor % 4)) 4096 (frPayload f), if a.2.contains n then a.2 else a.2 ++ [n])
    | none => a) (sec.pkg, [])

/-- R457: the frames of the region replace those of the loaded images in the section's package, and the frame stores. -/
def patchImages (sec : Section) (s : Memory) (d : Device) : Device :=
  let r := patchedPackage sec s d
  let d := d.updSection sec.handle (fun x => { x with pkg := r.1, before := some (sec.pkg, []) })
  r.2.foldl (fun d n => writeStoreImage { sec with pkg := r.1 } n d) d

/-- Order 4: the units of the region in a core have stopped and, without FORCE, hold no token. -/
def regionStill (d : Device) (sec : Section) (force : Bool) (units : List Nat) : Bool :=
  units.all (fun u =>
    let x := d.unit u
    x.idle && x.flight = [] && (force || (x.lanes.all (fun e => e.2 = [])
      && (sec.spills.filter (fun r => r.unit = u)).all (fun r => (spillDesc d r).count = 0))))

/-- Frames of a region stream that one core stages. -/
def regionDue (sec : Section) (s : Memory) (c : Nat) : Nat :=
  16 * (((rsRegion s).find? (fun e => sec.phys e.1 = c)).map (fun e => ((List.range 64).filter (fun b => bitOf e.2 b)).length)).getD 0

/-- Order 3 is complete: every core of the region load in which this core takes part has staged its frames (R21). -/
def regionStaged (d : Device) (c : Nat) : Bool :=
  (d.core c).cfg.open_ && (d.core c).cfg.mode = 2 && (match coreSection d c with
    | some sec => (regionJob d sec.handle).any (fun j => (regionCores sec j.2).all (fun k =>
        let g := (d.core k).cfg
        g.open_ && g.mode = 2 && g.frames = regionDue sec j.2 k))
    | none => false)

/-- REGION_READY: Order 4 at one core; when every core has reported, Order 5. -/
def regionReady (c : Nat) (d : Device) : Device :=
  match coreSection d c with
  | none => d
  | some sec =>
    match regionJob d sec.handle with
    | some (m, s) =>
      let g := (d.core c).cfg
      if g.ready = 0 && regionStaged d c && regionStill d sec (d.mb m).force (maskUnits c g.units) then
        let d := d.updCore c (fun x => { x with cfg := { x.cfg with ready := 1 } })
        let cs := regionCores sec s
        if cs.all (fun k => (d.core k).cfg.ready = 1) then cs.foldl (fun d k => pushCtrl k [.cfgCommit] d) (patchImages sec s d)
        else d
      else d
    | none => d

def execRegionReady (core : Fin 16) (s : State) : Host.Outcome State Fault Refusal := .next (s.upd (regionReady core.val))

/-- REGION_READY_TIMEOUT (R462). -/
def regionTimeout (c : Nat) (d : Device) : Device :=
  match coreSection d c with
  | none => d
  | some sec =>
    match regionJob d sec.handle with
    | some (m, _) =>
      if (d.core c).cfg.ready = 0 && regionStaged d c && !(d.mb m).force && 2000000 ≤ (d.core c).regionWait then abortRegion sec.handle 0x03 d
      else d
    | none => d

def execRegionReadyTimeout (core : Fin 16) (s : State) : Host.Outcome State Fault Refusal := .next (s.upd (regionTimeout core.val))

/-- Order 2's condition: no UNITS entry in progress names a unit of the region. -/
def unitsClear (d : Device) (units : List Nat) : Bool :=
  (List.range 16).all (fun c => (d.core c).seq.unitsLeft.all (fun k => !units.contains (k / 4)))

/-- Order 2: CFG_BEGIN and the frames of each core, in physical form with the routes of the images now loaded. -/
def sendRegion (m : Nat) (sec : Section) (s : Memory) (len : Nat) (d : Device) : Device :=
  let d := (rsRegion s).foldl (fun d e =>
    let c := sec.phys e.1
    let mask := (regionIn sec e.1 e.2).foldl (fun a u => a ||| 2 ^ (u % 80)) 0
    let msgs := (List.range (rsFrames s)).filterMap (fun k =>
      let f := rsFrame s k
      let a := frAddr f
      if bitsOf a 28 4 != e.1 then none
      else
        let minor := bitsOf a 16 5
        let u := sec.unitAt e.1 (minor / 4) (bitsOf a 24 4)
        let ctx := bitsOf a 22 2
        let image := (Tab.getD (d.unit u).ctxs ctx {}).image
        let lay := (image.map (imgLayout sec.pkg)).orElse (fun _ => loadLayout sec.pkg e.1 (minor / 4) ctx)
        let gen := match lay with
          | some y => if minor % 4 = 2 then genPayload sec.pkg (colsAt sec e.1) y (minor / 4) (u % 10) else 0
          | none => 0
        some (CtrlMsg.cfgFrame image (makeFrame (physAddr c (u % 10) ctx minor) 1 0 (frSerial f) (frPayload f + gen))))
    pushCtrl c (.cfgBegin 2 0 mask :: msgs) d) d
  (d.updSection sec.handle (fun x => { x with stale := 0 })).updMb m (fun x => { x with job := .region sec.handle s len true })

/-- A region load that has passed its checks goes on when no other one runs in its section (R461). -/
def regionTurn (m : Nat) (d : Device) : Device :=
  match (d.mb m).job with
  | .region h s len false =>
    match d.section? h with
    | none => endFailed m 0x03 d
    | some sec =>
      let first := (List.range 16).all (fun k =>
        match (d.mb k).job with
        | .region h' _ _ sent => k = m || h' != h || (!sent && decide ((d.mb m).order < (d.mb k).order))
        | _ => true)
      let live := sec.state = .idle || sec.state = .running
      if !live then endFailed m 0x03 d
      else if first && unitsClear d (regionUnits sec s) then sendRegion m sec s len d else d
  | _ => d

/-! ### A section's load (Orders 4 to 6 of Table 1.6, R448, R556) -/

/-- The frames of one image, parts 0 to 3. -/
def imageFrames (sec : Section) (c l : Nat) (image : Nat) : List CtrlMsg :=
  let m := sec.pkg
  let row := imgRow m image
  let cols := colsAt sec l
  let col := cols.getD (8 * row + imgLcol m image) 0
  [0, 1, 2, 3].map (fun p =>
    CtrlMsg.cfgFrame (some image) (makeFrame (physAddr c col (imgCtx m image) (4 * row + p)) 1 0 (imgFrame m image + p)
      (imagePayload m cols image p row col)))

/-- The frames of the units and contexts without an image: parts 0, 1 and 3 hold nothing, part 2 what R284 derives, so that a
full core takes 80 x 16 unit frames (R448). -/
def generatedFrames (sec : Section) (c l : Nat) : List CtrlMsg :=
  let m := sec.pkg
  let cols := colsAt sec l
  (List.range 8).flatMap (fun row => (List.range 4).flatMap (fun k =>
    (spareIn cols row ++ emptyCols sec l row k).flatMap (fun col =>
      let gen := (loadLayout m l row k).elim 0 (fun lay => genPayload m cols lay row col)
      [0, 1, 2, 3].map (fun p =>
        CtrlMsg.cfgFrame none (makeFrame (physAddr c col k (4 * row + p)) 1 0 0 (if p = 2 then gen else 0))))))

/-- The table frames of a core (R448). -/
def tableFrames (m : Memory) (c l : Nat) : List CtrlMsg :=
  let streams := if (dirOf m 9).isSome then fld m (streamsOff m l) 30720 else 0
  let tail := (fld m (coreHeader m l) 32 <<< (8 * 2048)) + (fld m (secAt m 0x10 + 0x40) 1024 <<< (8 * 2080))
  let st := (List.range 8).map (fun k =>
    let v := bitsOf streams (8 * 4096 * k) (8 * 4096)
    CtrlMsg.cfgFrame none (makeFrame (physAddr c 0xE 0 k) 1 0 0 (if k = 7 then v + tail else v)))
  let n := ephCount m l
  let eph := (List.range 32).map (fun k =>
    let have_ := min 128 (n - 128 * k)
    CtrlMsg.cfgFrame none (makeFrame (physAddr c 0xF 0 k) 1 0 0 (fld m (ephEntryOff m l (128 * k)) (32 * have_))))
  st ++ eph

/-- The messages that load a core of a section: every context's first image, generated frames, tables, commit. -/
def loadMessages (sec : Section) (l : Nat) : List CtrlMsg :=
  let m := sec.pkg
  let c := sec.phys l
  let images := (List.range 8).flatMap (fun r => (List.range 8).flatMap (fun k => (List.range 4).filterMap (firstImage m l r k)))
  [.cfgBegin 0 0 (2 ^ 80 - 1)] ++ images.flatMap (imageFrames sec c l) ++ generatedFrames sec c l ++ tableFrames m c l ++ [.cfgCommit]

/-- PROFILE of the package (R197). -/
def pkgProfile (d : Device) (m : Memory) : Bool × Bool :=
  match bitsOf (pkgFlags m) 0 2 with
  | 1 => (true, true)
  | 2 => (false, true)
  | _ => (d.host.straps.getLsbD 15, false)

/-- The length registers of a section that runs no command: the GRAIN of each declared length (R136). -/
def declaredGrains (m : Memory) : Tab LenReg :=
  ((List.range 8).filter (lenDeclared m)).map (fun n => (n, { grain := lenGrain m n }))

/-- The cores of a placed section are taken and their messages sent. -/
def sendLoad (sec : Section) (d : Device) : Device :=
  let p := pkgProfile d sec.pkg
  let d := (List.range sec.cores.length).foldl (fun d l =>
    let c := sec.phys l
    ((d.updCore c (fun x => { (freeCore x) with
      section_ := some sec.handle, logical := l, profile := some p.1, fromPackage := p.2,
      lens := declaredGrains sec.pkg, eps := [] })).setCtrl c (loadMessages sec l)).updSection sec.handle (fun s => { s with cfgLeft := sec.cores.length })) d
  d

end Sys2Proof.Machine
end

