-- ==== Sys2Proof/Machine/CoreReset.lean ====
section
/-!
DEFINITION. Machine/CoreReset.lean: the core reset (R99, R219, R260, R474, R549, R552).
-/
namespace Sys2Proof.Machine

/-- A region load with this core in its region is aborted (R474). -/
def abortRegionOf (c : Nat) (d : Device) : Device :=
  match coreSection d c with
  | some sec =>
    match regionJob d sec.handle with
    | some (_, s) => if (regionCores sec s).contains c then abortRegion sec.handle 0x03 d else d
    | _ => d
  | none => d

/-- One core reset: accepted stores finish, endpoints close, edge handshakes are released, and the core's state goes. -/
def coreReset (c : Nat) (d : Device) : Device :=
  if !corePowered d c then d
  else resetCoreState c (releaseEdges c (flushCore c (closeCore c (abortRegionOf c d))))

/-- CORE_RESET: Meridian applies it only at the points of R552: in a sequence of Table 18.7, and to a core taken offline that
no section holds with a command that is not final, before CORE_OFFLINE ends and at CORE_ONLINE. -/
def coreResetRow (c : Nat) (d : Device) : Device :=
  let held := (coreSection d c).any (fun s => (liveMbx d s).isSome || s.state = .loading || s.state = .forming)
  if d.boot.resetting || (d.sched.offline.getLsbD c && !held) then coreReset c d else d

def execCoreReset (core : Fin 16) (s : State) : Host.Outcome State Fault Refusal := .next (s.upd (coreResetRow core.val))

end Sys2Proof.Machine
end

