-- ==== Sys2Proof/Machine/Matrix.lean ====
section
/-!
DEFINITION. Machine/Matrix.lean: the banks and the operand buffer of a CU, the regions that its words name, the limits
on their start (R115, R143), and the matrix engine's words (chapter 3).
-/
namespace Sys2Proof.Machine

/-! ### Banks and the operand buffer (R100 to R102, R136) -/

/-- The profile that rules a core (R197). -/
def tabledIn (d : Device) (c : Nat) : Bool := (d.core c).profile.getD (d.host.straps.getLsbD 15)

def Unit.bank (x : Unit) (b : Nat) : Bank := if b = 0 then x.cu.bank0 else x.cu.bank1

/-- Element `e` = 32 i + c of a bank. -/
def Unit.bankAt (u : Nat) (x : Unit) (b e : Nat) : BitVec 32 :=
  match Tab.find (x.bank b).cells e with
  | some v => v
  | none => if (x.bank b).zeroed then 0 else Config.freeBank x.epoch u b e

def Unit.setBank (x : Unit) (b : Nat) (k : Bank) : Unit :=
  if b = 0 then { x with cu := { x.cu with bank0 := k } } else { x with cu := { x.cu with bank1 := k } }

/-- Write elements of a bank. -/
def Unit.pokeBank (x : Unit) (b : Nat) (es : List (Nat × BitVec 32)) : Unit :=
  x.setBank b { x.bank b with cells := es.foldl (fun t e => Tab.set t e.1 e.2) (x.bank b).cells }

/-- Unit `k` = 128 half + unit of the operand buffer. -/
def Unit.bufAt (u : Nat) (x : Unit) (k : Nat) : BitVec 4096 :=
  match Tab.find x.cu.buf k with
  | some v => v
  | none => if x.cu.bufZeroed then 0 else Config.freeBuffer x.epoch u k

/-- `n` units of the buffer. -/
def Unit.region (u : Nat) (x : Unit) (k n : Nat) : Array (BitVec 4096) :=
  ((List.range n).map (fun i => Unit.bufAt u x (k + i))).toArray

def Unit.pokeBuf (x : Unit) (k : Nat) (us : List (BitVec 4096)) : Unit :=
  { x with cu := { x.cu with buf := Tab.setAll x.cu.buf k us } }

/-! ### Fields of the matrix words (Tables 3.6 and 3.7, R114) -/

def fmtOf (v : Nat) : Fmt := (Fmt.ofCode v).getD .fp32

/-- A region's first unit, as 128 half + offset. -/
def regionAt (w : BitVec 128) (off half : Nat) : Nat := 128 * imm w half 1 + imm w off 7

def mmSplit (w : BitVec 128) : Nat := imm w 24 3
/-- Lanes S and columns per lane Nw (R119). -/
def mmLanes (w : BitVec 128) : Nat := 2 ^ mmSplit w
def mmNw (w : BitVec 128) : Nat := 32 / mmLanes w

/-- Operand A: 64 rows by K_COUNT positions. -/
def mmA (w : BitVec 128) : TileShape :=
  { fmt := fmtOf (imm w 0 4), dir := scaleDirA (imm w 8 6), bs := scaleBlock (imm w 8 6), rows := 64,
    cols := imm w 28 11, trans := bitOf (imm w 22 1) 0 }

/-- Operand B: K_COUNT positions by Nw columns; stored as its transpose unless B_TRANS. -/
def mmB (w : BitVec 128) : TileShape :=
  { fmt := fmtOf (imm w 4 4), dir := scaleDirB (imm w 14 6), bs := scaleBlock (imm w 14 6), rows := imm w 28 11,
    cols := mmNw w, trans := !bitOf (imm w 23 1) 0 }

def mmRegA (w : BitVec 128) : Nat := regionAt w 72 79
def mmRegB (w : BitVec 128) : Nat := regionAt w 80 87

def emitSplit (w : BitVec 128) : Nat := imm w 14 3
def emitNw (w : BitVec 128) : Nat := 32 / 2 ^ emitSplit w
/-- The tile of an ACC_EMIT: 64 rows by Nw columns. -/
def emitTile (w : BitVec 128) : TileShape :=
  tileOf (fmtOf (imm w 0 4)) (imm w 4 6) 64 (emitNw w) (bitOf (imm w 12 1) 0)
def emitDest (w : BitVec 128) : Nat := imm w 36 2

/-! ### Fields of the vector words (Tables 4.3 and 4.5) -/

def vW (w : BitVec 128) : Nat := imm w 18 5 + 1
def vFunc (w : BitVec 128) : Nat := imm w 55 6
def vSelA (w : BitVec 128) : Nat := imm w 23 2
def vSelB (w : BitVec 128) : Nat := imm w 25 2
def vRegA (w : BitVec 128) : Nat := regionAt w 28 35
def vRegB (w : BitVec 128) : Nat := regionAt w 36 43
def vRegD (w : BitVec 128) : Nat := regionAt w 44 51
def vDest (w : BitVec 128) : Nat := imm w 52 2
/-- The descriptor of a word in its context. -/
def vDesc (c : Ctx) (w : BitVec 128) : BitVec 64 := Ram.read c.consts (imm w 61 6)
/-- The FP32 or u32 of the descriptor. -/
def vValue (c : Ctx) (w : BitVec 128) : BitVec 32 := BitVec.ofNat 32 (bitsOf (vDesc c w).toNat 32 32)

/-- Operand A is a tile, and its columns; none where the word reads no A, or a record. -/
def vColsA (w : BitVec 128) : Option Nat :=
  match wOp w, vFunc w with
  | 0x65, 1 => some (vW w)
  | 0x65, 2 => some (vW w)
  | 0x65, _ => none
  | 0x66, 0 => none
  | 0x67, 6 => some (vW w / 2)
  | 0x67, 7 => some (2 * vW w)
  | 0x67, 8 => some (2 * vW w)
  | 0x67, 0xB => some 32
  | 0x68, _ => none
  | _, _ => some (vW w)

/-- Operand B is a tile: its rows and columns; none where the word reads no B, or a mask, indexes or a record. -/
def vShapeB (w : BitVec 128) : Option (Nat × Nat) :=
  match wOp w with
  | 0x60 => if 6 ≤ vFunc w && vFunc w ≤ 0xC then some (64, vW w) else none
  | 0x61 => if bitOf (vFunc w) 5 then some (1, vW w) else some (64, 1)
  | 0x64 => if bitOf (vFunc w) 5 then none else some (64, vW w)
  | 0x67 => if vFunc w = 6 then some (64, vW w / 2) else if vFunc w = 0xA then some (64, vW w) else none
  | _ => none

/-- Operand B is a predicate token or a table of indexes, of one unit (R156, Table 4.5). -/
def vMaskB (w : BitVec 128) : Bool := wOp w = 0x67 && vFunc w ≤ 5

/-- MERGE reads two records of 2 units (R164). -/
def vMerge (w : BitVec 128) : Bool := wOp w = 0x65 && vFunc w = 3

def vTileA (c : Ctx) (w : BitVec 128) : TileShape :=
  tileOf (fmtOf (imm w 0 4)) (bitsOf (vDesc c w).toNat 0 6) 64 ((vColsA w).getD 1) false

def vTileB (c : Ctx) (w : BitVec 128) : TileShape :=
  let s := (vShapeB w).getD (64, 1)
  tileOf (fmtOf (imm w 4 4)) (bitsOf (vDesc c w).toNat 6 6) s.1 s.2 false

/-- Units of operand A and B in the buffer or from a port. -/
def vUnitsA (c : Ctx) (w : BitVec 128) : Nat :=
  if vMerge w then 2 else if (vColsA w).isSome then (vTileA c w).units else 0
def vUnitsB (c : Ctx) (w : BitVec 128) : Nat :=
  if vMerge w then 2 else if vMaskB w then 1 else if (vShapeB w).isSome then (vTileB c w).units else 0

/-- The output tile, none where the word writes no converted tile (V_PRED, V_STATS, V_SMAX INIT). -/
def vOut (w : BitVec 128) : Option TileShape :=
  let t := fun r k => some (tileOf (fmtOf (imm w 8 4)) (imm w 12 6) r k false)
  match wOp w with
  | 0x63 => if bitOf (vFunc w) 5 then t 1 (vW w) else t 64 1
  | 0x64 => none
  | 0x65 => none
  | 0x66 => if vFunc w = 0 then none else t 64 (vW w)
  | _ => t 64 (vW w)

/-! ### What a word reads and writes (R111, R115, R143) -/

/-- Regions of the buffer as (first unit, number of units). -/
abbrev Regions := List (Nat × Nat)

def isPort (src : Nat) : Bool := src < 4
/-- The operand stands in the buffer: captured there, or named there. -/
def inBuffer (src : Nat) : Bool := src < 4 || src = 8

/-- The region of the output or record at D. -/
def vRegionsD (w : BitVec 128) : Regions :=
  let r := if wOp w = 0x65 || wOp w = 0x66 then [(vRegD w, 2)] else []
  if vDest w = 1 || vDest w = 3 then
    match vOut w with | some t => r ++ [(vRegD w, t.units)] | none => r
  else r

/-- Regions captured from a port. -/
def captures (c : Ctx) (w : BitVec 128) : Regions :=
  match wOp w with
  | 0x20 => (if isPort (wSrcA w) then [(mmRegA w, (mmA w).units)] else [])
              ++ (if isPort (wSrcB w) then [(mmRegB w, (mmB w).units)] else [])
  | 0x24 => [(regionAt w 8 15, imm w 0 8)]
  | op =>
    if 0x60 ≤ op && op ≤ 0x68 then
      (if isPort (wSrcA w) then [(vRegA w, vUnitsA c w)] else []) ++ (if isPort (wSrcB w) then [(vRegB w, vUnitsB c w)] else [])
    else []

/-- Regions a word reads. -/
def regionReads (c : Ctx) (w : BitVec 128) : Regions :=
  match wOp w with
  | 0x20 => (if inBuffer (wSrcA w) then [(mmRegA w, (mmA w).units)] else [])
              ++ (if inBuffer (wSrcB w) then [(mmRegB w, (mmB w).units)] else [])
  | op =>
    if 0x60 ≤ op && op ≤ 0x68 then
      (if inBuffer (wSrcA w) then [(vRegA w, vUnitsA c w)] else [])
        ++ (if inBuffer (wSrcB w) then [(vRegB w, vUnitsB c w)] else [])
        ++ (if op = 0x65 || op = 0x66 then [(vRegD w, 2)] else [])
    else []

/-- Regions a word writes. -/
def regionWrites (c : Ctx) (w : BitVec 128) : Regions :=
  captures c w ++
    (match wOp w with
     | 0x21 => if emitDest w = 1 then [(regionAt w 38 45, (emitTile w).units)] else []
     | op => if 0x60 ≤ op && op ≤ 0x68 then vRegionsD w else [])

/-- Banks a word names (limit 6, R143). -/
def banksOf (w : BitVec 128) : List Nat :=
  match wOp w with
  | 0x20 => [imm w 20 1]
  | 0x21 => [imm w 10 1]
  | 0x22 => [imm w 0 1]
  | 0x23 => [imm w 0 1]
  | op =>
    if 0x60 ≤ op && op ≤ 0x68 then
      let sel := fun s => if 2 ≤ s then [s - 2] else ([] : List Nat)
      sel (vSelA w) ++ sel (vSelB w) ++ (if vDest w = 2 then [imm w 54 1] else [])
    else []

def isVector (w : BitVec 128) : Bool := 0x60 ≤ wOp w && wOp w ≤ 0x68

/-- A word that captures (limit 1): it takes tokens from a port. -/
def isCapture (c : Ctx) (w : BitVec 128) : Bool := wOp w = 0x22 || captures c w != []

def overlaps (a b : Regions) : Bool := a.any (fun p => b.any (fun q => p.1 < q.1 + q.2 && decide (q.1 < p.1 + p.2)))

/-- Tokens a word takes from its port A and its port B. -/
def needA (c : Ctx) (w : BitVec 128) : Nat :=
  if !isPort (wSrcA w) then 0
  else match wOp w with
    | 0x20 => (mmA w).units
    | 0x22 => 16
    | 0x24 => imm w 0 8
    | _ => vUnitsA c w
def needB (c : Ctx) (w : BitVec 128) : Nat :=
  if !isPort (wSrcB w) then 0 else match wOp w with | 0x20 => (mmB w).units | _ => vUnitsB c w

/-- Limits 3 to 6 of R115 and limits 2, 4, 6 and 7 of R143 let a word start after the words in flight. -/
def cuMay (x : Unit) (w : BitVec 128) : Bool :=
  let c := x.ctx
  let ok := fun (f : Flight) =>
    !(wOp w = 0x21 && wOp f.word = 0x21)
      && !(isVector w && isVector f.word)
      && !overlaps (regionWrites c f.word) (regionReads c w ++ regionWrites c w)
      && !overlaps (regionReads c f.word) (regionWrites c w)
      && (wOp w = 0x20 || !(banksOf w).any (fun b => (banksOf f.word).contains b))
  let queue := isVector w && (vSelA w = 1 || vSelB w = 1)
  let held := (x.cu.ftq.map (fun e => e.units.length)).sum
  x.flight.all ok && (!queue || (x.cu.ftq.head?.map (·.ready)).getD false)
    && (!(wOp w = 0x21 && emitDest w = 2) || held + (emitTile w).units ≤ 32)

/-- The words that started before a word in flight. -/
def earlier (x : Unit) (f : Flight) : List Flight := x.flight.takeWhile (fun g => g != f)

/-- Limit 1: every earlier capture has taken its last token. -/
def mayCapture (x : Unit) (f : Flight) : Bool :=
  let c := Tab.getD x.ctxs f.ctx {}
  (earlier x f).all (fun g => needA c g.word ≤ g.takenA && needB c g.word ≤ g.takenB)

/-- Limits 2 and 6: the compute phase of an MM_ACC may begin. -/
def mayCompute (x : Unit) (f : Flight) : Bool :=
  (earlier x f).all (fun g => wOp g.word != 0x20 && !(banksOf f.word).any (fun b => (banksOf g.word).contains b))

/-- Extents fixed when a word starts (R125). -/
def startExtents (c : Core) (x : Unit) (f : Flight) (mv nv : Nat) (ml nl : Nat) : Flight :=
  let loops := x.ctx.loops
  { f with m := extent c loops ml mv, n := extent c loops nl nv }

/-- Capture from a port: tokens into consecutive units of a region, up to `n` (R109, R116). -/
def captureInto (port ctx at_ taken n : Nat) (x : Unit) : Nat × Unit :=
  let r := takeMany port ctx (n - taken) x
  (taken + r.1.length, r.2.pokeBuf (at_ + taken) (r.1.map (·.payload)))

/-- Capture both operands of a word. Of two operands that name one port, which R111 rejects for MM_ACC alone, A's tokens
come first (log entry 76, DESIGN CHOICE). -/
def captureOperands (regA regB : Nat) (x : Unit) (f : Flight) : Unit × Flight :=
  if mayCapture x f then
    let c := Tab.getD x.ctxs f.ctx {}
    let a := if isPort (wSrcA f.word) then captureInto (wSrcA f.word) f.ctx regA f.takenA (needA c f.word) x else (0, x)
    let b := if isPort (wSrcB f.word) then captureInto (wSrcB f.word) f.ctx regB f.takenB (needB c f.word) a.2 else (0, a.2)
    (b.2, { f with takenA := a.1, takenB := b.1 })
  else (x, f)

/-- Units of a stored tile up to the one that holds element (i, j): its scales and the elements before it (R108). -/
def TileShape.unitsTo (t : TileShape) (i j : Nat) : Nat :=
  min t.units (t.scaleUnits + (t.pos i j * t.fmt.bits) / 4096 + 1)

/-- Tokens that bring the first K group of an MM_ACC, or the first column of a vector word (R116, R170). -/
def firstNeedA (c : Ctx) (w : BitVec 128) : Nat :=
  if wOp w = 0x20 then (if isPort (wSrcA w) then (mmA w).unitsTo 63 15 else 0)
  else if isPort (wSrcA w) && (vColsA w).isSome then (vTileA c w).unitsTo 63 0
  else needA c w
def firstNeedB (c : Ctx) (w : BitVec 128) : Nat :=
  if wOp w = 0x20 then (if isPort (wSrcB w) then (mmB w).unitsTo 15 (mmNw w - 1) else 0) else needB c w

/-- The operands that a word's compute or first pass begins with have been taken. -/
def firstCaptured (x : Unit) (f : Flight) : Bool :=
  let c := Tab.getD x.ctxs f.ctx {}
  firstNeedA c f.word ≤ f.takenA && firstNeedB c f.word ≤ f.takenB

/-- Every token of a word's operands has been taken. -/
def captured (x : Unit) (f : Flight) : Bool :=
  let c := Tab.getD x.ctxs f.ctx {}
  needA c f.word ≤ f.takenA && needB c f.word ≤ f.takenB

/-! ### MM_ACC (R112, R118 to R122, R130 to R134) -/

/-- The elements an MM_ACC changes and the counts of its sums. -/
def mmResult (tabled : Bool) (major : Nat) (c : Ctx) (w : BitVec 128) (f : Flight) (a b : Array (BitVec 4096)) (bank : Nat → BitVec 32) :
    List (Nat × BitVec 32) × Counts :=
  let s := mmLanes w
  let nw := mmNw w
  let ta := mmA w
  let tb := mmB w
  let zero := bitOf (imm w 21 1) 0
  (positions (min f.m 64) (min f.n nw)).foldl (init := (([] : List (Nat × BitVec 32)), ({} : Counts))) fun acc p =>
    if maskBit c w (32 * p.1 + p.2) then
      let at_ := fun l => 32 * p.1 + l * nw + p.2
      let lanes := ((List.range s).map (fun l => if zero then (0 : BitVec 32) else bank (at_ l))).toArray
      let r := mmElement tabled ta.fmt.isInt major ta.fmt.rate s f.k (fun k => ta.exact a p.1 k) (fun k => tb.exact b k p.2) lanes acc.2
      (acc.1 ++ (List.range s).map (fun l => (at_ l, r.1.getD l 0)), r.2)
    else acc

/-- Steps of the compute phase (R118). -/
def mmSteps (tabled : Bool) (w : BitVec 128) (k : Nat) : Nat :=
  let g := ((k + 15) / 16 + mmLanes w - 1) / mmLanes w
  match (mmA w).fmt.rate with
  | .quarter => 8 * g
  | .byte => 16 * g
  | .half => 32 * g
  | .single => if tabled then 512 * g else 96 * g

def initMm (c : Core) (x : Unit) (f : Flight) : Flight :=
  let w := f.word
  let f := startExtents c x f (imm w 50 7) (imm w 57 6) (imm w 63 3) (imm w 66 3)
  { f with k := extent c x.ctx.loops (imm w 69 3) (imm w 39 11) }

/-- MM_ACC captures its operands as their tokens arrive, then computes; with `hold` its compute phase has not ended
(MM_BUSY). -/
def advMm (hold : Bool) (d : Device) (u : Nat) (x : Unit) (f : Flight) : Unit × Flight :=
  let r := captureOperands (mmRegA f.word) (mmRegB f.word) x f
  let f' := r.2
  if !hold && captured r.1 f' && mayCompute x f then
    let w := f.word
    let tab := tabledIn d (u / 80)
    let b := imm w 20 1
    let c := Tab.getD r.1.ctxs f.ctx {}
    let res := mmResult tab d.boot.fwMajor.toNat c w f' (Unit.region u r.1 (mmRegA w) (mmA w).units) (Unit.region u r.1 (mmRegB w) (mmB w).units)
      (Unit.bankAt u r.1 b)
    let y := r.1.pokeBank b res.1
    let y := { y with cu := { y.cu with mmSteps := satNat 48 y.cu.mmSteps (mmSteps tab w f'.k) } }
    (y, { f' with done := true, sat := res.2.sat, flush := res.2.flush })
  else r

def execMmAcc (u : UnitRef) (s : State) (hold : Bool := false) : Host.Outcome State Fault Refusal :=
  .next (s.upd (runWord 0x20 (fun _ x w => cuMay x w) initMm (advMm hold) u.key))

/-! ### ACC_EMIT (R113, R118, R120, R121, R123, R131, R139, R179) -/

/-- The combined lanes of an element (R131). -/
def combineLanes (isInt : Bool) (split nw : Nat) (bank : Nat → BitVec 32) (i j : Nat) (c : Counts) : BitVec 32 × Counts :=
  let lanes := (List.range (2 ^ split)).map (fun l => bank (32 * i + l * nw + j))
  let r := pairTree (laneAdd isInt) split lanes c
  (r.1.headD 0, r.2)

/-- The value of a 32-bit word read as FP32 or as INT32. -/
def wordNum (isInt : Bool) (v : BitVec 32) : Num :=
  if isInt then .fin (decide (v.toInt < 0)) v.toInt.natAbs 0 else f32 v

/-- Values of a 64-row tile by position, masked ones absent, and the counts of forming them. -/
def gather (rows cols : Nat) (mask : Nat → Nat → Bool) (val : Nat → Nat → Counts → Num × Counts) (c : Counts) :
    Array (Option Num) × Counts :=
  (positions rows cols).foldl (init := ((#[] : Array (Option Num)), c)) fun acc p =>
    if mask p.1 p.2 then
      let r := val p.1 p.2 acc.2
      (acc.1.push (some r.1), r.2)
    else (acc.1.push none, acc.2)

/-- The tile of an ACC_EMIT. -/
def emitResult (c : Ctx) (w : BitVec 128) (f : Flight) (bank : Nat → BitVec 32) : Converted :=
  let isInt := bitOf (imm w 13 1) 0
  let nw := emitNw w
  let mask := fun i j => decide (i < f.m) && decide (j < f.n) && maskBit c w (32 * i + j)
  let r := gather 64 nw mask (fun i j k =>
    let v := combineLanes isInt (emitSplit w) nw bank i j k
    (wordNum isInt v.1, v.2)) {}
  let t := convertTile (emitTile w) isInt (fun i j => r.1.getD (i * nw + j) none) id (fun _ _ => .nearestEven)
  { t with counts := { sat := r.2.sat + t.counts.sat, flush := r.2.flush + t.counts.flush } }

/-- The tokens of a tile: VALID_BYTES by R57, TILE_END on the last one where the word says so. -/
def tileTokens (ctx : Nat) (tileEnd : Bool) (us : List (BitVec 4096)) (valid : List Nat) : List Token :=
  us.zipIdx.map (fun e => ⟨e.1, mkTag ctx (tileEnd && e.2 + 1 = us.length) (valid.getD e.2 512) 0 0⟩)

def initEmit (c : Core) (x : Unit) (f : Flight) : Flight :=
  let w := f.word
  startExtents c x f (imm w 17 7) (imm w 24 6) (imm w 30 3) (imm w 33 3)

/-- ACC_EMIT forms its tile, and sends it, stores it, or appends it to the finished-tile queue.  CLEAR_AFTER clears every element
of the bank, whatever the mask (Table 3.7; log entry 91, DEDUCED). -/
def advEmit (_ : Device) (u : Nat) (x : Unit) (f : Flight) : Unit × Flight :=
  let w := f.word
  let b := imm w 10 1
  let t := emitResult (Tab.getD x.ctxs f.ctx {}) w f (Unit.bankAt u x b)
  let x := if bitOf (imm w 11 1) 0 then x.setBank b { zeroed := true } else x
  let f := { f with done := true, sat := t.counts.sat, flush := t.counts.flush, runmax := t.runmax }
  match emitDest w with
  | 0 => (x, { f with outbox := tileTokens f.ctx (wTileEnd w) t.units (emitTile w).validBytes })
  | 1 => (x.pokeBuf (regionAt w 38 45) t.units, f)
  | _ =>
    let e : FtqEntry := { fmt := imm w 0 4, scale := imm w 4 6, nw := emitNw w, ctx := f.ctx, ready := true, units := t.units }
    ({ x with cu := { x.cu with ftq := x.cu.ftq ++ [e] } }, f)

def execAccEmit (u : UnitRef) (s : State) : Host.Outcome State Fault Refusal :=
  .next (s.upd (runWord 0x21 (fun _ x w => cuMay x w) initEmit advEmit u.key))

/-! ### ACC_LOAD, ACC_CLEAR and BUF_LOAD (Table 3.5, R114) -/

/-- The 2,048 words of 16 tokens in row-slab layout, by bank element (R101, R107). -/
def loadCells (ts : List (BitVec 4096)) : List (Nat × BitVec 32) :=
  let us := ts.toArray
  (positions 64 32).map (fun p => (32 * p.1 + p.2, BitVec.ofNat 32 (bitsAt us (32 * slabPos 64 32 p.1 p.2) 32)))

/-- ACC_LOAD takes 16 tokens, then fills the bank; a predicated one leaves the masked elements (R81). -/
def advAccLoad (_ : Device) (_ : Nat) (x : Unit) (f : Flight) : Unit × Flight :=
  if mayCapture x f then
    let r := takeMany (wSrcA f.word) f.ctx (16 - f.takenA) x
    let f := { f with takenA := f.takenA + r.1.length, inbox := f.inbox ++ r.1 }
    if f.takenA = 16 then
      let live := (loadCells (f.inbox.map (·.payload))).filter (fun e => maskBit (Tab.getD x.ctxs f.ctx {}) f.word e.1)
      (r.2.pokeBank (imm f.word 0 1) live, { f with done := true, inbox := [] })
    else (r.2, f)
  else (x, f)

def execAccLoad (u : UnitRef) (s : State) : Host.Outcome State Fault Refusal :=
  .next (s.upd (runWord 0x22 (fun _ x w => cuMay x w) noInit advAccLoad u.key))

/-- ACC_CLEAR; a predicated one leaves the masked elements (R81). -/
def advAccClear (_ : Device) (_ : Nat) (x : Unit) (f : Flight) : Unit × Flight :=
  let b := imm f.word 0 1
  let done := { f with done := true }
  if wPredicated f.word then
    let live := (List.range 2048).filter (maskBit (Tab.getD x.ctxs f.ctx {}) f.word)
    (x.pokeBank b (live.map (fun e => (e, 0))), done)
  else (x.setBank b { zeroed := true }, done)

def execAccClear (u : UnitRef) (s : State) : Host.Outcome State Fault Refusal :=
  .next (s.upd (runWord 0x23 (fun _ x w => cuMay x w) noInit advAccClear u.key))

/-- BUF_LOAD captures TOKENS tokens. -/
def advBufLoad (_ : Device) (_ : Nat) (x : Unit) (f : Flight) : Unit × Flight :=
  let r := captureOperands (regionAt f.word 8 15) 0 x f
  if captured r.1 r.2 then (r.1, { r.2 with done := true }) else r

def execBufLoad (u : UnitRef) (s : State) : Host.Outcome State Fault Refusal :=
  .next (s.upd (runWord 0x24 (fun _ x w => cuMay x w) noInit advBufLoad u.key))

end Sys2Proof.Machine
end

