-- ==== Sys2Proof/Machine/Crypto.lean ====
section
/-!
DEFINITION. Machine/Crypto.lean: SHA-384 and the verification of ECDSA signatures over brainpoolP384r1 (R24, R452).
The manual names the algorithms by their standards: SHA-384 follows FIPS 180-4, which derives its constants from the
roots of the first primes, and the curve's constants are those of RFC 5639 (PRESUMED, log entry 7).
-/
namespace Sys2Proof.Machine

/-- The greatest number below `2 ^ bits + r` that is at least `r` and whose `k`-th power is at most `n`, bit by bit. -/
def rootFloor (k n : Nat) : Nat → Nat → Nat
  | 0, r => r
  | bits + 1, r => rootFloor k n bits (if (r + 2 ^ bits) ^ k ≤ n then r + 2 ^ bits else r)

/-- The first 64 bits of the fractional part of the `k`-th root of a prime below 410. -/
def fracRoot (k p : Nat) : BitVec 64 := BitVec.ofNat 64 (rootFloor k (p * 2 ^ (64 * k)) 70 0)

/-- The first 80 primes: a number below 441 is prime when no number from 2 to 20 below it divides it. -/
def shaPrimes : List Nat :=
  (List.range 410).filter (fun n => 2 ≤ n && (List.range 21).all (fun d => d < 2 || n ≤ d || n % d != 0))

/-- Round constants: from the cube roots of the first 80 primes. -/
def shaRounds : List (BitVec 64) := shaPrimes.map (fracRoot 3)

/-- Initial words of SHA-384: from the square roots of the ninth to the sixteenth prime. -/
def shaInit : List (BitVec 64) := ((shaPrimes.drop 8).take 8).map (fracRoot 2)

/-- The exclusive or of the right rotations of a word. -/
def rotXor (x : BitVec 64) (by_ : List Nat) : BitVec 64 := by_.foldl (fun acc n => acc ^^^ x.rotateRight n) 0

/-- Extend 16 message words to 80; the list is newest first. -/
def shaExtend : Nat → List (BitVec 64) → List (BitVec 64)
  | 0, ws => ws
  | n + 1, ws =>
    let at_ (k : Nat) : BitVec 64 := ws.getD (k - 1) 0
    let small (k : Nat) (turns : List Nat) (shift : Nat) : BitVec 64 := rotXor (at_ k) turns ^^^ at_ k >>> shift
    shaExtend n ((small 2 [19, 61] 6 + at_ 7 + small 15 [1, 8] 7 + at_ 16) :: ws)

/-- The eight working words: the four whose first mixes by majority, and the four whose first mixes by choice. -/
structure ShaWords where
  upper : BitVec 64 × BitVec 64 × BitVec 64 × BitVec 64
  lower : BitVec 64 × BitVec 64 × BitVec 64 × BitVec 64

/-- One round on the working words, with a round constant and a message word. -/
def shaRound (v : ShaWords) (kw : BitVec 64 × BitVec 64) : ShaWords :=
  let (u0, u1, u2, u3) := v.upper
  let (l0, l1, l2, l3) := v.lower
  let mixed := rotXor l0 [14, 18, 41] + (l2 ^^^ (l0 &&& (l1 ^^^ l2))) + l3 + kw.1 + kw.2
  let major := rotXor u0 [28, 34, 39] + ((u0 &&& (u1 ||| u2)) ||| (u1 &&& u2))
  ⟨(mixed + major, u0, u1, u2), (u3 + mixed, l0, l1, l2)⟩

def shaWords (h : List (BitVec 64)) : ShaWords :=
  ⟨(h.getD 0 0, h.getD 1 0, h.getD 2 0, h.getD 3 0), (h.getD 4 0, h.getD 5 0, h.getD 6 0, h.getD 7 0)⟩

def ShaWords.list (v : ShaWords) : List (BitVec 64) :=
  [v.upper.1, v.upper.2.1, v.upper.2.2.1, v.upper.2.2.2, v.lower.1, v.lower.2.1, v.lower.2.2.1, v.lower.2.2.2]

/-- One 128-byte block: sixteen big-endian words. -/
def shaBlock (h : List (BitVec 64)) (ws : List (BitVec 64)) : List (BitVec 64) :=
  let w := (shaExtend 64 ws.reverse).reverse
  let v := (shaRounds.zip w).foldl shaRound (shaWords h)
  (h.zip v.list).map (fun p => p.1 + p.2)

/-- Big-endian words of 8 bytes. -/
def beWords : List (BitVec 8) → List (BitVec 64)
  | a :: b :: c :: d :: e :: f :: g :: h :: rest =>
    BitVec.ofNat 64 (bytesToNat [h, g, f, e, d, c, b, a]) :: beWords rest
  | _ => []

def shaBlocks : Nat → List (BitVec 64) → List (BitVec 64) → List (BitVec 64)
  | 0, h, _ => h
  | n + 1, h, ws => shaBlocks n (shaBlock h (ws.take 16)) (ws.drop 16)

/-- SHA-384 of a list of bytes, as a big-endian number of 384 bits. -/
def sha384 (msg : List (BitVec 8)) : BitVec 384 :=
  let n := msg.length
  let zeros := (239 - n % 128) % 128
  let padded := msg ++ [0x80#8] ++ List.replicate zeros 0#8 ++ (natToBytes 16 (8 * n)).reverse
  let h := shaBlocks (padded.length / 128) shaInit (beWords padded)
  BitVec.ofNat 384 ((h.take 6).foldl (fun acc w => acc * 2 ^ 64 + w.toNat) 0)

/-! ### brainpoolP384r1 (RFC 5639) -/

def bpP : Nat := 0x8CB91E82A3386D280F5D6F7E50E641DF152F7109ED5456B412B1DA197FB71123ACD3A729901D1A71874700133107EC53
def bpA : Nat := 0x7BC382C63D8C150C3C72080ACE05AFA0C2BEA28E4FB22787139165EFBA91F90F8AA5814A503AD4EB04A8C7DD22CE2826
def bpB : Nat := 0x04A8C7DD22CE28268B39B55416F0447C2FB77DE107DCD2A62E880EA53EEB62D57CB4390295DBC9943AB78696FA504C11
def bpGx : Nat := 0x1D1C64F068CF45FFA2A63A81B7C13F6B8847A3E77EF14FE3DB7FCAFE0CBD10E8E826E03436D646AAEF87B2E247D4AF1E
def bpGy : Nat := 0x8ABE1D7520F9C2A45CB1EB8E95CFD55262B70B29FEEC5864E19C054FF99129280E4646217791811142820341263C5315
def bpQ : Nat := 0x8CB91E82A3386D280F5D6F7E50E641DF152F7109ED5456B31F166E6CAC0425A7CF3AB6AF6B7FC3103B883202E9046565

/-- `b ^ e` modulo `m` by squaring, over `n` bits of the exponent. -/
def powMod (m : Nat) : Nat → Nat → Nat → Nat
  | 0, _, _ => 1
  | n + 1, b, e =>
    let r := powMod m n (b * b % m) (e / 2)
    if e % 2 = 1 then b * r % m else r

/-- Inverse modulo a prime. -/
def invMod (m a : Nat) : Nat := powMod m 400 (a % m) (m - 2)

/-- A point, none for the point at infinity. -/
abbrev Point := Option (Nat × Nat)

def onCurve (x y : Nat) : Bool :=
  x < bpP && y < bpP && y * y % bpP = (x * x * x + bpA * x + bpB) % bpP

def pointAdd (p q : Point) : Point :=
  match p, q with
  | none, _ => q
  | _, none => p
  | some (x1, y1), some (x2, y2) =>
    if x1 = x2 && (y1 + y2) % bpP = 0 then none
    else
      let l :=
        if x1 = x2 then (3 * x1 * x1 + bpA) * invMod bpP (2 * y1) % bpP
        else (y2 + bpP - y1) * invMod bpP (x2 + bpP - x1) % bpP
      let x3 := (l * l + 2 * bpP - x1 - x2) % bpP
      some (x3, (l * (x1 + bpP - x3) + bpP - y1) % bpP)

/-- `k` times a point, over `n` bits. -/
def pointMul : Nat → Nat → Point → Point
  | 0, _, _ => none
  | n + 1, k, p =>
    let r := pointMul n (k / 2) (pointAdd p p)
    if k % 2 = 1 then pointAdd p r else r

/-- ECDSA verification of (r, s) over a digest under the key (x, y). -/
def ecdsaVerify (x y digest r s : Nat) : Bool :=
  if r = 0 || s = 0 || bpQ ≤ r || bpQ ≤ s || !onCurve x y then false
  else
    let w := invMod bpQ s
    match pointAdd (pointMul 384 (digest * w % bpQ) (some (bpGx, bpGy))) (pointMul 384 (r * w % bpQ) (some (x, y))) with
    | none => false
    | some (px, _) => px % bpQ = r

end Sys2Proof.Machine
end

