-- ==== Sys2Proof/Machine/Metering.lean ====
section
/-!
DEFINITION. Machine/Metering.lean: the Sextant, its bus and Meridian's side of it (chapter 16).
-/
namespace Sys2Proof.Machine

def Device.updMeter (d : Device) (f : Meter → Meter) : Device := { d with meter := f d.meter }

def Meter.updRegs (m : Meter) (f : MeterRegs → MeterRegs) : Meter := { m with regs := f m.regs }

/-- R512: calibration mode: the loop is open and the calibration jumper fitted. -/
def calMode (m : Meter) : Bool := !m.regs.sealIntact && m.calJumper

/-- R515: sum the cores of a tag listed twice. -/
def mergeShares : List (Nat × Nat) → List (Nat × Nat)
  | [] => []
  | (t, c) :: rest =>
    let r := mergeShares rest
    match r.find? (·.1 = t) with
    | some (_, c') => (t, c + c') :: r.filter (fun e => e.1 != t)
    | none => (t, c) :: r

/-- R515: at most 16 distinct tags, and at most 16 cores in all. -/
def sharesValid (s : List (Nat × Nat)) : Bool :=
  decide ((mergeShares s).length ≤ 16) && decide ((s.map (·.2)).sum ≤ 16)

/-- The closed records, the newest 4,096 (R517), and the number the next one takes. -/
def closeRecord (endMs : Nat) (timeout interrupted : Bool) (m : Meter) (r : JobRecord) : Meter :=
  let c := { r with seq := m.regs.jobNext.toNat, endMs := endMs, timeout := timeout, interrupted := interrupted }
  let all := m.closed ++ [c]
  { m with closed := all.drop (all.length - 4096), regs := { m.regs with jobNext := satAdd m.regs.jobNext 1 } }

/-- Close every open record of a list. -/
def closeAll (timeout interrupted : Bool) (rs : List JobRecord) (m : Meter) : Meter :=
  rs.foldl (closeRecord m.regs.opMs.toNat timeout interrupted) m

/-- R517: at a boundary the new shares close and open records. -/
def applyShares (s : List (Nat × Nat)) (m : Meter) : Meter :=
  let gone := m.regs.open_.filter (fun r => !(s.any (fun e => e.1 = r.tag)))
  let stay := m.regs.open_.filter (fun r => s.any (fun e => e.1 = r.tag))
  let m := closeAll false false gone m
  let fresh := s.filter (fun e => !(stay.any (fun r => r.tag = e.1)))
  let opened := fresh.map (fun e =>
    { seq := 0, timeout := false, interrupted := false, calMode := false, maxCores := e.2, tag := e.1,
      startMs := m.regs.opMs.toNat, endMs := 0, energy := 0 : JobRecord })
  { m with shares := s, nextShares := none, regs := { m.regs with open_ := stay ++ opened } }

/-- R516: what a listed tag receives of an interval's energy. -/
def shareOf (e cores : Nat) : Nat := e * cores / 16

/-- An interval's energy goes to the open records of the shares, the rest to ENERGY_IDLE (R508, R516). -/
def apportion (e : Nat) (m : Meter) : Meter :=
  let recs := m.regs.open_.map (fun r =>
    match m.shares.find? (·.1 = r.tag) with
    | some (_, c) => { r with energy := r.energy + shareOf e c, maxCores := max r.maxCores c,
                              calMode := r.calMode || calMode m }
    | none => r)
  let given := (m.shares.map (fun p => shareOf e p.2)).sum
  { m with regs := { m.regs with open_ := recs, idle := satAdd m.regs.idle (e - given) } }

/-- The registered energy of an interval in nWh and the remainder carried on (R506, R507): `energy` is in nJ. -/
def registered (m : Meter) (energy : Int) (ma : Nat) : Nat × Nat :=
  if energy < 0 || ma < 200 then (0, m.remainder)
  else ((m.remainder + energy.toNat) / 3600, (m.remainder + energy.toNat) % 3600)

def meanOf (l : List Nat) : Nat := l.sum / max 1 l.length

/-- METER_INTERVAL (R506 to R508, R515 to R517, R520): one interval of 1 ms of the Sextant's time. -/
def meterInterval (energy : Int) (mv ma : Nat) (m : Meter) : Meter :=
  if !m.running then m
  else
    let m := match m.nextShares with | some s => applyShares s m | none => m
    let m := match m.calNext with | some c => { m with calConst := c, calNext := none } | none => m
    let (e, r) := registered m energy ma
    let m := apportion e m
    let total := satAdd m.regs.total e
    let sec := (mv, ma, energy.toNat / 1000) :: m.lastSecond.take 999
    { m with
      remainder := r
      lastSecond := sec
      shareAge := m.shareAge + 1
      checkpointAge := m.checkpointAge + 1
      pulseAge := m.pulseAge + 1
      pulses := m.pulses + (total.toNat / 100000000 - m.regs.total.toNat / 100000000)
      regs := { m.regs with
        opMs := satAdd m.regs.opMs 1
        total := total
        mv := BitVec.ofNat 32 (meanOf (sec.map (·.1)))
        ma := BitVec.ofNat 32 (meanOf (sec.map (·.2.1)))
        mw := BitVec.ofNat 32 (meanOf (sec.map (·.2.2))) } }

def execMeterInterval (energy : Int) (mv ma : BitVec 32) (s : State) : Host.Outcome State Fault Refusal :=
  .next (s.upd (fun d => d.updMeter (meterInterval energy mv.toNat ma.toNat)))

/-! ### Signed answers (R513, R514, R518, R519) -/

/-- KEY_ID of a public key: the first 16 bytes of SHA-384 of the uncompressed point (Table 14.3). -/
def keyIdOf (point : BitVec 776) : Nat :=
  bytesToNat (((natToBytes 48 (sha384 (natToBytes 97 point.toNat).reverse).toNat).reverse).take 16)

/-- The public point of a device key: 0x04, then X, then Y, as a big-endian number (log entry 7). -/
def devicePoint (key : Nat) : BitVec 776 := 0x04#8 ++ Config.publicKey key

/-- Device keys: 0 the meter key, 1 the device identity key, 2 + n the attestation key of RECERT_COUNT n. -/
def meterKey : Nat := 0

/-- A signature R, S over `n` bytes, each big-endian in 48 bytes, as a little-endian number of 96 bytes. -/
def signBytes (key n v : Nat) : Nat :=
  let sig := Config.signature key (sha384 (natToBytes n v)).toNat
  bytesToNat (natToBytes 96 sig.toNat).reverse

/-- STATUS of a reading (Table 16.3). -/
def meterStatus (m : Meter) : Nat :=
  bit01 m.regs.sealIntact + 2 * bit01 m.calJumper + 4 * bit01 (calMode m) + 8 * bit01 m.shareTimeout
    + 16 * bit01 (m.lastSecond.any (fun e => decide (80000 < e.2.1)))

/-- The 128 signed bytes of a reading (Table 16.3). -/
def readingBytes (m : Meter) : Nat :=
  let r := m.regs
  0x52544D53 + (1 <<< 32) + (r.serial.toNat <<< 64) + (r.readSeq.toNat <<< 128) + (r.opMs.toNat <<< 192)
    + (r.total.toNat <<< 256) + (r.idle.toNat <<< 320) + (r.mv.toNat <<< 384) + (r.ma.toNat <<< 416)
    + (r.mw.toNat <<< 448) + (r.sealBreaks.toNat <<< 480) + (r.calCount.toNat <<< 512) + (meterStatus m <<< 528)
    + (r.restoreLosses.toNat <<< 544) + (r.jobNext.toNat <<< 576) + (r.romVersion.toNat <<< 608)
    + (r.starts.toNat <<< 640) + (r.rejected.toNat <<< 672) + (keyIdOf (devicePoint meterKey) <<< 704)

/-- One job record in 48 bytes (Table 16.4). -/
def jobBytes (r : JobRecord) : Nat :=
  r.seq % 2 ^ 32 + ((bit01 r.timeout + 2 * bit01 r.interrupted + 4 * bit01 r.calMode) <<< 32) + (r.maxCores <<< 48)
    + (r.tag <<< 64) + (r.startMs <<< 128) + (r.endMs <<< 192) + (r.energy <<< 256)

/-- The records a batch returns (R519). -/
def batchRecords (m : Meter) (first count : Nat) : List JobRecord :=
  (m.closed.filter (fun r => first ≤ r.seq)).take count

/-- The signed bytes of a job batch and their number (Table 16.4). -/
def batchBytes (m : Meter) (first : Nat) (rs : List JobRecord) : Nat × Nat :=
  let head := 0x424F4A53 + (1 <<< 32) + (rs.length <<< 48) + (m.regs.serial.toNat <<< 64)
    + (m.regs.readSeq.toNat <<< 128) + (m.regs.opMs.toNat <<< 192) + (first <<< 256)
    + (keyIdOf (devicePoint meterKey) <<< 320)
  let body := rs.foldr (fun r acc => jobBytes r + (acc <<< 384)) 0
  (head + (body <<< 512), 64 + 48 * rs.length)

/-- Take the frame at the head of the bus. -/
def popFrame (d : Device) : Device := d.updMeter (fun m => { m with bus := m.bus.tail })

def rejectFrame (d : Device) : Device :=
  (popFrame d).updMeter (fun m => m.updRegs (fun r => { r with rejected := satAdd r.rejected 1 }))

/-- The next READ_SEQ is taken (R514). -/
def nextReadSeq (d : Device) : Device :=
  d.updMeter (fun m => m.updRegs (fun r => { r with readSeq := satAdd r.readSeq 1 }))

/-- Meridian's outstanding request of a mailbox is answered. -/
def answered (mbx : Option Nat) (d : Device) : Device :=
  d.updMeter (fun m =>
    let e := (m.waiting.find? (fun e => e.1 = mbx)).getD (mbx, 0)
    { m with waiting := m.waiting.erase e })

/-- Meridian copies a reading (R521). -/
def copyReading (d : Device) : Device :=
  d.updMeter (fun m => { m with copyStatus := BitVec.ofNat 16 (meterStatus m), copyBreaks := m.regs.sealBreaks,
                                copyTotal := m.regs.total })

/-- The mailbox waits for the meter. -/
def awaitsMeter (d : Device) (m : Nat) : Bool :=
  (d.mb m).state.started && (match (d.mb m).job with | .meter _ => true | _ => false)

/-- The certificates of a device: 0 the attestation key's, 1 the device identity's, 2 the manufacturing authority's (R493);
4 the meter's (R518). -/
def certificate (g : Mgmt) (which : Nat) : Config.Certificate :=
  match which with
  | 0 => { subject := .attestation, issuer := .identity, serialNumber := g.recert.toNat, key := some (2 + g.attestKey) }
  | 1 => { subject := .identity, issuer := .manufacturing, subjectSerial := some g.serial.toNat, key := some 1 }
  | 2 => { subject := .manufacturing, issuer := .root }
  | _ => { subject := .meter, issuer := .metrology, key := some meterKey }

/-- A certificate's DER bytes, cut to `n` (log entry 7). -/
def certBytes (g : Mgmt) (which n : Nat) : List (BitVec 8) := (Config.der (certificate g which)).take n

/-- The reading, its signature and the meter certificate (R518, Table 16.3). -/
def readingReply (m : Nat) (d : Device) : Device :=
  let b := readingBytes d.meter
  let c := certBytes d.mgmt 4 4096
  let d := reply m 0x80 96 (signBytes meterKey 128 b) (reply m 0 128 b d)
  endDone m (reply m 0xE4 c.length (bytesToNat c) (reply m 0xE0 4 c.length d))

/-- READ_REQUEST (R513, R514, R518): the Sextant takes a request and answers with a signed reading. -/
def readRequest (crcOk : Bool) (d : Device) : Device :=
  match d.meter.bus with
  | .readRequest mbx :: _ =>
    if !d.meter.running then popFrame d
    else if !crcOk then rejectFrame d
    else
      let d := answered mbx (copyReading (nextReadSeq (popFrame d)))
      match mbx with
      | some m => if awaitsMeter d m then readingReply m d else d
      | none => d
  | _ => d

def execReadRequest (crcOk : Bool) (s : State) : Host.Outcome State Fault Refusal := .next (s.upd (readRequest crcOk))

/-- JOBS_REQUEST (R513, R519): the Sextant answers with a signed job batch. -/
def jobsRequest (crcOk : Bool) (d : Device) : Device :=
  match d.meter.bus with
  | .jobsRequest m first count :: _ =>
    if !d.meter.running then popFrame d
    else if !crcOk then rejectFrame d
    else
      let d := answered (some m) (nextReadSeq (popFrame d))
      let (v, n) := batchBytes d.meter first (batchRecords d.meter first count)
      if awaitsMeter d m then endDone m (reply m n 96 (signBytes meterKey n v) (reply m 0 n v d)) else d
  | _ => d

def execJobsRequest (crcOk : Bool) (s : State) : Host.Outcome State Fault Refusal := .next (s.upd (jobsRequest crcOk))

/-- SHARES (R515, R516): the Sextant takes a declaration of shares. -/
def takeShares (crcOk : Bool) (d : Device) : Device :=
  match d.meter.bus with
  | .shares s :: _ =>
    if !d.meter.running then popFrame d
    else if crcOk && sharesValid s then
      (popFrame d).updMeter (fun m =>
        { m with nextShares := some (mergeShares s), shareAge := 0, shareTimeout := false })
    else rejectFrame d
  | _ => d

def execShares (crcOk : Bool) (s : State) : Host.Outcome State Fault Refusal := .next (s.upd (takeShares crcOk))

/-- What Meridian declares: RUNNING or PARTIAL run commands with a nonzero JOB_TAG, and their cores (R515). -/
def declaredShares (d : Device) : List (Nat × Nat) :=
  (List.range 16).filterMap (fun m =>
    let x := d.mb m
    x.job.runs.bind (fun h =>
      let tag := x.arg 0x18 8
      if x.state.started && tag != 0 then
        some (tag, match d.section? h with | some s => s.cores.length | none => 0)
      else none))

/-- SHARES_SEND (R515): every 1 ms Meridian sends the shares. -/
def sharesSend (d : Device) : Device :=
  if meridianRuns d && d.meter.sharesAt + 1000 ≤ d.now then
    d.updMeter (fun m => { m with bus := m.bus ++ [.shares (declaredShares d)], sharesAt := d.now,
                                  sharesSent := satAdd m.sharesSent 1 })
  else d

def execSharesSend (s : State) : Host.Outcome State Fault Refusal := .next (s.upd sharesSend)

/-- SHARE_TIMEOUT (R516): no valid SHARES for 10 ms. -/
def shareTimeout (m : Meter) : Meter :=
  if m.running && 10 ≤ m.shareAge && !m.shareTimeout then
    let m := closeAll true false m.regs.open_ m
    { m with shares := [], nextShares := none, shareTimeout := true, regs := { m.regs with open_ := [] } }
  else m

def execShareTimeout (s : State) : Host.Outcome State Fault Refusal := .next (s.upd (fun d => d.updMeter shareTimeout))

/-- METER_POLL (R521): Meridian reads the Sextant at least once per second. -/
def meterPoll (d : Device) : Device :=
  if meridianRuns d && d.meter.polledAt + 1000000 ≤ d.now then
    d.updMeter (fun m => { m with bus := m.bus ++ [.readRequest none], polledAt := d.now,
                                  waiting := m.waiting ++ [(none, d.now)] })
  else d

def execMeterPoll (s : State) : Host.Outcome State Fault Refusal := .next (s.upd meterPoll)

/-- INTERNAL end of a command, with its record (Table 13.15). -/
def endInternal (m : Nat) (d : Device) : Device := endFailed m 0x7F (logCmd 0x70 0x7F 0 m 0 d)

/-- METER_NO_REPLY (R518): a request unanswered for 100 ms. -/
def meterNoReply (d : Device) : Device :=
  match d.meter.waiting with
  | (mbx, t) :: rest =>
    if t + 100000 ≤ d.now then
      let d := d.updMeter (fun m => { m with waiting := rest, noReply := satAdd m.noReply 1 })
      match mbx with
      | some m => if awaitsMeter d m then endInternal m d else d
      | none => d
    else d
  | [] => d

def execMeterNoReply (s : State) : Host.Outcome State Fault Refusal := .next (s.upd meterNoReply)

/-! ### Persistence, seal and calibration (R509 to R512, R520) -/

/-- CAL_MODE is entered: the open records carry it (Table 16.4). -/
def flagCal (m : Meter) : Meter :=
  if calMode m then m.updRegs (fun r => { r with open_ := r.open_.map (fun x => { x with calMode := true }) }) else m

/-- METER_CHECKPOINT (R509): every 60 s. -/
def meterCheckpoint (m : Meter) : Meter :=
  if m.running && 60000 ≤ m.checkpointAge then { m with checkpoint := m.regs, checkpointAge := 0 } else m

def execMeterCheckpoint (s : State) : Host.Outcome State Fault Refusal :=
  .next (s.upd (fun d => d.updMeter meterCheckpoint))

/-- Open records closed with INTERRUPTED (R509). -/
def closeInterrupted (m : Meter) : Meter :=
  let m := closeAll false true m.regs.open_ m
  { m with shares := [], nextShares := none, regs := { m.regs with open_ := [] } }

/-- METER_POWER_FAIL (R509): the failure save, with the records that it closes, and the meter stops. -/
def meterPowerFail (m : Meter) : Meter :=
  if m.running then
    let s := closeInterrupted m
    { m with failSave := some (s.regs, s.closed), running := false, bus := [] }
  else m

/-- The registers of the last checkpoint, where the failure save did not complete (R510): no number already given is given
again (R514, R517; log entry 100), and a record open then and closed since is open no more. -/
def fromCheckpoint (m : Meter) : MeterRegs :=
  let r := m.checkpoint
  { r with
    restoreLosses := satAdd r.restoreLosses 1, readSeq := m.regs.readSeq, jobNext := m.regs.jobNext
    open_ := r.open_.filter (fun x => !m.closed.any (fun c => c.tag = x.tag && c.startMs = x.startMs)) }

def execMeterPowerFail (s : State) : Host.Outcome State Fault Refusal :=
  .next (s.upd (fun d => d.updMeter meterPowerFail))

/-- METER_START (R509 to R511): restore from the failure save, or from the checkpoint. -/
def meterStart (saveOk sealIntact jumper : Bool) (m : Meter) : Meter :=
  if m.running then m
  else
    let m := match m.failSave, saveOk with
      | some r, true => { m with regs := r.1, closed := r.2 }
      | _, _ => closeInterrupted { m with regs := fromCheckpoint m }
    let broke := m.regs.sealIntact && !sealIntact
    let regs := { m.regs with starts := satAdd m.regs.starts 1, sealIntact := sealIntact,
                              sealBreaks := satAdd m.regs.sealBreaks (bit01 broke) }
    { m with
      running := true
      failSave := none
      remainder := 0
      lastSecond := []
      shareAge := 0
      shareTimeout := false
      checkpointAge := 0
      pulseAge := 80
      calJumper := jumper
      shares := []
      nextShares := none
      regs := regs
      checkpoint := regs }

def execMeterStart (saveOk sealIntact jumper : Bool) (s : State) : Host.Outcome State Fault Refusal :=
  .next (s.upd (fun d => d.updMeter (meterStart saveOk sealIntact jumper)))

/-- METER_SEAL_CHANGE (R511): the Sextant's own view of the loop. -/
def meterSealChange (intact : Bool) (m : Meter) : Meter :=
  if !m.running || intact = m.regs.sealIntact then m
  else flagCal (m.updRegs (fun r => { r with sealIntact := intact, sealBreaks := satAdd r.sealBreaks (bit01 (!intact)) }))

def execMeterSealChange (intact : Bool) (s : State) : Host.Outcome State Fault Refusal :=
  .next (s.upd (fun d => d.updMeter (meterSealChange intact)))

/-- CALIBRATION_WRITE (R512): accepted in calibration mode only. -/
def calibrationWrite (c : BitVec 64) (m : Meter) : Meter :=
  if m.running && calMode m then
    { m with calNext := some c, regs := { m.regs with calCount := satAdd m.regs.calCount 1 } }
  else m

def execCalibrationWrite (const : BitVec 64) (s : State) : Host.Outcome State Fault Refusal :=
  .next (s.upd (fun d => d.updMeter (calibrationWrite const)))

/-- CALIBRATION_JUMPER_CHANGE (R512). -/
def calibrationJumper (fitted : Bool) (m : Meter) : Meter := if m.running then flagCal { m with calJumper := fitted } else m

def execCalibrationJumperChange (fitted : Bool) (s : State) : Host.Outcome State Fault Refusal :=
  .next (s.upd (fun d => d.updMeter (calibrationJumper fitted)))

/-- The pulse contacts conduct and the test LED is lit (R520, Table 18.2): the 40 ms of a pulse. -/
def pulseActive (m : Meter) : Bool := m.running && m.pulseAge < 40

/-- METER_PULSE (R520): one pulse for each crossing, 40 ms active and 40 ms inactive at least. -/
def meterPulse (m : Meter) : Meter :=
  if m.running && m.pulsesEmitted < m.pulses && 80 ≤ m.pulseAge then
    { m with pulsesEmitted := m.pulsesEmitted + 1, pulseAge := 0 }
  else m

def execMeterPulse (s : State) : Host.Outcome State Fault Refusal := .next (s.upd (fun d => d.updMeter meterPulse))

end Sys2Proof.Machine
end

