-- ==== Sys2Proof/WellFormed.lean ====
section
/-!
DEFINITION. WellFormed.lean: the operands a command can have beyond what their types say.
-/
namespace Sys2Proof

/-- R14, R413: an access to BAR0 covers 4 to 64 aligned bytes; a size is a power of two (log entry 18). -/
def wfAccess (off len : Nat) : Bool :=
  (len = 4 || len = 8 || len = 16 || len = 32 || len = 64) && off % len = 0

/-- An access to a register; one of configuration space covers 4 bytes. -/
def wfRegister (reg : HostReg) (len : Nat) : Bool :=
  match reg with
  | .bar0 off => wfAccess off.toNat len
  | .config _ => len = 4

/-- An access to BAR2 covers 1 to 4,096 bytes, which is the longest request of Table 13.1, inside the 2^40 bytes
of the largest BAR2. -/
def wfBar2 (off len : Nat) : Bool := 1 ≤ len && len ≤ 4096 && off + len ≤ 2 ^ 40

/-- One reading frame (R477): hubs 0 to 3 carry 16 junction, 4 near-tier, 4 gait and 1 VCORE reading, hub 4 carries
4 hub-die, 2 coolant, 24 far-tier and the two input readings (log entry 18); what REG reads back may follow: VCORE's current,
or the input current and the ten other rails' voltages and currents (R476). -/
def wfFrame (hub len : Nat) : Bool := if hub < 4 then len = 25 || len = 26 else len = 32 || len = 53

/-- The operands are those of some command. -/
def Instr.wf : Instr → Bool
  | .registerWrite reg len _ => wfRegister reg len
  | .rcRead reg len => wfRegister reg len
  | .bar2Read off len _ => wfBar2 off.toNat len
  | .bar2Write off bytes _ => wfBar2 off.toNat bytes.length
  | .ingestData _ off _ => off.toNat % 16 = 0
  | .sensorReadingFrame hub readings => wfFrame hub.val readings.length
  | _ => true

end Sys2Proof
end

