-- ==== Sys2Proof/Machine/PowerThermal.lean ====
section
/-!
DEFINITION. Machine/PowerThermal.lean: sensor frames, power limit, set points, throttling, thermal limits, input bands
and the telemetry mirror (chapter 17, R443, R477).  The events that end commands are in Machine/Resets.lean.
-/
namespace Sys2Proof.Machine

def Device.updPower (d : Device) (f : Power → Power) : Device := { d with power := f d.power }

/-- The greatest of a list, or `d` when it is empty. -/
def maxInt (d : Int) : List Int → Int
  | [] => d
  | a :: rest => rest.foldl max a

/-! ### Set points (R531) -/

/-- The computed set point of a quadrant's VCORE: the lowest limit, in whole steps of 5 mV (R526). -/
def setPoint (p : Power) (q : Nat) : Nat :=
  let v := min 700 (min p.pMv (p.thermalMv.getD q 700))
  (if p.inputLow then min v 550 else v) / 5 * 5

/-- What the regulator of a quadrant steers VCORE to: off, forced to 0.55 V, or the set point (R531, R534, R537). -/
def targetMv (d : Device) (q : Nat) : Nat :=
  if d.power.quadrantOff.getLsbD q || d.power.tripped || !d.boot.firmware then 0
  else if d.power.throttle || d.power.hardQ.getLsbD q then 550
  else d.power.setMv.getD q 700

/-- A slewed value after `us` µs: a fall of 5 mV and a rise of 1 mV per µs (R526). -/
def slewMv (start target us : Nat) : Nat := if target ≤ start then max target (start - 5 * us) else min target (start + us)

/-- VCORE of a quadrant now; a rail that is off is off at once. -/
def vcoreMv (d : Device) (q : Nat) : Nat :=
  let t := targetMv d q
  if t = 0 then 0 else slewMv (d.power.slewFrom.getD q 700) t (d.now - d.power.slewAt.getD q 0)

/-- A change of the targets: a quadrant whose target differs slews from where its VCORE stands (R526). -/
def retarget (f : Device → Device) (d : Device) : Device :=
  let e := f d
  let moved := fun q => decide (targetMv d q ≠ targetMv e q)
  e.updPower (fun p => { p with
    slewFrom := (List.range 4).map (fun q => if moved q then vcoreMv d q else p.slewFrom.getD q 700)
    slewAt := (List.range 4).map (fun q => if moved q then d.now else p.slewAt.getD q 0) })

def refreshSetPoints (d : Device) : Device := retarget (fun d => d.updPower (fun p => { p with setMv := (List.range 4).map (setPoint p) })) d

/-- VCORE_SET_POINT_UPDATE (R531). -/
def execVcoreSetPointUpdate (s : State) : Host.Outcome State Fault Refusal := .next (s.upd refreshSetPoints)

/-! ### The power limit (R528) -/

/-- P after one reading: `last` and `window` in mW. -/
def powerStep (p budget peak : Nat) (window : List Nat) : Nat :=
  let n := window.length
  let sum := window.sum
  let last := window.headD 0
  let q :=
    if peak * 1000 < last then p - 20
    else if n * budget * 1000 < sum then p - 5
    else if 100 * sum < 97 * n * budget * 1000 then p + 1
    else p
  max 550 (min 700 q)

/-- POWER_LIMIT_UPDATE (R528): every 1 ms, from the first reading on. -/
def powerLimitUpdate (d : Device) : Device :=
  if d.power.window = [] then d
  else
    d.updPower (fun p =>
      let v := powerStep p.pMv (budgetW d) (peakW d) p.window
      let lim := bit01 (decide (v < 700))
      { p with pMv := v, limitedMs := satAdd p.limitedMs lim, hourLimited := p.hourLimited + lim,
               hourLowP := if v < 700 then min p.hourLowP v else p.hourLowP })

def execPowerLimitUpdate (s : State) : Host.Outcome State Fault Refusal := .next (s.upd powerLimitUpdate)

/-! ### Thermal limits (R534) -/

/-- DATA of a 0x0060 record: Tq and the set point. -/
def thermalData (d : Device) (q : Nat) : Nat :=
  (BitVec.ofInt 16 (d.power.tq.getD q 0)).toNat + (d.power.setMv.getD q 0 <<< 16)

/-- The thermal limit after 1 ms: Tq in 1/16 °C; never below 0.55 V (R529). -/
def thermalStep (v : Nat) (t : Int) : Nat :=
  if 1600 ≤ t then max 550 (v - 10) else if t < 1568 then min 700 (v + 2) else v

/-- THERMAL_LIMIT_UPDATE (R534): the control level of one quadrant, with the entry into and exit from throttling. -/
def thermalLimitUpdate (q : Nat) (d : Device) : Device :=
  let v := thermalStep (d.power.thermalMv.getD q 700) (d.power.tq.getD q 0)
  let was := d.power.thermalQ.getLsbD q
  let now := decide (v < 700)
  let d := d.updPower (fun p => { p with thermalMv := p.thermalMv.set q v, thermalQ := setBit p.thermalQ q now })
  if now && !was then
    irq 1 (log 0x60 (q + 0x100) (thermalData d q)
      (d.updPower (fun p => { p with thermalEntries := satAdd p.thermalEntries 1 })))
  else if !now && was then irq 1 (log 0x60 q (thermalData d q) d)
  else d

def execThermalLimitUpdate (q : Fin 4) (s : State) : Host.Outcome State Fault Refusal :=
  .next (s.upd (thermalLimitUpdate q.val))

/-- The sensor hub forces VCORE, or lets it go, with or without Meridian; a Meridian that runs records it (R531, R534). -/
def hardLimit (q : Nat) (on : Bool) (d : Device) : Device :=
  let e := retarget (fun d => d.updPower (fun p => { p with hardQ := setBit p.hardQ q on })) d
  if meridianRuns d then
    irq 1 (log 0x60 (q + 0x200 + 0x100 * bit01 on) ((BitVec.ofInt 16 (d.power.hubTq.getD q 0)).toNat + (d.power.setMv.getD q 0 <<< 16)) e)
  else e

/-- HARD_LIMIT_START (R534): Tq at or above 105 °C, as the sensor hub reads it. -/
def hardLimitStart (q : Nat) (d : Device) : Device :=
  if !d.power.hardQ.getLsbD q && decide (1680 ≤ d.power.hubTq.getD q 0) then hardLimit q true d else d

def execHardLimitStart (q : Fin 4) (s : State) : Host.Outcome State Fault Refusal := .next (s.upd (hardLimitStart q.val))

/-- HARD_LIMIT_END (R534): Tq below 103 °C. -/
def hardLimitEnd (q : Nat) (d : Device) : Device :=
  if d.power.hardQ.getLsbD q && decide (d.power.hubTq.getD q 0 < 1648) then hardLimit q false d else d

def execHardLimitEnd (q : Fin 4) (s : State) : Host.Outcome State Fault Refusal := .next (s.upd (hardLimitEnd q.val))

/-! ### THROTTLE_N (R532) -/

/-- A record and the interrupt of the throttle, by a Meridian that runs. -/
def throttleRecord (subject hours : Nat) (d : Device) : Device := if meridianRuns d then irq 1 (log 0x61 subject hours d) else d

/-- THROTTLE_N has been low for 2 µs, or, with `low` false, it has risen.  A new low while the throttle holds restarts it,
and the hours through which THROTTLE_N stayed low count anew. -/
def throttleStart (low : Bool) (d : Device) : Device :=
  if !low then d.updPower (fun p => { p with throttleAt := none })
  else if d.power.throttle then d.updPower (fun p => { p with throttleAt := some d.now, throttleHours := 0 })
  else
    throttleRecord 1 0 (retarget (fun d => d.updPower (fun p =>
      { p with throttle := true, throttleAt := some d.now, throttleHours := 0,
               throttleAsserts := satAdd p.throttleAsserts 1 })) d)

def execThrottleN (s : State) (low : Bool := true) : Host.Outcome State Fault Refusal := .next (s.upd (throttleStart low))

/-- THROTTLE_N has been high for 1 ms. -/
def throttleEnd (d : Device) : Device :=
  if d.power.throttle then
    throttleRecord 0 d.power.throttleHours (retarget (fun d => d.updPower (fun p => { p with throttle := false, throttleAt := none })) d)
  else d

def execThrottleEnd (s : State) : Host.Outcome State Fault Refusal := .next (s.upd throttleEnd)

/-! ### Input bands (R523) -/

/-- INPUT_LOW_BAND_ENTRY: the input is in 47 V to 50 V. -/
def lowBandEntry (mv : Nat) (d : Device) : Device :=
  if !d.power.inputLow && 47000 ≤ mv && mv < 50000 then
    refreshSetPoints (log 0x64 0x101 mv (d.updPower (fun p =>
      { p with inputLow := true, inputMv := BitVec.ofNat 32 mv })))
  else d

def execInputLowBandEntry (mv : BitVec 32) (s : State) : Host.Outcome State Fault Refusal :=
  .next (s.upd (lowBandEntry mv.toNat))

/-- INPUT_LOW_BAND_EXIT: the input has been above 50 V for 10 ms. -/
def lowBandExit (mv : Nat) (d : Device) : Device :=
  if d.power.inputLow && 50000 < mv then
    refreshSetPoints (log 0x64 1 mv (d.updPower (fun p =>
      { p with inputLow := false, inputMv := BitVec.ofNat 32 mv })))
  else d

def execInputLowBandExit (mv : BitVec 32) (s : State) : Host.Outcome State Fault Refusal :=
  .next (s.upd (lowBandExit mv.toNat))

/-- INPUT_HIGH_BAND_CHANGE: INPUT_HIGH is 1 above 59.5 V. -/
def highBandChange (mv : Nat) (d : Device) : Device :=
  let high := decide (59500 < mv)
  if high = d.power.inputHigh then d
  else log 0x64 (2 + 0x100 * bit01 high) mv (d.updPower (fun p =>
    { p with inputHigh := high, inputMv := BitVec.ofNat 32 mv }))

def execInputHighBandChange (mv : BitVec 32) (s : State) : Host.Outcome State Fault Refusal :=
  .next (s.upd (highBandChange mv.toNat))

/-! ### Sensor frames (R477, R479) -/

/-- The readings `i` to `i + n - 1` of a frame, as signed numbers. -/
def readingsAt (rs : List (BitVec 32)) (i n : Nat) : List Int := ((rs.drop i).take n).map (·.toInt)

def i16 (v : Int) : BitVec 16 := BitVec.ofInt 16 v

/-- A reading within the range of its sensor (Table 15.2): one outside it reads as the nearer end (log entry 98). -/
def within (lo hi v : Int) : Int := max lo (min hi v)

def natWithin (lo hi : Nat) (v : BitVec 32) : Nat := max lo (min hi v.toNat)

/-- Tq of a quadrant's frame: its 16 junction sensors and the four of its near-tier dies (R534). -/
def frameTq (rs : List (BitVec 32)) : Int := within (-320) 2080 (maxInt 0 (readingsAt rs 0 20))

/-- A frame of a quadrant's hub: junction maxima, near-tier dies, gaits and VCORE; the 26th reading is VCORE's current.  A
quadrant without VCORE has gaits and a voltage of 0. -/
def quadrantFrame (on : Bool) (q : Nat) (rs : List (BitVec 32)) (p : Power) : Power :=
  let junction := within (-320) 2080 (maxInt 0 (readingsAt rs 0 16))
  let near := within (-320) 2080 (maxInt 0 (readingsAt rs 16 4))
  let nearQ := p.nearQ.set q near
  let gaitOf := fun i => if on then natWithin 300000 2500000 (rs.getD (20 + i) 0) else 0
  let g := (List.range 4).foldl (fun l i => l.set (4 * q + i) (gaitOf i)) p.gait
  { p with
    tq := p.tq.set q (max junction near)
    nearQ := nearQ
    gait := g
    vcore := p.vcore.set q (BitVec.ofNat 16 (if on then natWithin 400 950 (rs.getD 24 0) else 0))
    vcoreMa := p.vcoreMa.set q ((rs[25]?).elim (p.vcoreMa.getD q 0) (natWithin 0 1100000))
    temps := (p.temps.set q (i16 junction)).set 5 (i16 (maxInt near nearQ)) }

/-- A frame of the hub die's hub: hub-die, coolant, far-tier and input readings; then the input current and, as REG reads
them back, voltage and current of the ten other rails. -/
def hubFrame (rs : List (BitVec 32)) (p : Power) : Power :=
  let inlet := within 0 1280 (rs.getD 4 0).toInt
  let mw := (rs.getD 31 0).toNat
  let hot := match p.hourInlet with | some t => max t inlet | none => inlet
  let die := within (-320) 2080 (maxInt 0 (readingsAt rs 0 4))
  { p with
    temps := ((p.temps.set 4 (i16 die)).set 6 (i16 (maxInt 0 (readingsAt rs 6 24)))).set 7 (i16 inlet)
    outlet := within 0 1280 (rs.getD 5 0).toInt
    inputMv := BitVec.ofNat 32 (natWithin 0 70000 (rs.getD 30 0))
    inputMw := rs.getD 31 0
    inputMa := (rs[32]?).elim p.inputMa (natWithin 0 80000)
    railMv := if rs.length ≤ 33 then p.railMv else ((rs.drop 33).take 10).map (·.toNat)
    railMa := if rs.length ≤ 43 then p.railMa else ((rs.drop 43).take 10).map (·.toNat)
    window := mw :: p.window.take 9
    hourInlet := if 720 < inlet then some hot else p.hourInlet }

/-- SENSOR_READING_FRAME (R477): the hub has sampled its sensors, and Meridian takes the frame if it runs. -/
def sensorFrame (hub : Nat) (rs : List (BitVec 32)) (d : Device) : Device :=
  if !d.boot.powered then d
  else
    let d := if hub < 4 then d.updPower (fun p => { p with hubTq := p.hubTq.set hub (frameTq rs) }) else d
    if meridianRuns d then d.updPower (if hub < 4 then quadrantFrame (targetMv d hub != 0) hub rs else hubFrame rs) else d

def execSensorReadingFrame (hub : Fin 5) (readings : List (BitVec 32)) (s : State) :
    Host.Outcome State Fault Refusal :=
  if Instr.wf (.sensorReadingFrame hub readings) then .next (s.upd (sensorFrame hub.val readings))
  else .fault .illFormed

/-! ### The telemetry mirror (R443) -/

/-- Numbers packed `w` bits apart, the first lowest. -/
def packNat (w : Nat) : List Nat → Nat
  | [] => 0
  | v :: rest => v % 2 ^ w + (packNat w rest <<< w)

/-- The mirror's bytes 0x000 to 0x40F after a rewrite (Table 13.14). -/
def mirrorBytes (d : Device) (gen : Nat) : Nat :=
  let stalls := packNat 64 ((List.range 112).map (fun k => Tab.getD d.host.stallSums k 0))
  packNat 64 [gen, d.now] + (packNat 32 ((List.range 16).map (fun c => d.power.gait.getD c 0)) <<< 128)
    + (packNat 16 (d.power.vcore.map (·.toNat)) <<< 0x280) + (packNat 16 (d.power.temps.map (·.toNat)) <<< 0x2C0)
    + (d.power.inputMv.toNat <<< 0x340) + (d.power.inputMw.toNat <<< 0x360)
    + ((d.meter.copyTotal.toNat / 100000000) <<< 0x380) + (schedWord d <<< 0x3C0) + (setStatusWord d <<< 0x400)
    + (stalls <<< 0x480)

/-- TELEMETRY_REWRITE (R443): a rewrite in progress has reached byte `upto` of the mirror and GEN is odd, or it has ended
and GEN is even again. -/
def telemetryRewrite (upto : Option Nat) (d : Device) : Device :=
  if meridianRuns d then
    let old := fld d.host.mirror 0 8
    let gen := (match upto with | some _ => old / 2 * 2 + 1 | none => old / 2 * 2 + 2) % 2 ^ 64
    { d with host := { d.host with mirror := Ram.blit d.host.mirror 0 (upto.elim 0x410 (fun k => max 8 (min k 0x410))) (mirrorBytes d gen) } }
  else d

def execTelemetryRewrite (s : State) (upto : Option Nat := none) : Host.Outcome State Fault Refusal :=
  .next (s.upd (telemetryRewrite upto))

end Sys2Proof.Machine
end

