-- ==== Sys2Proof/Machine/Scratchpad.lean ====
section
/-!
DEFINITION. Machine/Scratchpad.lean: the operation words of a memory unit and its scrubber (chapter 6).
-/
namespace Sys2Proof.Machine

/-! ### Regions and banks (R201, R202, R206, R208) -/

def Desc.base (r : Desc) : Nat := bitsOf r.cfg.toNat 0 13
def Desc.len (r : Desc) : Nat := bitsOf r.cfg.toNat 14 13 + 1

/-- Physical slot of a relative slot (R208). -/
def Desc.slot (r : Desc) (p : Nat) : Nat := (r.base + (r.head + p) % r.len) % 8192

def Mu.desc (m : Mu) (n : Nat) : Desc := Tab.getD m.descs n {}

def Mu.setDesc (m : Mu) (n : Nat) (r : Desc) : Mu := { m with descs := Tab.set m.descs n r }

/-- Bank of a word (R201). -/
def bankOf (w : Nat) : Nat := (w / 16 % 16 + w % 16) % 16

/-- Steps of an access to a set of words: the largest number that fall in one bank (R202). -/
def accessSteps (ws : List Nat) : Nat :=
  (List.range 16).foldl (fun n b => max n (ws.filter (fun w => bankOf w = b)).length) 0

/-- The 512 bytes of a slot. -/
def Mu.slotData (m : Mu) (s : Nat) : BitVec 4096 := BitVec.ofNat 4096 (Ram.slice m.ram (16 * s) 16)

/-- Advance HEAD over `n` slots. -/
def Desc.advance (r : Desc) (n : Nat) : Desc := { r with head := (r.head + n) % r.len, count := r.count - n }

/-- Write a slot at TAIL (R208). -/
def Mu.pushSlot (m : Mu) (n : Nat) (v : BitVec 4096) : Mu :=
  let r := m.desc n
  let m := m.poke (16 * r.slot r.count) 16 v.toNat
  let r := { r with tail := (r.tail + 1) % r.len, count := r.count + 1 }
  { m.setDesc n r with bankSteps := satNat 48 m.bankSteps 1 }

/-- Write slots at TAIL while there is room: the values written. -/
def Mu.pushSlots (n : Nat) : List (BitVec 4096) → Mu → Mu
  | [], m => m
  | v :: rest, m => Mu.pushSlots n rest (m.pushSlot n v)

/-- Free slots of a region. -/
def Mu.room (m : Mu) (n : Nat) : Nat := (m.desc n).len - (m.desc n).count

/-! ### Fields (Table 6.4) and limits (R209) -/

def muDesc (w : BitVec 128) : Nat := imm w 0 5
def muCount (w : BitVec 128) : Nat := imm w 5 16
def muOffset (w : BitVec 128) : Nat := imm w 21 13
def muRepeat (w : BitVec 128) : Nat := imm w 34 8 + 1
def muAdvance (w : BitVec 128) : Bool := bitOf (imm w 42 1) 0

def isWriter (op : Nat) : Bool := op = 0xA1 || op = 0xA5
def isReader (op : Nat) : Bool := op = 0xA2 || op = 0xA3 || op = 0xA4

def noWriter (_ : Core) (x : Unit) (_ : BitVec 128) : Bool := x.flight.all (fun f => !isWriter (wOp f.word))
def noReader (_ : Core) (x : Unit) (_ : BitVec 128) : Bool := x.flight.all (fun f => !isReader (wOp f.word))

/-! ### DESC_SET, PUSH, ZERO and RELEASE (R206, R210) -/

/-- DESC_SET loads a descriptor from a constant slot. -/
def advDescSet (_ : Device) (_ : Nat) (x : Unit) (f : Flight) : Unit × Flight :=
  let v := Ram.read (Tab.getD x.ctxs f.ctx {}).consts (imm f.word 43 6)
  ({ x with mu := x.mu.setDesc (muDesc f.word) { cfg := v.setWidth 28, valid := true } }, { f with done := true })

def execDescSet (u : UnitRef) (s : State) : Host.Outcome State Fault Refusal :=
  .next (s.upd (runWord 0xA0 startAlone noInit advDescSet u.key))

/-- PUSH writes the tokens that have come while the region has room. -/
def advPush (_ : Device) (_ : Nat) (x : Unit) (f : Flight) : Unit × Flight :=
  let n := muDesc f.word
  let r := takeMany (wSrcA f.word) f.ctx (min (muCount f.word - f.takenA) (x.mu.room n)) x
  let k := f.takenA + r.1.length
  ({ r.2 with mu := Mu.pushSlots n (r.1.map (·.payload)) r.2.mu }, { f with takenA := k, done := decide (muCount f.word ≤ k) })

def execPush (u : UnitRef) (s : State) : Host.Outcome State Fault Refusal :=
  .next (s.upd (runWord 0xA1 noWriter noInit advPush u.key))

/-- ZERO writes all-zero slots while the region has room. -/
def advZero (_ : Device) (_ : Nat) (x : Unit) (f : Flight) : Unit × Flight :=
  let n := muDesc f.word
  let k := min (muCount f.word - f.takenA) (x.mu.room n)
  ({ x with mu := Mu.pushSlots n (List.replicate k 0) x.mu },
   { f with takenA := f.takenA + k, done := decide (muCount f.word ≤ f.takenA + k) })

def execZero (u : UnitRef) (s : State) : Host.Outcome State Fault Refusal :=
  .next (s.upd (runWord 0xA5 noWriter noInit advZero u.key))

/-- RELEASE advances HEAD over the slots the region holds, up to COUNT in all. -/
def advRelease (_ : Device) (_ : Nat) (x : Unit) (f : Flight) : Unit × Flight :=
  let n := muDesc f.word
  let r := x.mu.desc n
  let k := min (muCount f.word - f.takenA) r.count
  ({ x with mu := x.mu.setDesc n (r.advance k) },
   { f with takenA := f.takenA + k, done := decide (muCount f.word ≤ f.takenA + k) })

def execRelease (u : UnitRef) (s : State) : Host.Outcome State Fault Refusal :=
  .next (s.upd (runWord 0xA4 noReader noInit advRelease u.key))

/-! ### READ and COL_READ (R210, R213) -/

/-- Relative slots, now, that the next token of a READ or COL_READ comes from: takenB slots have been released. -/
def readSlots (f : Flight) : List Nat :=
  let w := f.word
  if wOp w = 0xA2 then [muOffset w + f.takenA % max 1 (muCount w) - f.takenB]
  else (List.range 16).map (fun k => muOffset w + 16 * (f.takenA / 16) + k - f.takenB)

def readTotal (w : BitVec 128) : Nat := if wOp w = 0xA2 then muCount w * muRepeat w else 16 * muCount w

/-- The words of the next access, none while a slot has not been written or a token still waits to be sent. -/
def readWords (x : Unit) (f : Flight) : Option (List Nat) :=
  let r := x.mu.desc (muDesc f.word)
  if !f.failed && f.outbox = [] && f.waits = [] && f.takenA < readTotal f.word && (readSlots f).all (fun p => decide (p < r.count)) then
    some (if wOp f.word = 0xA2 then
        let s := r.slot ((readSlots f).headD 0)
        (List.range 16).map (fun c => 16 * s + c)
      else (readSlots f).map (fun p => 16 * r.slot p + f.takenA % 16))
  else none

/-- Slots released once a token has been sent, `k` sent before it (ADVANCE). -/
def readFree (w : BitVec 128) (k : Nat) : Nat :=
  if !muAdvance w then 0
  else if wOp w = 0xA2 then (if muCount w * (muRepeat w - 1) ≤ k then 1 else 0)
  else (if k % 16 = 15 then 16 else 0)

/-- READ and COL_READ send one token at a time. -/
def advRead (_ : Device) (_ : Nat) (x : Unit) (f : Flight) : Unit × Flight :=
  match readWords x f with
  | none => (x, f)
  | some ws =>
    let w := f.word
    let v := ws.zipIdx.foldl (fun acc e => acc + ((Ram.read x.mu.ram e.1).toNat <<< (256 * e.2))) 0
    let last := f.takenA + 1 = readTotal w
    let t : Token := ⟨BitVec.ofNat 4096 v, mkTag f.ctx (wTileEnd w && last) 512 0 0⟩
    let k := readFree w f.takenA
    let n := muDesc w
    let m := x.mu.setDesc n ((x.mu.desc n).advance k)
    ({ x with mu := { m with bankSteps := satNat 48 m.bankSteps (accessSteps ws) } },
     { f with takenA := f.takenA + 1, takenB := f.takenB + k, outbox := [t], done := last })

/-- The oldest started, unfinished word of an opcode. -/
def openFlight (x : Unit) (op : Nat) : Option Flight := x.flight.find? (fun f => wOp f.word = op && !f.done)

/-- R217: the read of the oldest unfinished word of an opcode never completes. -/
def failRead (op : Nat) (x : Unit) : Unit :=
  match x.flight.findIdx? (fun f => wOp f.word = op && !f.done) with
  | some i => { x with flight := x.flight.modify i (fun f => { f with failed := true }) }
  | none => x

/-- One command of a reading word, with what its access finds and at which of its 16 words (R216, R217; log entry 15). -/
def readWord (op : Nat) (err : Ecc) (word : Nat) (u : Nat) (d : Device) : Device :=
  let d := runWord op noReader noInit (fun _ _ x f => (x, f)) u d
  let x := d.unit u
  match (openFlight x op).bind (readWords x) with
  | none => d
  | some ws =>
    let w := ws.getD word 0
    if err = .uncorrected then
      muError u w (x.mu.weightWord w) false (d.setUnit u { failRead op x with
        mu := { x.mu with bankSteps := satNat 48 x.mu.bankSteps (accessSteps ws) } })
    else
      let d := if err = .corrected then muCorrected u w (x.mu.weightWord w) d else d
      runWord op noReader noInit advRead u d

def execRead (u : UnitRef) (err : Ecc) (word : Fin 16) (s : State) : Host.Outcome State Fault Refusal :=
  .next (s.upd (readWord 0xA2 err word.val u.key))
def execColRead (u : UnitRef) (err : Ecc) (word : Fin 16) (s : State) : Host.Outcome State Fault Refusal :=
  .next (s.upd (readWord 0xA3 err word.val u.key))

/-! ### The scrubber (R218) -/

/-- The first slot from `s` up in a weight-class segment, among the 64 segments. -/
def nextWeightSlot (m : Mu) (s : Nat) : Option Nat :=
  if s < 8192 && m.classMap.getLsbD (s / 128) then some s
  else ((List.range 64).find? (fun g => s < 128 * g && m.classMap.getLsbD g)).map (fun g => 128 * g)

/-- A started word of the MU could be served at the bank array. -/
def wordWants (x : Unit) : Bool :=
  x.flight.any (fun f =>
    if wOp f.word = 0xA1 then !f.done && x.lane (wSrcA f.word) f.ctx != [] && decide (0 < x.mu.room (muDesc f.word))
    else if wOp f.word = 0xA5 then !f.done && decide (0 < x.mu.room (muDesc f.word))
    else (wOp f.word = 0xA2 || wOp f.word = 0xA3) && !f.done && (readWords x f).isSome)

/-- The spill service could write or read an entry of a region. -/
def spillWants (d : Device) (r : SpillRegion) : Bool :=
  let x := d.unit r.unit
  let s := spillDesc d r
  let full := decide (x.laneCap r.port r.lane ≤ (x.lane r.port r.lane).length)
  if 0 < s.count && !full then !s.failed
  else decide (s.count < s.cap) && !bitOf x.held r.lane && (List.range 12).any (fun i =>
    match sourceToken x i with
    | some t => t.ctx = r.lane && routeOf x t = some r.port
    | none => false)

/-- R203: one of the three requesters of an MU's bank array could be served now. -/
def arrayWanted (d : Device) (u : Nat) : Bool :=
  wordWants (d.unit u) || d.sections.any (fun sec => sec.spills.any (fun r => r.mu = u && spillWants d r))

/-- MU_SCRUB_READ: the scrubber reads the next weight-class slot, in a step that the words and the spill service leave idle and at
least 256 steps after its last read; an error lies in word `word` of the slot. -/
def muScrub (u : Nat) (err : Ecc) (word : Nat) (d : Device) : Device :=
  let m := (d.unit u).mu
  match (nextWeightSlot m m.scrubPos).orElse (fun _ => nextWeightSlot m 0) with
  | none => d
  | some s =>
    if m.initLeft != 0 || m.scrubWait != 0 || arrayWanted d u then d
    else
      let next := nextWeightSlot m (s + 1)
      let d := d.updUnit u (fun x => { x with mu := { x.mu with
        scrubPos := next.getD ((nextWeightSlot m 0).getD 0), bankSteps := satNat 48 x.mu.bankSteps 1, scrubWait := 256
        scrubPasses := if next.isNone then x.mu.scrubPasses + 1 else x.mu.scrubPasses } })
      match err with
      | .clean | .transient => d
      | .corrected => muCorrected u (16 * s + word) true d
      | .uncorrected =>
        match coreSection d (u / 80) with
        | some sec =>
          if (liveMbx d sec).isSome && (sec.state = .running || sec.state = .preempting) then muError u (16 * s + word) true true d
          else
            let d := log 0x20 (unitId u) (16 * s + word + (1 <<< 64) + (1 <<< 72)) d
            d.updUnit u (fun x => { x with mu := { x.mu with scrubBad := true } })
        | none => log 0x20 (unitId u) (16 * s + word + (1 <<< 64) + (1 <<< 72)) d

def execMuScrubRead (u : UnitRef) (err : Ecc) (word : Fin 16) (s : State) : Host.Outcome State Fault Refusal :=
  .next (s.upd (muScrub u.key err word.val))

end Sys2Proof.Machine
end

