-- ==== Sys2Proof/Machine/Preempt.lean ====
section
/-!
DEFINITION. Machine/Preempt.lean: pre-emption, its save, resumption and the loss of a core (R360 to R367, R372,
R373, R555).
-/
namespace Sys2Proof.Machine

/-! ### What is saved -/

/-- Bytes of the save of a core (R222, R365): the occupied slots of its MUs and the accumulator banks of its CUs. -/
def coreSaveBytes (d : Device) (c : Nat) : Nat :=
  512 * 1024 + 512 * ((coreUnits c).map (fun u =>
    (((d.unit u).mu.descs.filter (fun e => e.2.valid)).map (fun e => e.2.count)).sum)).sum

/-- The same of each core of a section, logical core 0 first. -/
def saveBytes (d : Device) (sec : Section) : List Nat := sec.cores.map (coreSaveBytes d)

/-- Duration in µs of the save or restore of these bytes (R365, Table 11.5), rounded up; P scales with gait. -/
def saveTime (d : Device) (sec : Section) (bytes : List Nat) : Nat :=
  let per := bytes.zipIdx.map (fun b =>
    let g := max 1 (d.power.gait.getD (sec.phys b.2) 1600000)
    (b.1 * 1600000 + 300000 * g - 1) / (300000 * g))
  max (per.foldl max 0) ((bytes.sum + 4150000 - 1) / 4150000)

/-- Save areas of host pre-emptions in bytes (R364): their share, and what is held. -/
def hostShare (d : Device) : Nat :=
  let removed := ((List.range 24).filter (fun k => d.tiers.ftRemoved.getLsbD k)).length
  (3200 - 224 * removed) * 1048576

/-- The saves of host pre-emptions, those under way included. -/
def hostSaved (d : Device) : Nat :=
  (d.sections.map (fun s => match s.save with
    | some v => if v.forced then 0 else v.bytes.sum
    | none => if s.state = .preempting && !s.autoResume then (saveBytes d s).sum else 0)).sum

/-- R364: the save of a section, with those held for host pre-emptions, stays within the host's share. -/
def saveFits (d : Device) (sec : Section) : Bool := decide (hostSaved d + (saveBytes d sec).sum ≤ hostShare d)

/-- A word of an MU lies in an occupied slot of a valid region (R222). -/
def occupiedWord (m : Mu) (w : Nat) : Bool :=
  m.descs.any (fun e =>
    let r := e.2
    let rel := (w / 16 + 8192 - r.base) % 8192
    r.valid && decide (rel < r.len) && decide ((rel + r.len - r.head % r.len) % r.len < r.count))

/-- A token waiting at Order 3 is saved after its lane's tokens, and its handshake is completed by acknowledge (R362).
Behind tokens that are spilled it keeps its place (R60): the oldest of them joins the lane, and it takes the place at
the region's tail. -/
def settleWaiting (u src : Nat) (d : Device) : Device :=
  match sourceToken (d.unit u) src with
  | none => d
  | some t =>
    match routeOf (d.unit u) t with
    | none => d
    | some r =>
      if 4 ≤ r then d
      else
        let d := dropSource u src d
        match (spillOf d u r t.ctx).filter (fun sp => 0 < (spillDesc d sp).count) with
        | some sp => putSpill sp t (unspill sp d)
        | none => d.updUnit u (fun x => { x with lanes := Tab.set x.lanes (4 * r + t.ctx) (x.lane r t.ctx ++ [t]) })

/-- Every token that waits at Order 3 in a section. -/
def settleTokens (sec : Section) (d : Device) : Device :=
  (sectionUnits sec).foldl (fun d u => (List.range 8).foldl (fun d src => settleWaiting u src d) d) d

/-- The state of a unit that is saved (R222, R362). -/
def saveUnit (x : Unit) : Unit :=
  { ctxs := x.ctxs, active := x.active, idle := x.idle, lanes := x.lanes
    cu := { bank0 := x.cu.bank0, bank1 := x.cu.bank1, bufZeroed := true }
    mu := { ram := x.mu.ram.filter (fun e => occupiedWord x.mu e.1), descs := x.mu.descs.filter (fun e => e.2.valid),
            classMap := x.mu.classMap, usedSlots := x.mu.usedSlots } }

/-- Tokens of a channel that a pattern position stands for. -/
def carriedBefore (at_ : Nat → BitVec 16) (chan : Nat) (pos : Nat × Nat) : Nat :=
  ((List.range pos.1).map (fun e => if bitsOf (at_ e).toNat 0 12 = chan then bitsOf (at_ e).toNat 12 3 + 1 else 0)).sum
    + (if bitsOf (at_ pos.1).toNat 0 12 = chan then pos.2 else 0)

/-- The layout whose image, or whose generated frame, a context holds in a row of a logical core. -/
def rowLayout (d : Device) (sec : Section) (l row ctx : Nat) : Option Nat :=
  (([0, 1, 2, 3, 4, 5, 6, 7].findSome? (fun k => (Tab.getD (d.unit (sec.unitAt l row k)).ctxs ctx {}).image)).map
    (imgLayout sec.pkg)).orElse (fun _ => loadLayout sec.pkg l row ctx)

/-- R555: the number of tokens each channel of each loaded layout has carried, modulo its schedule cycle. -/
def carriedCounts (d : Device) (sec : Section) : Tab Nat :=
  let m := sec.pkg
  (layouts m).zipIdx.foldl (fun t e =>
    let l := layCore m e.1
    let cols := (sec.l2p.drop (64 * l)).take 64
    (layPaths m e.1).foldl (fun t p =>
      match (pathRoute cols p).find? (fun h => 4 ≤ h.2.2.1) with
      | some h =>
        let c := Tab.getD (d.unit (80 * sec.phys l + 10 * h.1 + h.2.1)).ctxs (layCtx m e.1) {}
        if rowLayout d sec l h.1 (layCtx m e.1) = some e.2 then
          let slot := linkSlot (h.2.2.1 - 4) (h.2.2.2 = 1)
          Tab.set t (4096 * e.2 + pathChan p) (carriedBefore (patternAt c slot) (pathChan p) (Tab.getD c.linkPos slot (0, 0)))
        else t
      | none => t) t) []

/-- Arrivals that no release has answered, by logical core (R307). -/
def openArrivals (d : Device) (sec : Section) : List (Nat × Nat × Nat) :=
  (List.range sec.cores.length).flatMap (fun l =>
    let q := (d.core (sec.phys l)).seq
    (List.range 256).flatMap (fun b =>
      (List.range (q.arrived b - q.released b)).map (fun i => (b, q.released b + i, l))))

/-- Child nodes that have arrived at the device root. -/
def openNodes (d : Device) (h : Nat) : List (Nat × Nat × Nat × Bool) :=
  d.sync.counts.flatMap (fun e =>
    if e.1 / 2 ^ 41 = 4 && e.1 / 2 ^ 9 % 2 ^ 32 = h then
      (e.2.arrived.filter (fun n => 16 ≤ n)).map (fun n => (e.1 % 2 ^ 9 / 2, e.1 % 2, n - 16, e.2.epoch))
    else [])

/-- Semaphores of a section by logical core. -/
def sectionSems (d : Device) (sec : Section) : Ram 32 :=
  (List.range sec.cores.length).flatMap (fun l =>
    let c := sec.phys l
    ((d.quad (c / 4)).sems.filter (fun e => e.1 / 1024 = c % 4)).map (fun e => (1024 * l + e.1 % 1024, e.2)))

/-- The occupied entries of a spill region at their words, the words of every other entry zero (R222). -/
def spillImage (m : Mu) (r : SpillRegion) (s : SpillDesc) : Nat :=
  (List.range s.count).foldl (fun v i =>
    let e := (s.head + i) % max 1 s.cap
    v + (Ram.slice m.ram (r.base + 17 * e) 17 <<< (4352 * e))) 0

/-- The save of a section (R362). -/
def takeSave (d : Device) (sec : Section) (forced : Bool) : Save :=
  { units := (logicalUnits sec).map (fun e => (64 * e.1 + 8 * e.2.1 + e.2.2.1, saveUnit (d.unit e.2.2.2)))
    cores := (List.range sec.cores.length).map (fun l => (l, d.core (sec.phys l)))
    sems := sectionSems d sec
    arrivals := openArrivals d sec
    nodes := openNodes d sec.handle
    carried := carriedCounts d sec
    spills := sec.spills.map (fun r => (r.record, spillDesc d r, spillImage (d.unit r.mu).mu r (spillDesc d r)))
    chan := (List.range sec.cores.length).map (fun l => (l, Tab.getD d.sync.chan (sec.phys l) []))
    bytes := saveBytes d sec
    forced := forced }

/-- Operations on their way to a tally are applied before the save; `n` bounds them. -/
def applyTallies (q : Nat) : Nat → Device → Device
  | 0, d => d
  | n + 1, d => if (d.quad q).ops = [] then d else applyTallies q n (tallyOperation q d)

/-- Releases on their way to a core reach it before the save. -/
def applyReleases (c : Nat) : Nat → Device → Device
  | 0, d => d
  | n + 1, d => if Tab.getD d.sync.releases c [] = [] then d else applyReleases c n (barrierRelease c d)

def settleSync (sec : Section) (d : Device) : Device :=
  let d := [0, 1, 2, 3].foldl (fun d q => applyTallies q (d.quad q).ops.length d) d
  sec.cores.foldl (fun d c => applyReleases c (Tab.getD d.sync.releases c []).length d) d

/-- A word that the save of a section reads: an occupied slot's or an occupied spill entry's (R222). -/
def savedWord (d : Device) (sec : Section) (u w : Nat) : Bool :=
  (sectionUnits sec).contains u && (occupiedWord (d.unit u).mu w
    || sec.spills.any (fun r => r.mu = u && (
        let s := spillDesc d r
        let e := (w - r.base) / 17
        r.base ≤ w && decide (w < r.base + 17 * s.cap)
          && decide ((e + s.cap - s.head) % max 1 s.cap < s.count))))

/-- What the reads of a save find (R216, R217): a corrected error counts, an uncorrected one halts the section. -/
def saveRead (sec : Section) (err : MuErr) (d : Device) : Device :=
  match err with
  | none => d
  | some (u, w, e) =>
    if !savedWord d sec u.key w.val then d
    else
      let cls := (d.unit u.key).mu.weightWord w.val
      match e with
      | .uncorrected => muError u.key w.val cls false d
      | .corrected => muCorrected u.key w.val cls d
      | _ => d

/-- Orders 4 to 6 of Table 11.4.  Barrier counts at the device root that stand for an arrival already sent to the parent
node stay (R373). -/
def savePreempt (h : Nat) (forced : Bool) (err : MuErr) (d : Device) : Device :=
  match d.section? h with
  | none => d
  | some sec =>
    let since := if sec.state = .preempting then d.now - sec.suspendedAt else 0
    let d := settleTokens sec (settleSync sec d)
    let d := saveRead sec err (flushStores sec.cores d)
    if (d.section? h).any (fun s => s.state = .halted) then unloadSection h d
    else
      match recordsPoison d sec with
      | some e => unloadSection h (pageHalt h e d)
      | none =>
        let d := writeRecords sec sec.cores d
        let v := takeSave d sec forced
        let t := since + saveTime d sec v.bytes
        let d := clearBarriers false h (releaseCores sec d)
        let d := d.updSection h (fun s => { s with state := .preempted, save := some v, spills := [], storePages := [] })
        let d := { d with sched := { d.sched with done := satAdd d.sched.done 1, saveUs := BitVec.ofNat 32 t } }
        let d := match runsNow d sec with
          | some m => d.updMb m (fun x => if x.state.started then { x with state := .preempted } else x)
          | none => d
        settleJobs (lostReturns h d)

/-! ### Pre-emption (R361, R363, R367) -/

/-- Orders 1 and 2 of Table 11.4. -/
def sendSuspend (h : Nat) (d : Device) : Device :=
  match d.section? h with
  | none => d
  | some sec =>
    let d := sec.cores.foldl (fun d c => pushCtrl c [.suspend] (d.updCore c (fun x => { x with quiesce := 0 }))) d
    d.updSection h (fun s => { s with state := .preempting, suspendedAt := d.now })

/-- Order 1 of Table 10.4 has begun for the section's command (R361). -/
def applyBegun (d : Device) (sec : Section) : Bool := sec.mbx.any (fun m => (d.mb m).applying)

/-- A running section is to be pre-empted: suspend is sent, but not once the apply phase has begun; then the
pre-emption finds the command ended (Tables 11.4 and 11.6). -/
def startPreempt (h : Nat) (d : Device) : Device :=
  if (d.section? h).any (applyBegun d) then d.updSection h (fun s => { s with state := .preempting, suspendedAt := d.now })
  else sendSuspend h d

/-- A unit is quiescent: at YIELD or idle, with no token of it waiting at an output port. -/
def unitQuiet (x : Unit) : Bool := x.idle && x.flight = [] && x.out = [] && x.reload.isNone && x.switchReq.isNone

/-- Every token that a node holds waits at Order 3 of a port of its own unit. -/
def nodeQuiet (x : Unit) : Bool := x.latch.all (fun e => (routeOf x e.2).any (fun r => r < 4))

/-- Order 3 of Table 11.4 is reached. -/
def quiescent (d : Device) (sec : Section) : Bool :=
  (sectionUnits sec).all (fun u => unitQuiet (d.unit u) && nodeQuiet (d.unit u))

/-- PREEMPTION_SAVE; the save of a section that a lost core stops is forced (R364). -/
def preemptionSave (h : Nat) (err : MuErr) (d : Device) : Device :=
  match d.section? h with
  | some sec =>
    if sec.state = .preempting && allStopped d sec && !allFinished d sec && quiescent d sec then
      savePreempt h sec.autoResume err d
    else d
  | none => d

def execPreemptionSave (handle : BitVec 32) (s : State) (err : MuErr := none) : Host.Outcome State Fault Refusal :=
  .next (s.upd (preemptionSave handle.toNat err))

/-- PREEMPT ends FAILED when its pre-emption is abandoned (R429); CORE_OFFLINE has done what it can. -/
def endAbandoned (h : Nat) (d : Device) : Device :=
  (List.range 16).foldl (fun d m =>
    match (d.mb m).job with
    | .preempting k => if k = h then endFailed m 0x03 (reply m 0 1 1 d) else d
    | .offline c => if (d.core c).section_ = some h then endDone m d else d
    | _ => d) d

/-- The pre-emption is abandoned (R363). -/
def abandonPreempt (h : Nat) (d : Device) : Device :=
  match d.section? h with
  | none => d
  | some sec =>
    let d := dropSuspends sec d
    let d := sec.cores.foldl (fun d c => sendResume c (d.updCore c (fun x =>
      { x with quiesce := 0, seq := if x.seq.markEpoch then x.seq else { x.seq with stopAt := none } }))) d
    let d := lostReturns h (d.updSection h (fun s => { s with state := .running, markNext := false }))
    let d := { d with sched := { d.sched with abandoned := satAdd d.sched.abandoned 1 } }
    endAbandoned h (log 0x13 h 0 d)

/-- QUIESCENCE_LIMIT. -/
def quiescenceLimit (c : Nat) (d : Device) : Device :=
  match coreSection d c with
  | some sec => if sec.state = .preempting && 2000000 ≤ (d.core c).quiesce then abandonPreempt sec.handle d else d
  | none => d

def execQuiescenceLimit (core : Fin 16) (s : State) : Host.Outcome State Fault Refusal := .next (s.upd (quiescenceLimit core.val))

/-! ### Resumption (R366, R555) -/

/-- R555: the position of a pattern from the recorded numbers of tokens. -/
def walkPattern (at_ : Nat → BitVec 16) (left : Nat → Nat) : Nat → Nat → Tab Nat → Nat × Nat
  | 0, _, _ => (0, 0)
  | fuel + 1, e, used =>
    if 64 ≤ e || !(at_ e).getLsbD 15 then (0, 0)
    else
      let h := bitsOf (at_ e).toNat 0 12
      let n := bitsOf (at_ e).toNat 12 3 + 1
      let have_ := left h - Tab.getD used h 0
      if n ≤ have_ then walkPattern at_ left fuel (e + 1) (Tab.set used h (Tab.getD used h 0 + n))
      else (e, have_)

/-- A context with the routes, patterns and pattern positions of its layout at a node of the new placement. -/
def placeCtx (sec : Section) (v : Save) (l row col lay : Nat) (c : Ctx) : Ctx :=
  let m := sec.pkg
  let off := (layouts m).getD lay 0
  let cols := (sec.l2p.drop (64 * l)).take 64
  let part := fld (derivedPart2 m off cols row col) 0 1792
  let c := { c with routes := Ram.cells 32 0 256 part, patterns := Ram.cells 16 0 384 (part >>> 8192) }
  let left := fun h => Tab.getD v.carried (4096 * lay + h) 0
  { c with linkPos := (List.range 6).map (fun s => (s, walkPattern (patternAt c s) left 65 0 [])) }

/-- Layouts that the contexts of a row held when the section was saved. -/
def savedLayout (m : Memory) (v : Save) (l row ctx : Nat) : Option Nat :=
  (([0, 1, 2, 3, 4, 5, 6, 7].findSome? (fun k =>
    (Tab.getD (Tab.getD v.units (64 * l + 8 * row + k) {}).ctxs ctx {}).image)).map (imgLayout m)).orElse
      (fun _ => loadLayout m l row ctx)

/-- A unit takes the saved state of a logical one; its counters, CONV_RUNMAX among them, are its own (log entry 89, DEDUCED). -/
def restoreUnit (sec : Section) (v : Save) (l row col : Nat) (s x : Unit) : Unit :=
  let ctxs := s.ctxs.map (fun e =>
    (e.1, match e.2.image with
      | some n => placeCtx sec v l row col (imgLayout sec.pkg n) e.2
      | none =>
        match savedLayout sec.pkg v l row e.1 with
        | some lay => placeCtx sec v l row col lay e.2
        | none => e.2))
  { clearUnit x with
    ctxs := ctxs, active := s.active, idle := s.idle, lanes := s.lanes
    cu := { x.cu with bank0 := s.cu.bank0, bank1 := s.cu.bank1, buf := [], bufZeroed := true, ftq := [] }
    mu := { x.mu with ram := s.mu.ram, descs := s.mu.descs, writeBack := [] } }

/-- A spare column's node takes the generated frames of its row's contexts. -/
def restoreSpare (sec : Section) (v : Save) (l row col : Nat) (x : Unit) : Unit :=
  let ctxs := (List.range 4).filterMap (fun k =>
    (savedLayout sec.pkg v l row k).map (fun lay => (k, placeCtx sec v l row col lay {})))
  let active := (Tab.getD v.units (64 * l + 8 * row) {}).active
  { clearUnit x with ctxs := ctxs, active := active }

/-- What a core takes back; its counters are its own (R374). -/
def restoreCore (sec : Section) (l : Nat) (s x : Core) : Core :=
  { x with
    section_ := some sec.handle, logical := l, seq := { s.seq with retired := x.seq.retired }, lens := s.lens, profile := s.profile,
    fromPackage := s.fromPackage, slots := keepBytes x.slots s.slots, streamTab := s.streamTab, loadQ := s.loadQ, storeQ := [],
    tapPatterns := s.tapPatterns, tapPos := s.tapPos, eps := s.eps, walks := [], quiesce := 0 }

/-- Spill regions get their entries back at the same places of the new region. -/
def restoreSpills (sec : Section) (v : Save) (d : Device) : Device :=
  sec.spills.foldl (fun d r =>
    match v.spills.find? (fun e => e.1 = r.record) with
    | some e => d.updUnit r.mu (fun x =>
        let s := Tab.getD x.mu.spills r.desc {}
        let s := { s with head := e.2.1.head, tail := e.2.1.tail, count := e.2.1.count }
        { x with mu := { x.mu with ram := Ram.blit x.mu.ram r.base (17 * r.cap) e.2.2, spills := Tab.set x.mu.spills r.desc s } })
    | none => d) d

/-- Semaphores at the new indices, and arrivals counted again on the new cores. -/
def restoreSync (sec : Section) (v : Save) (d : Device) : Device :=
  let d := v.sems.foldl (fun d e =>
    let c := sec.phys (e.1 / 1024)
    d.updQuad (c / 4) (fun q => { q with sems := Ram.write q.sems (1024 * (c % 4) + e.1 % 1024) e.2 })) d
  let d := v.arrivals.foldl (fun d a =>
    let c := sec.phys a.2.2
    postArrival (c / 4) { handle := sec.handle, barrier := a.1, round := a.2.1, end_ := c, stop := false, epoch := false } d) d
  let d := v.nodes.foldl (fun d n =>
    postArrival 4 { handle := sec.handle, barrier := n.1, round := n.2.1, end_ := 16 + n.2.2.1, stop := false, epoch := n.2.2.2 } d) d
  v.chan.foldl (fun d e =>
    let c := sec.phys e.1
    { d with sync := { d.sync with chan := Tab.set d.sync.chan c e.2 } }) d

/-- Ingest windows follow their logical core. -/
def moveIngest (sec : Section) (d : Device) : Device :=
  { d with host := { d.host with ingest := d.host.ingest.map (fun e =>
      (e.1, { e.2 with bound := e.2.bound.map (fun b =>
        if b.handle = sec.handle then { b with core := sec.phys b.logical } else b) })) } }

/-- The saved state goes back (R222, R362, R555). -/
def restoreSave (sec : Section) (v : Save) (d : Device) : Device :=
  let d := (logicalUnits sec).foldl (fun d e =>
    d.updUnit e.2.2.2 (restoreUnit sec v e.1 e.2.1 (e.2.2.2 % 10) (Tab.getD v.units (64 * e.1 + 8 * e.2.1 + e.2.2.1) {}))) d
  let d := (List.range sec.cores.length).foldl (fun d l =>
    (List.range 8).foldl (fun d r =>
      (spareCols sec l r).foldl (fun d p => d.updUnit (80 * sec.phys l + 10 * r + p) (restoreSpare sec v l r p)) d) d) d
  let d := (List.range sec.cores.length).foldl (fun d l =>
    d.updCore (sec.phys l) (restoreCore sec l (Tab.getD v.cores l {}))) d
  let d := sec.cores.foldl (fun d c => sendResume c d) d
  moveIngest sec (restoreSync sec v (restoreSpills sec v d))

/-- Orders 3, 4 and 6 to 9 of Table 8.6, then the restore; or the failure. -/
def resumeSection (h : Nat) (d : Device) : Except PlaceFail (Device × Section) :=
  match d.section? h with
  | none => .error (0x11, 3, 0)
  | some sec =>
    match sec.save, chooseCores d sec sec.segBase with
    | some v, .ok (cores, scores) =>
      let zero := sec.newPages.map (fun _ => 0)
      match finishPlace { sec with cores := cores, scores := scores, newPages := zero, nearPages := zero } d with
      | .error e => .error e
      | .ok (d1, sec1) =>
        let t := saveTime d1 sec1 v.bytes
        let sec2 := { sec1 with state := if (runsNow d sec).isSome then .running else .idle, save := none, autoResume := false }
        let d1 := clearSems cores (writeStores sec1 (writeMus sec1 d1))
        let d1 := restoreSave sec2 v (d1.updSection h (fun _ => sec2))
        let d1 := { d1 with sched := { d1.sched with restoreUs := BitVec.ofNat 32 t } }
        let d1 := match runsNow d sec with
          | some m => d1.updMb m (fun x =>
              if x.state = .preempted then { x with state := if x.progress = 0 then .running else .partial_ } else x)
          | none => d1
        .ok (queuePromotions sec2 (writeReport d sec2 d1), sec2)
    | _, .error e => .error e
    | none, _ => .error (0x11, 3, 0)

/-- What the read of the save in the far tier finds (R233); one that fails again acts by R229: the section halts, with the
activation code, since no page holds a save (log entry 94, DESIGN CHOICE). -/
def restoreFound (h : Nat) (found : Ecc) (d : Device) : Device :=
  match found with
  | .clean => d
  | .corrected => { d with tiers := { d.tiers with ftCorr := satAdd d.tiers.ftCorr 1 } }
  | .transient => { d with tiers := { d.tiers with ftTransient := satAdd d.tiers.ftTransient 1 } }
  | .uncorrected => haltSection h 0x41 (log 0x20 0 (2 ^ 40 - 1) d)

/-- A pre-empted section that resumes by itself. -/
def autoResumes (d : Device) (s : Section) : Bool :=
  s.state = .preempted && (s.autoResume || d.sched.autoResume = 1)
    && !(hasLinks s.pkg && d.set.handle = s.handle && 3 ≤ d.set.state.toNat)

/-- The record of a placement that does not fit (R290), with the section's command where one is pre-empted. -/
def logUnplaced (sec : Section) (f : PlaceFail) (d : Device) : Device :=
  match liveMbx d sec with
  | some m => logCmd 0x10 f.1.toNat f.2.2 m f.2.1 d
  | none => logRec 0x10 f.1.toNat f.2.2 0xFF 0 f.2.1 d

/-- The first of these sections of which a placement fits resumes; each that does not fit before it is recorded. -/
def resumeFirst (found : Ecc) : List Section → Device → Device
  | [], d => d
  | s :: rest, d =>
    match resumeSection s.handle d with
    | .ok r => restoreFound s.handle found r.1
    | .error f => resumeFirst found rest (logUnplaced s f d)

/-- AUTO_RESUME_RETRY (R366): the first section, in order of placement, of which a placement fits. -/
def autoResume (found : Ecc) (d : Device) : Device :=
  if !meridianRuns d then d else resumeFirst found (d.sections.filter (autoResumes d)) d

def execAutoResumeRetry (s : State) (found : Ecc := .clean) : Host.Outcome State Fault Refusal := .next (s.upd (autoResume found))

/-! ### Loss of a core (R372, R373) -/

/-- A barrier whose PARTICIPANTS covers every logical core is in the table (Order 2 of Table 11.8). -/
def hasCover (sec : Section) : Bool := (List.range 256).any (fun b => barCovers sec b && (!hasLinks sec.pkg || barSystem sec b))

/-- Table 11.8 for the section that holds a core, and Orders 5 and 6 of Table 11.4 for an idle one. -/
def loseCore (c : Nat) (err : MuErr) (d : Device) : Device :=
  match coreSection d c with
  | none => d
  | some sec =>
    let h := sec.handle
    let d := abortRegion h 0x03 d
    let lost := fun (s : Section) => { s with lostCores := if s.lostCores.contains c then s.lostCores else s.lostCores ++ [c] }
    let mark := fun (s : Section) => { lost s with autoResume := true }
    match sec.state with
    | .running =>
      let d := d.updSection h mark
      if hasCover sec && !applyBegun d sec then
        (sec.cores.foldl (fun d k => d.updCore k (fun x => { x with quiesce := 0 })) d).updSection h (fun s =>
          { s with markNext := true, state := .preempting, suspendedAt := d.now })
      else startPreempt h d
    | .preempting => d.updSection h lost
    | .idle => savePreempt h true err (d.updSection h mark)
    | _ => d

/-- UNIT_FAILURE (R34, R372): the unit is recorded; its core is offline until the section it holds has been saved, or is
no longer stopped for it. -/
def unitFailure (u : Nat) (err : MuErr) (d : Device) : Device :=
  let c := u / 80
  let d := log 0x22 (unitId u) 0 d
  let d := { d with
    mgmt := { d.mgmt with defects := if d.mgmt.defects.contains u then d.mgmt.defects else d.mgmt.defects ++ [u] }
    boot := { d.boot with defects := if d.boot.defects.contains u then d.boot.defects else d.boot.defects ++ [u] } }
  let d := { d with sched := { d.sched with offline := setBit d.sched.offline c true } }
  let d := loseCore c err d
  if (coreSection d c).any (fun s => s.state = .preempting) || d.sched.hostOffline.getLsbD c then d
  else { d with sched := { d.sched with offline := setBit d.sched.offline c false } }

def execUnitFailure (u : UnitRef) (s : State) (err : MuErr := none) : Host.Outcome State Fault Refusal :=
  .next (s.upd (unitFailure u.key err))

end Sys2Proof.Machine
end

