-- ==== Sys2Proof/Machine/Flags.lean ====
section
/-!
DEFINITION. Machine/Flags.lean: every status word, flag and counter register as the host reads it, and the clearing
reads (R18, R432 and the register tables of all chapters).
-/
namespace Sys2Proof.Machine

/-! ### UNIT_ID -/

def uidCore (uid : Nat) : Nat := 4 * bitsOf uid 14 2 + bitsOf uid 12 2
def uidCol (uid : Nat) : Nat := bitsOf uid 8 4
def uidRow (uid : Nat) : Nat := bitsOf uid 5 3
def uidUnit (uid : Nat) : Nat := 80 * uidCore uid + 10 * uidRow uid + uidCol uid

/-! ### Core fabric block (Tables 2.14, 2.15, 3.8, 5.13, 11.9, 14.10, 17.10) -/

/-- R86: some queue of the core is exhausted, and how many. -/
def exhaustedCount (d : Device) (c : Nat) : Nat := (exhaustedOf d c).length

/-- A border link of the core is FENCED, from whichever side its region lies (R92, Table 2.14). -/
def borderFenced (d : Device) (c : Nat) : Bool :=
  (coreUnits c).any (fun u => (List.range 8).any (fun k => linkFenced d u (k % 4) (decide (4 ≤ k))))

/-- FAB_STATUS (Table 2.14). -/
def fabStatus (d : Device) (c : Nat) : Nat :=
  let us := coreUnits c
  let spill := (coreSection d c).any (fun sec => 0 < spillCount d sec c)
  let n := exhaustedCount d c
  bit01 spill + 2 * bit01 (decide (0 < n)) + 4 * bit01 (d.core c).fab.deadlock
    + 8 * bit01 (borderFenced d c) + 16 * bit01 (us.any (fun u => (d.unit u).held != 0))
    + ((n % 65536) <<< 16)

def SeqState.code : SeqState → Nat
  | .idle => 0
  | .issuing => 1
  | .waiting => 2
  | .suspended => 3
  | .finished => 4
  | .halted => 5

/-- CFG_STATUS (Table 14.10): a reload of the sequencer shows as MODE 1, OPEN 1. -/
def cfgStatus (d : Device) (c : Nat) : Nat :=
  let g := (d.core c).cfg
  if g.open_ then
    g.mode + 4 + (if g.mode = 2 then 8 * g.ready + (g.frames <<< 16) else 0)
  else if (coreUnits c).any (fun u => (d.unit u).reload.any (fun r => r.begun)) then 1 + 4
  else 0

def fabWord (d : Device) (c off : Nat) : Nat :=
  let x := d.core c
  let s := x.seq
  match off with
  | 0x000 => fabStatus d c
  | 0x008 => x.fab.idleSteps + (bit01 (decide (0 < exhaustedCount d c) && decide (x.fab.idleSteps < 2000000)) <<< 32)
  | 0x010 => x.fab.spillTokens
  | 0x018 => x.fab.spillPeak
  | 0x020 => x.fab.staleTokens
  | 0x028 => x.fab.deadlockQueue.toNat
  | 0x180 =>
    let strap := bit01 (d.host.straps.getLsbD 15)
    (match x.profile with | some p => bit01 p | none => strap) + 2 * strap + 4 * bit01 x.fromPackage
  | 0x200 => s.entry % 4096 + (s.state.code <<< 12) + ((s.tripsDone % 2 ^ 32) <<< 16)
  | 0x208 => s.retired
  | 0x210 => s.chunks
  | 0x240 => cfgStatus d c
  | 0x248 => x.fab.cfgFrames
  | 0x250 => x.fab.cfgFrameFail
  | 0x280 => d.power.gait.getD c 0
  | _ =>
    if 0x100 ≤ off && off < 0x140 then
      let r := Tab.getD x.lens ((off - 0x100) / 8) {}
      r.value % 2 ^ 32 + (r.grain <<< 32)
    else 0

def fabClear (off : Nat) (f : FabRegs) : FabRegs :=
  match off with
  | 0x010 => { f with spillTokens := 0 }
  | 0x018 => { f with spillPeak := 0 }
  | 0x020 => { f with staleTokens := 0 }
  | 0x248 => { f with cfgFrames := 0 }
  | 0x250 => { f with cfgFrameFail := 0 }
  | _ => f

/-! ### CU and MU blocks (Tables 3.8, 4.10, 5.13, 6.6, 7.9) -/

/-- A started, unfinished word of the unit with an opcode in a range. -/
def inProgress (x : Unit) (lo hi : Nat) : Bool := x.flight.any (fun f => lo ≤ wOp f.word && wOp f.word ≤ hi)

/-- A capture of R115 is in progress: a started capture word has tokens of its operands to take (CAPTURE_BUSY). -/
def capturing (x : Unit) : Bool :=
  x.flight.any (fun f => isCapture (Tab.getD x.ctxs f.ctx {}) f.word && !f.done && !captured x f)

/-- An MM_ACC has its first K group and its bank, and its compute phase has not ended (MM_BUSY, R115, R116). -/
def computing (x : Unit) : Bool :=
  x.flight.any (fun f => wOp f.word = 0x20 && !f.done && firstCaptured x f && mayCompute x f)

/-- A V_FUNC, or a PASS or FINAL of V_SMAX, has begun its first pass and has not ended its last (SFU_BUSY, R170). -/
def usesSfu (x : Unit) : Bool :=
  x.flight.any (fun f => (wOp f.word = 0x62 || (wOp f.word = 0x66 && vFunc f.word != 0)) && !f.done && firstCaptured x f)

def cuWord (d : Device) (u off : Nat) : Nat :=
  let x := d.unit u
  match off with
  | 0x000 => x.active + 4 * bit01 (capturing x) + 8 * bit01 (computing x) + 16 * bit01 (inProgress x 0x21 0x21)
  | 0x008 => x.cu.mmSteps
  | 0x010 => x.cu.skippedTrips
  | 0x040 => bit01 (inProgress x 0x60 0x68) + 2 * bit01 (usesSfu x) + (((x.cu.ftq.map (fun e => e.units.length)).sum % 64) <<< 8)
               + ((x.cu.ftq.length % 64) <<< 14)
  | 0x048 => x.cu.vecSteps
  | 0x050 => x.cu.sfuHard
  | 0x058 => x.cu.ftqWait
  | 0x060 => x.cu.satTotal
  | 0x068 => x.cu.flushTotal
  | 0x070 => x.cu.runmax
  | _ => if 0x080 ≤ off && off ≤ 0x0B0 then Tab.getD x.stalls ((off - 0x080) / 8) 0 else 0

def cuClear (off : Nat) (x : Unit) : Unit :=
  match off with
  | 0x008 => { x with cu := { x.cu with mmSteps := 0 } }
  | 0x010 => { x with cu := { x.cu with skippedTrips := 0 } }
  | 0x048 => { x with cu := { x.cu with vecSteps := 0 } }
  | 0x050 => { x with cu := { x.cu with sfuHard := 0 } }
  | 0x058 => { x with cu := { x.cu with ftqWait := 0 } }
  | 0x060 => { x with cu := { x.cu with satTotal := 0 } }
  | 0x068 => { x with cu := { x.cu with flushTotal := 0 } }
  | _ => if 0x080 ≤ off && off ≤ 0x0B0 then { x with stalls := Tab.erase x.stalls ((off - 0x080) / 8) } else x

/-- MU_DESC_n and MU_SPILL_n. -/
def muTableWord (m : Mu) (off : Nat) : Nat :=
  if 0x100 ≤ off && off < 0x300 then
    let r := Tab.getD m.descs ((off - 0x100) / 16) {}
    if off % 16 = 0 then r.cfg.toNat + (bit01 r.valid <<< 31) else r.head + (r.tail <<< 16) + (r.count <<< 32)
  else if 0x300 ≤ off && off < 0x500 then
    let s := Tab.getD m.spills ((off - 0x300) / 32) {}
    match (off - 0x300) % 32 with
    | 0 => s.base + (s.cap <<< 32) + (bit01 s.valid <<< 48)
    | 8 => s.owner.toNat
    | 16 => s.head + (s.tail <<< 16) + (s.count <<< 32)
    | _ => 0
  else 0

def muWord (d : Device) (u off : Nat) : Nat :=
  let x := d.unit u
  let m := x.mu
  match off with
  | 0x000 => x.active + 4 * bit01 (x.flight.any (fun f => isWriter (wOp f.word))) + 8 * bit01 (x.flight.any (fun f => isReader (wOp f.word)))
               + 16 * bit01 (decide (0 < m.initLeft)) + 32 * bit01 m.eccFatal
  | 0x008 => m.classMap.toNat
  | 0x010 => m.corrAct
  | 0x018 => m.corrWgt
  | 0x020 => if m.fatalValid then m.fatalWord + (bit01 m.fatalClass <<< 17) + (bit01 m.fatalScrub <<< 18) + (1 <<< 19) else 0
  | 0x028 => m.scrubPos + (m.scrubPasses.toNat <<< 32)
  | 0x030 => m.bankSteps
  | _ => if 0x080 ≤ off && off ≤ 0x0B0 then Tab.getD x.stalls ((off - 0x080) / 8) 0 else muTableWord m off

def muClear (off : Nat) (x : Unit) : Unit :=
  match off with
  | 0x010 => { x with mu := { x.mu with corrAct := 0 } }
  | 0x018 => { x with mu := { x.mu with corrWgt := 0 } }
  | 0x030 => { x with mu := { x.mu with bankSteps := 0 } }
  | _ => if 0x080 ≤ off && off ≤ 0x0B0 then { x with stalls := Tab.erase x.stalls ((off - 0x080) / 8) } else x

/-! ### Core stream block (Tables 7.10 and 9.7) -/

/-- GATE_WAIT: the next tile of the window is held by GATE. -/
def gateWait (s : Slot) : Bool :=
  s.active && !sdStore s.words && sdGated s.words && s.reqTile < s.total && decide (s.reqTile ≤ s.tile + 4)
    && decide (s.gate.toNat ≤ s.reqTile)

def EpState.code : EpState → Nat
  | .idle => 0
  | .listen => 1
  | .pending => 2
  | .open_ => 3
  | .closing => 4
  | .closed => 5

def streamWord (d : Device) (c off : Nat) : Nat :=
  let x := d.core c
  if off < 0x200 then
    let s := Tab.getD x.slots (off / 32) {}
    match off % 32 with
    | 0 => bit01 s.active + 2 * bit01 (gateWait s) + (s.desc <<< 8) + ((s.tile % 2 ^ 32) <<< 32)
    | 8 => s.done.toNat + (s.gate.toNat <<< 32)
    | 16 => s.pending % 65536
    | _ => s.bytes
  else if off = 0x200 then x.fab.tcHits
  else if off = 0x208 then x.fab.tcMisses
  else if 0x400 ≤ off && off < 0x800 then
    let e := Tab.getD x.eps ((off - 0x400) / 16) {}
    if off % 16 = 0 then
      e.role + (e.state.code <<< 2) + (e.gen <<< 8) + (e.slot <<< 16) + (e.credits <<< 24) + (e.ringHeld <<< 32)
    else e.dropped
  else if off = 0x800 then x.fab.chOverflow
  else if off = 0x808 then x.fab.chFraming
  else if off = 0x810 then x.fab.chRefused
  else 0

def streamClear (off : Nat) (x : Core) : Core :=
  if off < 0x200 && off % 32 = 24 then
    { x with slots := Tab.set x.slots (off / 32) { (Tab.getD x.slots (off / 32) {}) with bytes := 0 } }
  else if 0x400 ≤ off && off < 0x800 && off % 16 = 8 then
    let n := (off - 0x400) / 16
    { x with eps := Tab.set x.eps n { (Tab.getD x.eps n {}) with dropped := 0 } }
  else
    match off with
    | 0x200 => { x with fab := { x.fab with tcHits := 0 } }
    | 0x208 => { x with fab := { x.fab with tcMisses := 0 } }
    | 0x800 => { x with fab := { x.fab with chOverflow := 0 } }
    | 0x808 => { x with fab := { x.fab with chFraming := 0 } }
    | 0x810 => { x with fab := { x.fab with chRefused := 0 } }
    | _ => x

/-! ### Quadrant supervisor (Table 9.6) -/

def quadWord (d : Device) (q off : Nat) : Nat :=
  let x := d.quad q
  if off < 0x8000 then (Ram.read x.sems (off / 8)).toNat
  else if off = 0x8000 then x.waits.length
  else if off = 0x8008 then x.opCount
  else if off = 0x8010 then x.barReleases
  else 0

def quadClear (off : Nat) (x : Quad) : Quad :=
  match off with
  | 0x8008 => { x with opCount := 0 }
  | 0x8010 => { x with barReleases := 0 }
  | _ => x

/-! ### Hub management (Tables 15.7, 16.5, 17.10) -/

/-- The slot named by the valid record with the highest SEQUENCE (R488). -/
def activeSlot (m : Mgmt) : Nat :=
  match slotRecordOk m.recordA, slotRecordOk m.recordB with
  | true, true => if m.recordA.sequence.toNat < m.recordB.sequence.toNat then m.recordB.slot else m.recordA.slot
  | false, true => m.recordB.slot
  | true, false => m.recordA.slot
  | false, false => 0

def rootsMask (m : Mgmt) : Nat := (m.roots.map (fun e => 2 ^ e.1)).sum

def meanW (p : Power) : Nat := p.window.sum / (1000 * max 1 p.window.length)

def pwrStatus (d : Device) : Nat :=
  let p := d.power
  bitsOf (strapWord d) 19 2 + 4 * bit01 (decide (p.pMv < 700)) + 8 * bit01 p.throttle + (p.thermalQ.toNat <<< 4)
    + (p.hardQ.toNat <<< 8) + (bit01 p.tripped <<< 12) + (bit01 p.inputLow <<< 13) + (bit01 p.inputHigh <<< 14)
    + (budgetW d <<< 16) + ((meanW p % 65536) <<< 32) + (p.quadrantOff.toNat <<< 48)

def hubWord (d : Device) (off : Nat) : Nat :=
  let p := d.presence
  let m := d.mgmt
  let w := d.power
  match off with
  | 0x000 => bit01 (windowOpen d) + (if p.maint then 4 else 2 * bit01 (windowOpen d)) + 8 * bit01 p.stuck + 16 * bit01 p.maint
               + 32 * bit01 p.sealIntact + (remainingMs d <<< 16)
  | 0x008 => p.presses.toNat + (p.stuckCount.toNat <<< 32) + (p.sealChanges.toNat <<< 48)
  | 0x010 => m.almanacNext.toNat
  | 0x018 => m.almanacDropped.toNat
  | 0x020 => m.rollbackFloor.toNat + (m.goldenFloor.toNat <<< 32)
  | 0x028 => min m.recert.toNat 0xFFFF + ((rootsMask m % 65536) <<< 16) + (activeSlot m <<< 32) + (m.staged.toNat <<< 33) + (m.debugScope.toNat <<< 35)
  | 0x030 => m.powerOns.toNat + (m.restarts.toNat <<< 32)
  | 0x038 => m.recert.toNat
  | 0x040 => d.meter.copyStatus.toNat + (d.meter.copyBreaks.toNat <<< 32)
  | 0x048 => d.meter.copyTotal.toNat
  | 0x050 => d.meter.sharesSent.toNat + (d.meter.noReply.toNat <<< 32)
  | 0x060 => pwrStatus d
  | 0x068 => (List.range 4).foldl (fun a q => a + ((w.setMv.getD q 0 % 65536) <<< (16 * q))) 0
  | 0x070 => w.limitedMs.toNat + (w.throttleAsserts.toNat <<< 32) + (w.thermalEntries.toNat <<< 48)
  | 0x078 => w.tripSource.toNat + (w.tripTemp.toNat <<< 16) + (bit01 w.tripped <<< 32)
  | _ => 0

def hubClear (off : Nat) (d : Device) : Device :=
  match off with
  | 0x008 => d.updPresence (fun p => { p with presses := 0, stuckCount := 0, sealChanges := 0 })
  | 0x018 => d.updMgmt (fun m => { m with almanacDropped := 0 })
  | 0x050 => d.updMeter (fun m => { m with sharesSent := 0, noReply := 0 })
  | 0x070 => d.updPower (fun p => { p with limitedMs := 0, throttleAsserts := 0, thermalEntries := 0 })
  | _ => d

/-! ### Tiers, training, scheduling (Tables 7.11, 10.7, 11.10) -/

def migCfg (t : Tiers) : Nat :=
  t.promote.toNat + (t.demoteLow.toNat <<< 16) + (t.demoteHigh.toNat <<< 32) + (t.decayS.toNat <<< 48)

def tierWord (t : Tiers) (off : Nat) : Nat :=
  match off with
  | 0x000 => t.ntCorr.toNat
  | 0x008 => t.ftFallback.toNat + (t.ftRemoved.toNat <<< 32)
  | 0x010 => t.ftCorr.toNat
  | 0x018 => t.ftTransient.toNat
  | 0x020 => migCfg t
  | 0x028 => t.promotions.toNat + (t.demotions.toNat <<< 16) + (t.aborts.toNat <<< 32)
  | _ => 0

def tierClear (off : Nat) (t : Tiers) : Tiers :=
  match off with
  | 0x000 => { t with ntCorr := 0 }
  | 0x010 => { t with ftCorr := 0 }
  | 0x018 => { t with ftTransient := 0 }
  | 0x028 => { t with promotions := 0, demotions := 0, aborts := 0 }
  | _ => t

def trainCfg (t : Training) : Nat := t.repair.toNat + (t.interval.toNat <<< 16)

def trainWord (t : Training) (off : Nat) : Nat :=
  match off with
  | 0x000 => trainCfg t
  | 0x008 => t.phase.toNat + (t.group.toNat <<< 3) + (t.tile.toNat <<< 16)
  | 0x010 => t.accEntries.toNat
  | 0x018 => t.tiles.toNat
  | 0x020 => t.rounds.toNat
  | 0x028 => t.leaves.toNat + (t.repaired.toNat <<< 16)
  | _ => 0

def trainClear (off : Nat) (t : Training) : Training :=
  match off with
  | 0x010 => { t with accEntries := 0 }
  | 0x018 => { t with tiles := 0 }
  | 0x020 => { t with rounds := 0 }
  | 0x028 => { t with leaves := 0, repaired := 0 }
  | _ => t

def schedCfg (s : Sched) : Nat := s.policy.toNat + (s.autoResume.toNat <<< 2)

def schedRegWord (d : Device) (off : Nat) : Nat :=
  let s := d.sched
  match off with
  | 0x000 => schedCfg s
  | 0x008 => schedWord d
  | 0x010 => s.done.toNat + (s.abandoned.toNat <<< 32)
  | 0x018 => s.saveUs.toNat + (s.restoreUs.toNat <<< 32)
  | 0x020 => (hostShare d - hostSaved d) / 1048576
  | 0x028 => s.fallbacks.toNat + (s.missed.toNat <<< 32)
  | _ => 0

def schedClear (off : Nat) (s : Sched) : Sched :=
  match off with
  | 0x010 => { s with done := 0, abandoned := 0 }
  | 0x028 => { s with fallbacks := 0, missed := 0 }
  | _ => s

/-! ### Links (Tables 12.10 and 12.11) -/

def portWord (x : Port) (off : Nat) : Nat :=
  match off with
  | 0x00 => x.state.toNat + (x.width.toNat <<< 2) + (x.downCause.toNat <<< 8) + (x.peerNode.toNat <<< 16) + (x.peerPort.toNat <<< 26)
              + (x.peerFw.toNat <<< 32)
  | 0x08 => x.corrected.toNat
  | 0x10 => x.uncorr.toNat + (x.crcFail.toNat <<< 32)
  | 0x18 => x.replays.toNat + (x.naksSent.toNat <<< 32)
  | 0x20 => x.trainFail.toNat + (x.downs.toNat <<< 16) + (x.dropped.toNat <<< 32)
  | 0x28 => x.txData.toNat
  | _ => 0

def portClear (off : Nat) (x : Port) : Port :=
  match off with
  | 0x08 => { x with corrected := 0 }
  | 0x10 => { x with uncorr := 0, crcFail := 0 }
  | 0x18 => { x with replays := 0, naksSent := 0 }
  | 0x20 => { x with trainFail := 0, downs := 0, dropped := 0 }
  | 0x28 => { x with txData := 0 }
  | _ => x

def lnkCfg (s : LinkSet) : Nat := s.heartbeatMs.toNat + (s.formTimeout.toNat <<< 16) + (s.bcastTimeout.toNat <<< 32)

def linkWord (d : Device) (off : Nat) : Nat :=
  let s := d.set
  if off < 0x800 then portWord (d.port (off / 256)) (off % 256)
  else if 0x1000 ≤ off && off < 0x1400 then
    (List.range 8).foldl (fun a j => a + (routeEntry s.dimsActive (ownNode d) (off - 0x1000 + j) <<< (8 * j))) 0
  else
    match off with
    | 0x800 => setStatusWord d
    | 0x808 => s.rank.toNat + (s.epochReq.toNat <<< 16) + (s.usedPorts.toNat <<< 24)
    | 0x810 => s.dims.toNat
    | 0x818 => lnkCfg s
    | 0x820 => s.stale.toNat
    | 0x828 => s.lostNode.toNat + (s.lostCause.toNat <<< 10) + (s.lostValid.toNat <<< 11)
    | _ => 0

def linkClear (off : Nat) (d : Device) : Device :=
  if off < 0x800 then d.updPort (off / 256) (portClear (off % 256))
  else if off = 0x820 then { d with set := { d.set with stale := 0 } }
  else d

/-! ### Boot and loading (Table 14.11) -/

def bootWord (b : Boot) (off : Nat) : Nat :=
  match off with
  | 0x000 => b.image.toNat + (bit01 b.fellBack <<< 2) + (bit01 b.recovery <<< 3) + (b.lastError.toNat <<< 4) + (b.attempts.toNat <<< 16)
  | 0x008 => b.checked.toNat
  | 0x010 => b.rejectCheck.toNat + (b.rejectRegion.toNat <<< 32)
  | _ => 0

def bootClear (off : Nat) (b : Boot) : Boot :=
  match off with
  | 0x008 => { b with checked := 0 }
  | 0x010 => { b with rejectCheck := 0, rejectRegion := 0 }
  | _ => b

/-! ### REG_READ (R432) -/

/-- A core whose registers read as zero: offline, or of a quadrant turned off. -/
def coreDark (d : Device) (c : Nat) : Bool := d.sched.offline.getLsbD c || d.power.quadrantOff.getLsbD (c / 4)

/-- One 64-bit register of a block. -/
def regWord (d : Device) (block uid off : Nat) : Nat :=
  let c := uidCore uid
  match block with
  | 0 => if coreDark d c then 0 else fabWord d c off
  | 1 => if coreDark d c then 0 else cuWord d (uidUnit uid) off
  | 2 => if coreDark d c then 0 else muWord d (uidUnit uid) off
  | 3 => if coreDark d c then 0 else streamWord d c off
  | 4 => if d.power.quadrantOff.getLsbD (c / 4) then 0 else quadWord d (c / 4) off
  | 5 => hubWord d off
  | 6 => tierWord d.tiers off
  | 7 => trainWord d.training off
  | 8 => schedRegWord d off
  | 9 => linkWord d off
  | _ => bootWord d.boot off

/-- The clearing read of an RC register (R18). -/
def regClear (block uid off : Nat) (d : Device) : Device :=
  let c := uidCore uid
  if block < 4 && coreDark d c then d
  else
    match block with
    | 0 =>
      if off = 0x208 then d.updSeq c (fun q => { q with retired := 0 })
      else d.updCore c (fun x => { x with fab := fabClear off x.fab })
    | 1 => d.updUnit (uidUnit uid) (cuClear off)
    | 2 => d.updUnit (uidUnit uid) (muClear off)
    | 3 => d.updCore c (streamClear off)
    | 4 => if d.power.quadrantOff.getLsbD (c / 4) then d else d.updQuad (c / 4) (quadClear off)
    | 5 => hubClear off d
    | 6 => { d with tiers := tierClear off d.tiers }
    | 7 => { d with training := trainClear off d.training }
    | 8 => { d with sched := schedClear off d.sched }
    | 9 => linkClear off d
    | _ => { d with boot := bootClear off d.boot }

/-- `n` registers from an offset, cleared as they are read when asked. -/
def readRegs (block uid : Nat) (clear : Bool) : Nat → Nat → Device → List Nat × Device
  | 0, _, d => ([], d)
  | n + 1, off, d =>
    let v := regWord d block uid off
    let d := if clear then regClear block uid off d else d
    let r := readRegs block uid clear n (off + 8) d
    (v :: r.1, r.2)

end Sys2Proof.Machine
end

