-- ==== Sys2Proof/Machine/HostPort.lean ====
section
/-!
DEFINITION. Machine/HostPort.lean: what the host reaches by itself: BAR0 reads and writes, doorbells and
acknowledges, the BAR2 window and the ingest windows (R411 to R422, R435 to R443).
-/
namespace Sys2Proof.Machine

/-- R412, R546: in D3hot, before the module is up and until the host has enabled them, the BARs are not decoded. -/
def barsOpen (d : Device) : Bool := d.boot.powered && d.host.memEnabled && !d.host.d3 && !d.boot.perstLow

/-- R543: MOD_READY is released high only while RESET_STATUS.SERVICE is 0b10, and driven low at every other time. -/
def modReady (d : Device) : Bool := d.boot.service = 2

/-! ### Mailbox registers (Table 13.4) -/

def MbxState.code : MbxState → Nat
  | .idle => 0
  | .accepted => 1
  | .running => 2
  | .partial_ => 3
  | .done => 4
  | .failed => 5
  | .refused => 6
  | .preempted => 7
  | .waitingPresence => 8

/-- R359: queue position of a waiting run command. -/
def queuePosition (d : Device) (m : Nat) : Nat :=
  1 + ((List.range 16).filter (fun k => (d.mb k).waitsToRun && runsBefore (d.mb k) (d.mb m))).length

/-- PROGRESS (R420). -/
def progressOf (d : Device) (m : Nat) : Nat :=
  let x := d.mb m
  match x.state with
  | .accepted => if isRunOp x.opcode then queuePosition d m else 0
  | .running | .partial_ | .done | .failed | .preempted => x.progress.toNat
  | _ => 0

/-- MBX_STATUS. -/
def mbxStatus (d : Device) (m : Nat) : Nat :=
  let x := d.mb m
  x.seq.toNat + (progressOf d m <<< 16) + (bit01 x.fallback <<< 48) + (bit01 x.digestMismatch <<< 49) + (bit01 x.degraded <<< 50)
    + (bit01 x.staleDiscard <<< 51) + (x.error.toNat <<< 52) + (x.state.code <<< 60)

/-! ### Reads of BAR0 (Table 13.2) -/

/-- FILL_BYTES: bytes present from 0 in a bank. -/
def fillBytes (b : IngestBank) : Nat := 16 * lowestGap 0 (sortNats b.present)

def Ingest.bank (w : Ingest) (k : Bool) : IngestBank := if k then w.bank1 else w.bank0

def Ingest.setBank (w : Ingest) (k : Bool) (b : IngestBank) : Ingest := if k then { w with bank1 := b } else { w with bank0 := b }

/-- INGEST_STATUS (Table 13.11). -/
def ingestStatus (w : Ingest) : Nat :=
  let fill := match w.filling with | some k => fillBytes (w.bank k) | none => 0
  bit01 w.bound.isSome + 2 * bit01 w.filling.isSome + 4 * bit01 w.overrun + 8 * bit01 w.fillBank + (fill <<< 16)

def mailboxWord (d : Device) (m o : Nat) : Nat :=
  if o < 0x1000 then fld (d.mb m).area o 8
  else if 0x2000 ≤ o && o < 0x4000 then fld (d.mb m).reply (o - 0x2000) 8
  else
    match o with
    | 0x1000 => mbxStatus d m
    | 0x1018 => (d.mb m).ignored.toNat
    | _ => 0

def ingestWord (w : Ingest) (o : Nat) : Nat :=
  match o with
  | 0x10000 => ingestStatus w
  | 0x10010 => w.threshold.toNat
  | 0x10018 => w.packets.toNat
  | 0x10020 => w.late.toNat
  | _ => 0

/-- Table 13.13, and RESET_STATUS after it (R553). -/
def strapBlockWord (d : Device) (o : Nat) : Nat :=
  match o with
  | 0x00 => strapWord d
  | 0x08 => d.host.linkSpeed.toNat + (d.host.linkWidth.toNat <<< 4) + (bit01 d.host.linkFlit <<< 9)
  | 0x10 => presenceWord d
  | 0x18 => d.host.irqCause.toNat
  | 0x20 => d.host.bar2Base.toNat
  | 0x28 => d.host.bar2Reads.toNat + (d.host.bar2Writes.toNat <<< 32)
  | 0x30 => resetWord d
  | _ => 0

/-- The 64-bit word at an aligned BAR0 offset. -/
def bar0Word (d : Device) (a : Nat) : Nat :=
  if a < 0x100000 then mailboxWord d (a / 0x10000) (a % 0x10000)
  else if a < 0x110000 then fld d.host.mirror (a - 0x100000) 8
  else if 0x200000 ≤ a && a < 0x300000 then
    ingestWord (Tab.getD d.host.ingest ((a - 0x200000) / 0x20000) {}) ((a - 0x200000) % 0x20000)
  else if 0x300000 ≤ a && a < 0x301000 then strapBlockWord d (a - 0x300000)
  else if 0x310000 ≤ a && a < 0x310040 then fld d.host.msixTable (a - 0x310000) 8
  else if a = 0x311000 then d.host.msixPending.toNat
  else 0

/-- Clear the bits of a counter that a read covers: `lo`, `hi` say which halves of its register it covers. -/
def clearHalves {w : Nat} (lo hi : Bool) (v : BitVec w) : BitVec w :=
  BitVec.ofNat w ((if lo then 0 else bitsOf v.toNat 0 32) + ((if hi then 0 else v.toNat >>> 32) <<< 32))

def updIngest (n : Nat) (f : Ingest → Ingest) (d : Device) : Device :=
  { d with host := { d.host with ingest := Tab.set d.host.ingest n (f (Tab.getD d.host.ingest n {})) } }

/-- The RC registers of BAR0: what a read of one word clears, by half. -/
def bar0Clear (a : Nat) (lo hi : Bool) (d : Device) : Device :=
  if a < 0x100000 then
    if a % 0x10000 = 0x1018 then d.updMb (a / 0x10000) (fun x => { x with ignored := clearHalves lo hi x.ignored }) else d
  else if 0x200000 ≤ a && a < 0x300000 then
    match (a - 0x200000) % 0x20000 with
    | 0x10018 => updIngest ((a - 0x200000) / 0x20000) (fun w => { w with packets := clearHalves lo hi w.packets }) d
    | 0x10020 => updIngest ((a - 0x200000) / 0x20000) (fun w => { w with late := clearHalves lo hi w.late }) d
    | _ => d
  else if a = 0x300028 then
    let d := if lo then { d with host := { d.host with bar2Reads := 0 } } else d
    if hi then { d with host := { d.host with bar2Writes := 0 } } else d
  else if a = 0x300030 then
    let d := if lo then { d with boot := { d.boot with perstCount := 0 } } else d
    if hi then { d with boot := { d.boot with flrCount := 0, warmCount := 0 } } else d
  else d

/-- The words that an access covers: word address, low half covered, high half covered. -/
def coveredWords (off len : Nat) : List (Nat × Bool × Bool) :=
  if len = 4 then [(off / 8 * 8, decide (off % 8 = 0), decide (off % 8 = 4))]
  else (List.range (len / 8)).map (fun i => (off + 8 * i, true, true))

/-- A read of BAR0: the data, and what it clears. -/
def rcRead (off len : Nat) (d : Device) : Device :=
  if !barsOpen d then d
  else
    let ws := coveredWords off len
    let v := packNat 64 (ws.map (fun w => bar0Word d w.1)) >>> (8 * (off % 8))
    let d := ws.foldl (fun d w => bar0Clear w.1 w.2.1 w.2.2 d) d
    { d with host := { d.host with lastRead := natToBytes len v, poisoned := false } }

/-! ### Configuration space (R411, R412) -/

/-- Configuration space answers, also in D3hot. -/
def configOpen (d : Device) : Bool := d.boot.powered && !d.boot.perstLow

/-- A word of configuration space (Table 13.1; log entry 43). -/
def configWord (d : Device) (r : ConfigReg) : Nat :=
  match r with
  | .identity => 0x91001F3C
  | .subsystem => 0x00011F3C
  | .classCode => 0x12000000 + Config.revision.toNat
  | .bar2Size => Nat.log2 (d.host.bar2Pages / 16)
  | .msixControl => 3 + (bit01 d.host.msixMask <<< 14) + (bit01 d.host.msixEnabled <<< 15)
  | .command => 2 * bit01 d.host.memEnabled
  | .deviceControl => (d.host.payloadSize <<< 5) + (d.host.readSize <<< 12)
  | .serialLow => d.mgmt.serial.toNat % 2 ^ 32
  | .serialHigh => d.mgmt.serial.toNat >>> 32

/-- A read of configuration space. -/
def configRead (r : ConfigReg) (d : Device) : Device :=
  if configOpen d then { d with host := { d.host with lastRead := natToBytes 4 (configWord d r), poisoned := false } } else d

/-- RC_READ: a host read of a register, and what it clears. -/
def hostRead (r : HostReg) (len : Nat) : Device → Device :=
  match r with
  | .bar0 off => rcRead off.toNat len
  | .config c => configRead c

def execRcRead (reg : HostReg) (len : Nat) (s : State) : Host.Outcome State Fault Refusal :=
  if Instr.wf (.rcRead reg len) then .next (s.upd (hostRead reg len)) else .fault .illFormed

/-! ### Doorbells and acknowledges (R416, R417, R419) -/

/-- Argument bytes of an opcode (Table 13.7). -/
def argSize (op : Nat) : Option Nat :=
  match op with
  | 0x01 => some 0
  | 0x10 => some 56
  | 0x11 => some 8
  | 0x12 => some 136
  | 0x13 => some 176
  | 0x14 => some 8
  | 0x15 => some 8
  | 0x16 => some 8
  | 0x17 => some 8
  | 0x18 => some 32
  | 0x20 => some 32
  | 0x21 => some 16
  | 0x22 => some 8
  | 0x23 => some 16
  | 0x24 => some 8
  | 0x30 => some 24
  | 0x31 => some 24
  | 0x40 => some 24
  | 0x41 => some 8
  | 0x42 => some 8
  | 0x43 => some 8
  | 0x50 => some 0
  | 0x51 => some 8
  | 0x60 => some 16
  | 0x70 => some 16
  | 0x71 => some 8
  | 0x72 => some 16
  | 0x73 => some 8
  | 0x74 => some 0
  | 0x75 => some 16
  | 0x76 => some 48
  | 0x77 => some 8
  | _ => none

/-- The commands that the boot ROM service answers (R471). -/
def bootRomOp (op : Nat) : Bool := op = 0x43 || op = 0x60 || op = 0x70 || op = 0x71 || op = 0x72

/-- The first check of R417: the header. -/
def headerOk (d : Device) (seq : Nat) (x : Mailbox) : Bool :=
  let op := fld x.copy 0 2
  argSize op = some (fld x.copy 4 2) && fld x.copy 2 2 = seq && fld x.copy 7 9 = 0
    && (d.boot.service != 1 || bootRomOp op)

/-- A doorbell write whose low half is covered; MBX_STATUS.SEQ echoes the header's SEQ (Table 13.5). -/
def doorbell (m : Nat) (seq : BitVec 16) (d : Device) : Device :=
  let x := d.mb m
  if d.boot.service = 0 then d
  else if x.state != .idle || x.rung then d.updMb m (fun x => { x with ignored := satAdd x.ignored 1 })
  else
    let n := min (fld x.area 4 2) 4080
    let d := d.updMb m (fun x =>
      { x with seq := BitVec.ofNat 16 (fld x.area 2 2), reply := [], rung := true, job := .none, note := 0, milestones := [], atRisk := false, applying := false,
               bcast := none, progress := 0, copy := Ram.blit ([] : Memory) 0 (16 + n) (fld x.area 0 (16 + n)) })
    if headerOk d seq.toNat (d.mb m) then d else endRefused m 0x01 d

def execMbxDoorbell (m : Fin 16) (acc : MbxAccess) (v : BitVec 64) (s : State) : Host.Outcome State Fault Refusal :=
  .next (s.upd (fun d => if acc = .high || !barsOpen d then d else doorbell m.val (v.setWidth 16) d))

/-- An acknowledge whose low half is covered. -/
def seqAck (m : Nat) (seq : BitVec 16) (d : Device) : Device :=
  let x := d.mb m
  if x.seq = seq && (x.state = .done || x.state = .failed || x.state = .refused) then
    d.updMb m (fun x => { x with state := .idle, error := 0, fallback := false, digestMismatch := false, degraded := false,
                                 staleDiscard := false, progress := 0 })
  else d.updMb m (fun x => { x with ignored := satAdd x.ignored 1 })

def execMbxSeqAck (m : Fin 16) (acc : MbxAccess) (v : BitVec 64) (s : State) : Host.Outcome State Fault Refusal :=
  .next (s.upd (fun d => if acc = .high || !barsOpen d || d.boot.service = 0 then d else seqAck m.val (v.setWidth 16) d))

/-! ### Ingest (R437 to R439) -/

/-- A run command ends FAILED: the stage it is at halts; a pre-empted section is unloaded, as at CANCEL (R427; log
entry 69, DESIGN CHOICE). -/
def failBound (m : Nat) (code : BitVec 8) (d : Device) : Device :=
  match (d.mb m).job.runs.bind d.section? with
  | some sec =>
    if sec.state = .preempted then endFailed m code (unloadSection sec.handle (releaseStages m d))
    else haltSection sec.handle code d
  | none => endFailed m code d

/-- R439: a write that is dropped sets OVERRUN; on a bound window the command ends FAILED. -/
def overrun (n : Nat) (d : Device) : Device :=
  let d := updIngest n (fun w => { w with overrun := true }) d
  match (Tab.getD d.host.ingest n {}).bound with
  | some b => if (d.mb b.mbx).state.live then failBound b.mbx 0x02 (reply b.mbx 0 1 n d) else d
  | none => d

def countLate (n k : Nat) (d : Device) : Device := updIngest n (fun w => { w with late := satAdd w.late k }) d

/-- Bytes [lo, lo + len) of one granule are written. -/
def ingestGranule (n g lo len v : Nat) (d : Device) : Device :=
  let w := Tab.getD d.host.ingest n {}
  match w.bound, w.filling with
  | some _, some k =>
    let b := w.bank k
    if g < 32 * b.released then countLate n 1 d
    else
      let old := (Ram.read b.granules g).toNat
      let v := old - (bitsOf old (8 * lo) (8 * len) <<< (8 * lo)) + ((v % 2 ^ (8 * len)) <<< (8 * lo))
      let b := { b with granules := Ram.write b.granules g (BitVec.ofNat 128 v)
                        present := if b.present.contains g then b.present else g :: b.present }
      updIngest n (fun w => w.setBank k b) d
  | _, _ => overrun n d

/-- INGEST_DATA: one granule. -/
def execIngestData (win : Fin 8) (off : BitVec 16) (v : BitVec 128) (s : State) : Host.Outcome State Fault Refusal :=
  if Instr.wf (.ingestData win off v) then
    .next (s.upd (fun d => if barsOpen d then ingestGranule win.val (off.toNat / 16) 0 16 v.toNat d else d))
  else .fault .illFormed

/-- A bank has fully drained: it fills again when no bank fills. -/
def bankDrained (k : Bool) (w : Ingest) : Ingest :=
  let w := w.setBank k {}
  if w.filling.isNone then { w with filling := some k, fillBank := k } else w

/-- The packet in a bank ends at a length: late granules, the last granule's tail, the next bank.  A packet all of whose
words were released before its end is fully released now; no word of it is left for TILE_END (log entry 69, DESIGN
CHOICE). -/
def endPacket (n : Nat) (k : Bool) (len : Nat) (d : Device) : Device :=
  let b := (Tab.getD d.host.ingest n {}).bank k
  let last := (len + 15) / 16
  let missing := ((List.range last).filter (fun g => !b.present.contains g)).length
  let beyond := (b.present.filter (fun g => decide (last ≤ g))).length
  let tail := bitsOf (Ram.read b.granules (last - 1)).toNat 0 (8 * (len - 16 * (last - 1)))
  let cells := Ram.write (b.granules.filter (fun e => decide (e.1 < last))) (last - 1) (BitVec.ofNat 128 tail)
  let b := { b with granules := cells, length := some len }
  let d := countLate n (missing + beyond) (updIngest n (fun w => w.setBank k b) d)
  updIngest n (fun w =>
    let free := w.bank (!k) = {}
    let w := { w with filling := if free then some (!k) else none, fillBank := if free then !k else w.fillBank }
    if len ≤ 512 * b.released then bankDrained k { w with packets := satAdd w.packets 1 } else w) d

/-- INGEST_END. -/
def ingestEnd (n len : Nat) (d : Device) : Device :=
  let w := Tab.getD d.host.ingest n {}
  match w.bound, w.filling with
  | some _, some k => if len = 0 || 65536 < len then overrun n d else endPacket n k len d
  | _, _ => overrun n d

def execIngestEnd (win : Fin 8) (v : BitVec 64) (s : State) : Host.Outcome State Fault Refusal :=
  .next (s.upd (fun d => if barsOpen d then ingestEnd win.val (bitsOf v.toNat 0 17) d else d))

/-- The bank whose packet comes first. -/
def drainBank (w : Ingest) : Bool :=
  match w.filling with
  | some k => if (w.bank (!k)).length.isSome then !k else k
  | none => !w.fillBank

/-- THRESHOLD in words (Table 13.11). -/
def thresholdWords (w : Ingest) : Nat := max 1 (min 128 w.threshold.toNat)

/-- The next word of a bank may be released (R438); before the end of the packet a word waits until a granule
beyond it shows that it is not the last. -/
def wordReady (w : Ingest) (b : IngestBank) : Bool :=
  match b.length with
  | some len => decide (512 * b.released < len)
  | none =>
    (List.range 32).all (fun i => b.present.contains (32 * b.released + i))
      && (List.range (32 * thresholdWords w)).all (fun g => b.present.contains g)
      && b.present.any (fun g => decide (32 * (b.released + 1) ≤ g))

/-- The token of a word (R438). -/
def ingestToken (bind : IngestBind) (b : IngestBank) : Token :=
  let v := Ram.slice b.granules (32 * b.released) 32
  match b.length with
  | some len =>
    let left := len - 512 * b.released
    ⟨BitVec.ofNat 4096 v, mkTag bind.ctx (decide (left ≤ 512)) (min 512 left) 2 bind.hchan⟩
  | none => ⟨BitVec.ofNat 4096 v, mkTag bind.ctx false 512 2 bind.hchan⟩

/-- INGEST_WORD_RELEASE. -/
def ingestRelease (n : Nat) (d : Device) : Device :=
  let w := Tab.getD d.host.ingest n {}
  match w.bound with
  | none => d
  | some bind =>
    let k := drainBank w
    let b := w.bank k
    if wordReady w b && (d.core bind.core).section_ = some bind.handle && tapReady d bind.core bind.tap bind.hchan bind.ctx then
      let d := tapSend bind.core bind.tap (ingestToken bind b) d
      let b := { b with released := b.released + 1 }
      match b.length with
      | some len =>
        if len ≤ 512 * b.released then
          updIngest n (fun w => bankDrained k { w with packets := satAdd w.packets 1 }) d
        else updIngest n (fun w => w.setBank k b) d
      | none => updIngest n (fun w => w.setBank k b) d
    else d

def execIngestWordRelease (win : Fin 8) (s : State) : Host.Outcome State Fault Refusal := .next (s.upd (ingestRelease win.val))

/-! ### Writes of BAR0 -/

/-- R442: a pending vector that is no longer masked is sent. -/
def releaseVectors (h : HostSide) : HostSide :=
  (List.range 4).foldl (fun h v =>
    if h.msixPending.getLsbD v && !vectorMasked h v then sendVector { h with msixPending := setBit h.msixPending v false } v else h) h

/-- A write of the bytes of one word of a register: `v` is the word's new bytes, `lo` and `hi` the halves covered. -/
def bar0WriteWord (a : Nat) (lo hi : Bool) (v : Nat) (d : Device) : Device :=
  if a < 0x100000 then
    let m := a / 0x10000
    match a % 0x10000 with
    | 0x1008 => if lo then doorbell m (BitVec.ofNat 16 v) d else d
    | 0x1010 => if lo && d.boot.service != 0 then seqAck m (BitVec.ofNat 16 v) d else d
    | _ => d
  else if 0x200000 ≤ a && a < 0x300000 then
    let n := (a - 0x200000) / 0x20000
    match (a - 0x200000) % 0x20000 with
    | 0x10000 => if lo && bitOf v 2 then updIngest n (fun w => { w with overrun := false }) d else d
    | 0x10008 => if lo then ingestEnd n (bitsOf v 0 17) d else d
    | 0x10010 => if lo then updIngest n (fun w => { w with threshold := BitVec.ofNat 8 v }) d else d
    | _ => d
  else
    match a with
    | 0x300018 => if lo then { d with host := { d.host with irqCause := d.host.irqCause &&& ~~~ (BitVec.ofNat 4 v) } } else d
    | 0x300020 =>
      if lo then { d with host := { d.host with bar2Base := BitVec.ofNat 24 (bitsOf v 0 24 / d.host.bar2Pages * d.host.bar2Pages) } } else d
    | _ => if hi then d else d

/-- The granules that a write to a data aperture covers. -/
def ingestBytes (n off len v : Nat) (d : Device) : Device :=
  if len < 16 then ingestGranule n (off / 16) (off % 16) len v d
  else (List.range (len / 16)).foldl (fun d i => ingestGranule n (off / 16 + i) 0 16 (v >>> (128 * i)) d) d

/-- A write of `len` bytes to BAR0. -/
def registerWrite (off len v : Nat) (d : Device) : Device :=
  if !barsOpen d then d
  else if off < 0x100000 && off % 0x10000 < 0x1000 then
    d.updMb (off / 0x10000) (fun x => { x with area := Ram.blit x.area (off % 0x10000) len v })
  else if 0x200000 ≤ off && off < 0x300000 && off % 0x20000 < 0x10000 then
    ingestBytes ((off - 0x200000) / 0x20000) (off % 0x20000) len v d
  else if 0x310000 ≤ off && off < 0x310040 then
    { d with host := releaseVectors { d.host with msixTable := Ram.blit d.host.msixTable (off - 0x310000) len v } }
  else
    ((coveredWords off len).zipIdx).foldl (fun d w =>
      bar0WriteWord w.1.1 w.1.2.1 w.1.2.2 (v >>> (64 * w.2)) d) d

/-- A write of configuration space: the size of BAR2, from 1 GiB to 1 TiB, and the MSI-X control bits; the rest is
read-only. -/
def configWrite (r : ConfigReg) (v : Nat) (d : Device) : Device :=
  if !configOpen d then d
  else
    match r with
    | .bar2Size =>
      if 10 ≤ v && v ≤ 20 then
        let n := 16 * 2 ^ v
        { d with host := { d.host with bar2Pages := n, bar2Base := BitVec.ofNat 24 (d.host.bar2Base.toNat / n * n) } }
      else d
    | .msixControl => { d with host := releaseVectors { d.host with msixMask := bitOf v 14, msixEnabled := bitOf v 15 } }
    | .command => { d with host := { d.host with memEnabled := bitOf v 1 } }
    | .deviceControl =>
      { d with host := { d.host with payloadSize := if bitsOf v 5 3 ≤ 2 then bitsOf v 5 3 else d.host.payloadSize
                                     readSize := if bitsOf v 12 3 ≤ 5 then bitsOf v 12 3 else d.host.readSize } }
    | _ => d

/-- REGISTER_WRITE: a host write of a register. -/
def hostWrite (r : HostReg) (len v : Nat) : Device → Device :=
  match r with
  | .bar0 off => registerWrite off.toNat len v
  | .config c => configWrite c v

def execRegisterWrite (reg : HostReg) (len : Nat) (data : BitVec 512) (s : State) : Host.Outcome State Fault Refusal :=
  if Instr.wf (.registerWrite reg len data) then
    .next (s.upd (hostWrite reg len (data.toNat % 2 ^ (8 * len))))
  else .fault .illFormed

/-! ### BAR2 (R436) -/

/-- The pieces of an access by page: (page, offset in it, bytes, offset in the access). -/
def pagePieces : Nat → Nat → Nat → Nat → List (Nat × Nat × Nat × Nat)
  | 0, _, _, _ => []
  | fuel + 1, a, n, at_ =>
    if n = 0 then []
    else
      let k := min n (65536 - a % 65536)
      (a / 65536, a % 65536, k, at_) :: pagePieces fuel (a + k) (n - k) (at_ + k)

/-- Logical address of a BAR2 offset. -/
def bar2Addr (d : Device) (off : Nat) : Nat := d.host.bar2Base.toNat * 65536 + off

/-- BAR2_READ. -/
def bar2Read (off len : Nat) (err : TierErr) (d : Device) : Device :=
  if !barsOpen d || d.host.bar2Pages * 65536 < off + len then d
  else
    let d := tierFound none err (bar2Addr d off) len d
    let ps := pagePieces 2 (bar2Addr d off) len 0
    let bad := ps.any (fun p => !resValid (d.res p.1))
    let ep := ps.any (fun p => resPoison (d.res p.1))
    let bytes := ps.flatMap (fun p =>
      if !resValid (d.res p.1) then List.replicate p.2.2.1 0xFF#8
      else if resPoison (d.res p.1) then
        (List.range p.2.2.1).map (fun i => Config.freeRead d.host.bar2Reads.toNat (65536 * p.1 + p.2.1 + i))
      else natToBytes p.2.2.1 (readPage d p.1 p.2.1 p.2.2.1))
    { d with host := { d.host with
        lastRead := bytes, poisoned := ep, bar2Reads := if bad then satAdd d.host.bar2Reads 1 else d.host.bar2Reads } }

def execBar2Read (off : BitVec 40) (len : Nat) (err : TierErr) (s : State) : Host.Outcome State Fault Refusal :=
  if Instr.wf (.bar2Read off len err) then .next (s.upd (bar2Read off.toNat len err)) else .fault .illFormed

/-- BAR2_WRITE: a write to an invalid or poisoned page is dropped and counted; one of a part of an entry reads it. -/
def bar2Write (off : Nat) (bytes : List (BitVec 8)) (err : TierErr) (d : Device) : Device :=
  if !barsOpen d || d.host.bar2Pages * 65536 < off + bytes.length then d
  else
    let d := writeFound none err (bar2Addr d off) bytes.length d
    let ps := pagePieces 2 (bar2Addr d off) bytes.length 0
    let bad := ps.any (fun p => !resValid (d.res p.1) || resPoison (d.res p.1))
    let d := if bad then { d with host := { d.host with bar2Writes := satAdd d.host.bar2Writes 1 } } else d
    ps.foldl (fun d p =>
      if !resValid (d.res p.1) || resPoison (d.res p.1) then d
      else writePage p.1 p.2.1 p.2.2.1 (bytesToNat ((bytes.drop p.2.2.2).take p.2.2.1)) d) d

def execBar2Write (off : BitVec 40) (bytes : List Byte) (s : State) (err : TierErr := none) : Host.Outcome State Fault Refusal :=
  if Instr.wf (.bar2Write off bytes err) then .next (s.upd (bar2Write off.toNat bytes err)) else .fault .illFormed

/-- POWER_STATE_CHANGE (R412). -/
def execPowerStateChange (d3 : Bool) (s : State) : Host.Outcome State Fault Refusal :=
  .next (s.upd (fun d => if d.boot.powered then { d with host := releaseVectors { d.host with d3 := d3 } } else d))

end Sys2Proof.Machine
end

