-- ==== Sys2Proof/Machine/WordChecks.lean ====
section
/-!
DEFINITION. Machine/WordChecks.lean: the loader's checks of the operation words of one context image (R69, R71, R102 to
R113, R119, R125, R139 to R168, R206 to R212, R251, R253, R557).
-/
namespace Sys2Proof.Machine

/-- What the checks of one image look up: the package, the image, its context and whether its unit is a CU. -/
structure ImageView where
  pkg : Memory
  image : Nat
  ctx : Ctx
  cu : Bool
deriving DecidableEq, Repr

/-- The context of an image as the package carries it. -/
def imageCtx (m : Memory) (i : Nat) : Ctx :=
  [0, 1, 2, 3].foldl (fun c p => setPart p (fld m (imgPart m i p) 4096) c) {}

def imageView (m : Memory) (i : Nat) : ImageView := { pkg := m, image := i, ctx := imageCtx m i, cu := imgLcol m i % 2 = 1 }

/-- A constant slot that a RELOC record targets (R274). -/
def relocSlot (v : ImageView) (slot : Nat) : Bool :=
  (List.range (secCount v.pkg 0xB)).any (fun r =>
    let w := fld v.pkg (secAt v.pkg 0xB + 8 * r) 8
    let o := bitsOf w 0 32
    dirKind v.pkg (bitsOf w 32 16) = 5 && o / 4116 = imgFrame v.pkg v.image + 3 && o % 4116 = 16 + 8 * slot)

/-- One tracked entry of the finished-tile queue (R140). -/
structure QueueEntry where
  units : Nat
  fmt : Nat
  scale : Nat
  nw : Nat
deriving DecidableEq, Repr

/-- Where the walk of a context's words stands. -/
structure Walk where
  ok : Bool := true
  /-- open loops, outermost first: index of the LOOP_END, length register, queue at the LOOP_BEGIN -/
  loops : List (Nat × Nat × List QueueEntry) := []
  queue : List QueueEntry := []
  /-- LENGTH of each descriptor by its latest DESC_SET in this image -/
  lens : Tab Nat := []
deriving DecidableEq, Repr

def between (v lo hi : Nat) : Bool := lo ≤ v && v ≤ hi

/-- Bits of the IMM that a word may use: `keep` lists (lowest bit, width). -/
def immClean (w : BitVec 128) (keep : List (Nat × Nat)) : Bool :=
  keep.foldl (fun v k => v - (bitsOf v k.1 k.2 <<< k.1)) (imm w 0 96) = 0

/-- R106 for a tile whose scale field is `field`. -/
def scaleOk (field : Nat) (t : TileShape) : Bool :=
  let block := bitsOf field 0 3
  bitsOf field 5 1 = 0 && block ≤ 5 &&
    (match t.dir with
     | .none => true
     | .acrossCols => t.fmt.scalable && t.cols % t.bs = 0
     | .acrossRows => t.fmt.scalable && t.rows % t.bs = 0
     | .square => t.fmt.scalable && block = 0 && t.rows % 16 = 0 && t.cols % 16 = 0)

/-- R102: a region of `n` units lies in its half. -/
def regionOk (start n : Nat) : Bool := start % 128 + n ≤ 128

/-- R125: a level field names an open loop with a length register, or none. -/
def levelOk (k : Walk) (level : Nat) : Bool :=
  level = 0 || (match k.loops[level - 1]? with | some l => level ≤ 4 && l.2.1 < 8 | none => false)

/-- Fields of Table 2.8. -/
def commonOk (v : ImageView) (w : BitVec 128) : Bool :=
  let src := fun s => s < 4 || s = 8 || s = 0xF
  wordBits w 96 3 = 0 && src (wSrcA w) && src (wSrcB w)
    && (wOp w = 1 || (outPorts w).all (fun p => bitOf v.ctx.outTab.toNat (16 * p + 15)))

/-- Words of the fabric-control range (Table 2.10, R71, R125). No rule rejects a source that is no input port (0x8, 0xF):
such a word passes, and finds no token to wait for, so it waits on (log entry 63, DESIGN CHOICE).  A MOVE of 0 tokens is
outside Table 2.10 and is rejected (log entry 82, DESIGN CHOICE). -/
def fabricOk (v : ImageView) (at_ : Nat) (w : BitVec 128) (k : Walk) : Walk :=
  let good := fun (b : Bool) => { k with ok := k.ok && b }
  match wOp w with
  | 0x00 => good (immClean w [])
  | 0x01 => good (immClean w [(0, 16)] && imm w 0 16 != 0)
  | 0x02 =>
    let last := imm w 32 9
    let reg := imm w 44 4
    let fits := match k.loops.getLast? with | some l => last < l.1 | none => true
    let k := good (immClean w [(0, 32), (32, 9), (44, 4)] && imm w 0 32 != 0 && k.loops.length < 4 && at_ < last
      && wOp (Ram.read v.ctx.words last) = 3 && fits && (reg = 0xF || (reg < 8 && lenDeclared v.pkg reg )))
    { k with loops := k.loops ++ [(last, reg, k.queue)] }
  | 0x03 =>
    match k.loops.getLast? with
    | some l => { good (immClean w [] && l.1 = at_ && l.2.2 = k.queue) with loops := k.loops.dropLast }
    | none => good false
  | 0x04 => good (immClean w [(0, 2)])
  | 0x05 => good (immClean w [])
  | 0x06 => good (immClean w [] && k.queue = [])
  | 0x07 => good (immClean w [])
  | _ => good (immClean w [(0, 16)])

/-! ### The compute unit -/

/-- R105: a pairing of formats. -/
def pairOk (a b : Nat) : Bool :=
  match Fmt.ofCode a, Fmt.ofCode b with
  | some x, some y => a ≤ 9 && b ≤ 9 && x.rate = y.rate && x.isInt = y.isInt
  | _, _ => false

/-- MM_ACC (Table 3.6, R105, R106, R111, R119). -/
def mmOk (w : BitVec 128) (k : Walk) : Bool :=
  let operand := fun s => s < 4 || s = 8
  immClean w [(0, 27), (28, 60)] && operand (wSrcA w) && operand (wSrcB w) && !(wSrcA w < 4 && wSrcA w = wSrcB w)
    && pairOk (imm w 0 4) (imm w 4 4) && mmSplit w ≤ 5 && (imm w 0 4 != 0 || mmSplit w = 0)
    && between (imm w 28 11) 16 1024 && imm w 28 11 % 16 = 0 && between (imm w 39 11) 1 (imm w 28 11)
    && between (imm w 50 7) 1 64 && between (imm w 57 6) 1 (mmNw w)
    && levelOk k (imm w 63 3) && levelOk k (imm w 66 3) && levelOk k (imm w 69 3)
    && scaleOk (imm w 8 6) (mmA w) && scaleOk (imm w 14 6) (mmB w)
    && regionOk (mmRegA w) (mmA w).units && regionOk (mmRegB w) (mmB w).units

/-- ACC_EMIT (Table 3.7, R139). -/
def emitOk (w : BitVec 128) (k : Walk) : Bool :=
  immClean w [(0, 46)] && wSrcA w = 0xF && wSrcB w = 0xF && imm w 0 4 ≤ 0xA && (imm w 0 4 != 0xA || imm w 13 1 = 1)
    && emitSplit w ≤ 5 && scaleOk (imm w 4 6) (emitTile w) && between (imm w 17 7) 1 64 && between (imm w 24 6) 1 (emitNw w)
    && levelOk k (imm w 30 3) && levelOk k (imm w 33 3) && emitDest w != 3
    && (emitDest w != 1 || regionOk (regionAt w 38 45) (emitTile w).units) && (emitDest w != 2 || imm w 12 1 = 0)

/-- Words of the matrix range. -/
def matrixOk (w : BitVec 128) (k : Walk) : Walk :=
  let good := fun (b : Bool) => { k with ok := k.ok && b }
  match wOp w with
  | 0x20 => good (mmOk w k)
  | 0x21 =>
    let k := good (emitOk w k)
    if emitDest w = 2 then
      let q := k.queue ++ [⟨(emitTile w).units, imm w 0 4, imm w 4 6, emitNw w⟩]
      { k with queue := q, ok := k.ok && decide ((q.map (·.units)).sum ≤ 32) }
    else k
  | 0x22 => good (immClean w [(0, 2)] && wSrcA w < 4 && wSrcB w = 0xF)
  | 0x23 => good (immClean w [(0, 1)] && wSrcA w = 0xF && wSrcB w = 0xF)
  | _ => good (immClean w [(0, 16)] && wSrcA w < 4 && wSrcB w = 0xF && between (imm w 0 8) 1 128
      && regionOk (regionAt w 8 15) (imm w 0 8))

/-- The FUNC code of a vector word is not reserved (Tables 4.4 to 4.6, R153, R154, R157, R165, R167). -/
def funcOk (w : BitVec 128) : Bool :=
  let f := vFunc w
  match wOp w with
  | 0x60 => f ≤ 0xD
  | 0x61 => between (f % 16) 6 0xA && !bitOf f 4
  | 0x62 => f ≤ 0xD
  | 0x63 => f % 8 ≤ 4 && bitsOf f 3 2 = 0
  | 0x64 => f % 8 != 7 && bitsOf f 3 2 = 0
  | 0x65 => f ≤ 4
  | 0x66 => f ≤ 2
  | 0x67 => f ≤ 0xB
  | _ => true

/-- The shape conditions of Table 4.5, R156. No section of a package holds an index table, so every table is one that
arrives at run time (log entry 88, DEDUCED). A region or a port may give EVEN and ODD more than 32 columns (log entry 68). -/
def moveOk (v : ImageView) (w : BitVec 128) : Bool :=
  let n := (vValue v.ctx w).toNat
  match vFunc w with
  | 0x6 => vW w % 2 = 0
  | 0xA => between n 1 (vW w - 1)
  | 0xB => n + vW w ≤ 32
  | f => 4 ≤ f || !wPredicated w

/-- One operand: a source is given where it is needed, and its format, scale and region hold (R142, R145 to R147).
`need`: units that stand in the buffer.  An operand that selects the finished-tile queue matches its head entry
whatever the word reads of it (R140, R141), and a moved queue tile has the entry's W columns; one that selects a bank
is FP32 or INT32 (R142) and lies in the bank's 32 columns (R155).  DESIGN CHOICE: an INT32 entry of the queue is read as
a tile by no word (log entry 78); a V_BCAST reads its smaller operand from the leading bytes of an entry (log entry 87); EVEN and ODD of more than 32 columns are accepted from a region or a port (log entry 68). -/
def vOperandOk (w : BitVec 128) (src sel code field start need : Nat) (tile : Option TileShape) (k : Walk) : Bool :=
  (sel = 0 || src = 0xF) && (need = 0 || src != 0xF || sel != 0) && (!inBuffer src || regionOk start need)
    && (match sel with
        | 0 => true
        | 1 => (match k.queue with
          | q :: _ => q.fmt = code && q.nw = vW w && q.scale = field && (wOp w != 0x67 || tile.all (fun t => t.cols = vW w))
          | [] => false)
        | _ => (code = 0 || code = 0xA) && tile.all (fun t => decide (t.cols ≤ 32)))
    && (match tile with
        | none => true
        | some t => 2 ≤ sel || (code ≤ 9 && scaleOk field t))

/-- A vector word (Table 4.3, R140 to R169). DEST of a word without an output tile (V_STATS other than FINAL, V_SMAX INIT)
names nothing, and no value of it is rejected (log entry 77, DESIGN CHOICE). -/
def vectorOk (v : ImageView) (w : BitVec 128) (k : Walk) : Walk :=
  let d := vDesc v.ctx w
  let a := if (vColsA w).isSome then some (vTileA v.ctx w) else none
  let b := if (vShapeB w).isSome then some (vTileB v.ctx w) else none
  let isFinal := wOp w = 0x65 && vFunc w = 4
  let ok :=
    imm w 88 8 = 0 && funcOk w && (wOp w != 0x67 || moveOk v w)
      && imm w 8 4 ≤ 9 && between (imm w 67 7) 1 64 && between (imm w 74 6) 1 (vW w) && levelOk k (imm w 80 3)
      && levelOk k (imm w 83 3) && imm w 86 2 != 3 && (wOp w != 0x62 || imm w 86 2 = 0)
      && bitsOf d.toNat 12 20 = 0 && bitsOf d.toNat 5 1 = 0 && bitsOf d.toNat 11 1 = 0 && !relocSlot v (imm w 61 6)
      && !(vSelA w = 1 && vSelB w = 1)
      && vOperandOk w (wSrcA w) (vSelA w) (imm w 0 4) (bitsOf d.toNat 0 6) (vRegA w) (vUnitsA v.ctx w) a k
      && vOperandOk w (wSrcB w) (vSelB w) (imm w 4 4) (bitsOf d.toNat 6 6) (vRegB w) (vUnitsB v.ctx w) b k
      && (match vOut w with
          | some t => scaleOk (imm w 12 6) t && (vDest w != 2 || (imm w 8 4 = 0 && t.rows = 64))
          | none => true)
      && (wOp w != 0x64 || (vDest w = 0 && imm w 8 4 = 0 && imm w 12 6 = 0 && imm w 86 2 = 0))
      && (!isFinal || (imm w 8 4 = 0 && vDest w = 1))
      && (vRegionsD w).all (fun r => regionOk r.1 r.2)
      && !(wOp w = 0x66 && vFunc w = 1 && (vDest w = 1 || vDest w = 3))
      && (imm w 27 1 = 0 || k.queue != [])
  { k with ok := k.ok && ok, queue := if imm w 27 1 = 1 then k.queue.drop 1 else k.queue }

/-! ### The memory unit -/

/-- Images of the unit of an image. -/
def unitImages (m : Memory) (i : Nat) : List Nat :=
  (List.range (imgCount m)).filter (fun j =>
    imgCore m j = imgCore m i && imgRow m j = imgRow m i && imgLcol m j = imgLcol m i)

/-- LENGTHs that the DESC_SET words of an image give a descriptor. -/
def descSets (m : Memory) (i desc : Nat) : List Nat :=
  let c := imageCtx m i
  (List.range 512).filterMap (fun p =>
    let w := Ram.read c.words p
    if wOp w = 0xA0 && imm w 0 5 = desc then some (bitsOf (Ram.read c.consts (imm w 43 6)).toNat 14 13 + 1) else none)

/-- R207: the descriptor constant of a DESC_SET. -/
def descOk (v : ImageView) (d : BitVec 64) : Bool :=
  let m := v.pkg
  let base := bitsOf d.toNat 0 13
  let last := base + bitsOf d.toNat 14 13
  let map := muClassMap m (imgCore m v.image) (imgRow m v.image) (imgLcol m v.image)
  last ≤ 8191 && bitsOf d.toNat 13 1 = 0 && d.toNat >>> 28 = 0
    && (List.range 64).all (fun g => !(128 * g ≤ last && base < 128 * g + 128) || bitOf map g = bitOf d.toNat 27)
    && last < muUsedSlots m (imgCore m v.image) (imgRow m v.image) (imgLcol m v.image)

/-- An MU word (Table 6.4, R210, R212). -/
def muOk (v : ImageView) (w : BitVec 128) (k : Walk) : Walk :=
  let good := fun (b : Bool) => { k with ok := k.ok && b }
  let desc := imm w 0 5
  let count := imm w 5 16
  let lens := match Tab.find k.lens desc with
    | some n => [n]
    | none => (unitImages v.pkg v.image).flatMap (fun j => descSets v.pkg j desc)
  let known := lens != []
  let adv := imm w 42 1 = 0 || imm w 21 13 = 0
  let none_ := wSrcB w = 0xF
  match wOp w with
  | 0xA0 =>
    let d := Ram.read v.ctx.consts (imm w 43 6)
    let k := good (none_ && wSrcA w = 0xF && immClean w [(0, 5), (43, 6)] && descOk v d)
    { k with lens := Tab.set k.lens desc (bitsOf d.toNat 14 13 + 1) }
  | 0xA1 => good (none_ && wSrcA w < 4 && immClean w [(0, 21)] && count != 0 && known)
  | 0xA2 => good (none_ && wSrcA w = 8 && immClean w [(0, 43)] && count != 0 && known && adv
      && lens.all (fun n => decide (imm w 21 13 + count ≤ n)))
  | 0xA3 => good (none_ && wSrcA w = 8 && immClean w [(0, 34), (42, 1)] && count != 0 && known && adv
      && lens.all (fun n => decide (imm w 21 13 + 16 * count ≤ n)))
  | _ => good (none_ && wSrcA w = 0xF && immClean w [(0, 21)] && count != 0 && known)

/-! ### Decoupling-queue words (R251, R253) -/

/-- STREAM entries of a logical core: descriptor and slot. -/
def ephStreams (m : Memory) (l : Nat) : List (Nat × Nat) :=
  (List.range (ephCount m l)).filterMap (fun i =>
    let v := fld m (ephEntryOff m l i) 32
    if bitsOf v 128 4 = 2 then some (bitsOf v 0 8, bitsOf v 8 4) else none)

/-- A descriptor of a logical core's STREAMS block. -/
def streamDesc (m : Memory) (l desc : Nat) : Nat := fld m (streamsOff m l + 48 * desc) 48

def queueWordOk (v : ImageView) (w : BitVec 128) : Bool :=
  let l := imgCore v.pkg v.image
  let ds := ((ephStreams v.pkg l).filter (fun e => e.2 = imm w 0 4)).map (fun e => streamDesc v.pkg l e.1)
  immClean w [(0, 20)] && imm w 4 16 != 0 && wSrcA w = 0xF && wSrcB w = 0xF && wOutMask w = 0 && ds != []
    && ds.all (fun d => match wOp w with | 0xD0 => !bitOf d 40 | 0xD1 => bitOf d 40 | _ => bitOf d 63)

/-! ### The walk of one context -/

/-- One word. -/
def wordStep (v : ImageView) (k : Walk) (at_ : Nat) : Walk :=
  let w := Ram.read v.ctx.words at_
  let op := wOp w
  let k := { k with ok := k.ok && commonOk v w }
  if op ≤ 8 then fabricOk v at_ w k
  else if between op 0x20 0x24 && v.cu then matrixOk w k
  else if between op 0x60 0x68 && v.cu then vectorOk v w k
  else if between op 0xA0 0xA5 && !v.cu then muOk v w k
  else if between op 0xD0 0xD2 then { k with ok := k.ok && queueWordOk v w }
  else { k with ok := false }

/-- R557: the output channel table. -/
def outTabOk (v : ImageView) : Bool :=
  let m := v.pkg
  let es := [0, 1, 2, 3].map (fun p => bitsOf v.ctx.outTab.toNat (16 * p) 16)
  let used := es.filter (fun e => bitOf e 15)
  let paths := layPaths m ((layouts m).getD (imgLayout m v.image) 0)
  es.all (fun e => bitsOf e 12 3 = 0) && (used.map (fun e => bitsOf e 0 12)).Nodup
    && used.all (fun e => paths.any (fun p =>
      pathChan p = bitsOf e 0 12 && pathSrcKind p = 0 && pathSrcRow p = imgRow m v.image && pathSrcPos p = imgLcol m v.image))

/-- Reserved bytes of parts 2 and 3, routes and patterns of part 2, lane capacities (Table 2.7, R49, R280). -/
def imagePartsOk (v : ImageView) : Bool :=
  let m := v.pkg
  let p2 := imgPart m v.image 2
  let p3 := imgPart m v.image 3
  fld m p2 1792 = 0 && fld m (p2 + 1804) 2292 = 0 && fld m (p3 + 1536) 2560 = 0
    && [0, 1, 2, 3].all (fun p => decide (bitsOf v.ctx.caps.toNat (8 * p) 8 ≤ 16))

/-- Every check of one image's contents. -/
def imageOk (m : Memory) (i : Nat) : Bool :=
  let v := imageView m i
  let k := (List.range 512).foldl (wordStep v) {}
  imagePartsOk v && outTabOk v && k.ok && k.loops = []

end Sys2Proof.Machine
end

