-- ==== Sys2Proof/Machine/PackageChecks.lean ====
section
/-!
DEFINITION. Machine/PackageChecks.lean: the loader's checks of a package, section by section (R49, R59, R65, R247, R257,
R268 to R285, R298, R301, R304 to R311, R322, R325, R348 to R356, R368, R394, R395).
-/
namespace Sys2Proof.Machine

/-- Nothing but the fields `keep` (lowest bit, width) is set. -/
def onlyBits (v : Nat) (keep : List (Nat × Nat)) : Bool :=
  keep.foldl (fun v k => v - (bitsOf v k.1 k.2 <<< k.1)) v = 0

def zeroAt (m : Memory) (off n : Nat) : Bool := fld m off n = 0

/-! ### Header and directory (R268 to R270) -/

/-- Kinds of Table 8.3. -/
def knownKind (k : Nat) : Bool := between k 1 11 || between k 16 19

def requiredKinds : List Nat := [1, 2, 4, 5, 6, 7, 16]

def segBytes (m : Memory) (i : Nat) : Nat := segPages m i * 65536

def pkgHeaderOk (d : Device) (m : Memory) (len : Nat) : Bool :=
  fld m 0 4 = 0x4B50474D && fld m 4 2 = 1 && pkgFlags m / 8 = 0 && bitsOf (pkgFlags m) 0 2 != 3 && fld m 8 8 = len
    && between (pkgSections m) 1 64 && between (pkgCores m) 1 16 && between (pkgClusters m) 1 16
    && fld m 0x14 2 ≤ d.boot.fwMajor.toNat && zeroAt m 0x16 2 && zeroAt m 0x19 7 && zeroAt m 0x38 200
    && 0x100 + 32 * pkgSections m + 256 ≤ len
    && requiredKinds.all (fun k => (dirOf m k).isSome) && bitOf (pkgFlags m) 2 = hasTraining m
    && pkgStatsOffset m % 65536 = 0 && pkgStatsSegment m < segCount m
    && pkgStatsOffset m + 8192 * imgCount m ≤ segBytes m (pkgStatsSegment m)

def dirStop (m : Memory) (i : Nat) : Nat := dirOffset m i + dirLength m i

/-- COUNT against LENGTH, for the section of directory entry `i`. -/
def countOk (m : Memory) (i : Nat) : Bool :=
  let n := dirCount m i
  let len := dirLength m i
  let at_ := dirOffset m i
  match dirKind m i with
  | 1 => n = pkgClusters m + pkgCores m && len = 4 * n
  | 2 => between n 1 64 && len = 16 * n
  | 3 => len = 12 * n
  | 4 => len = 16 * n
  | 5 => len = 4116 * n
  | 6 => n = (layouts m).length && (match (layouts m).getLast? with
      | some o => o + 8 + (2 * laySchedN m o + 7) / 8 * 8 + 8 * layPathN m o = at_ + len
      | none => len = 0)
  | 7 => n = 32 * pkgCores m && len = 16 * n
  | 8 => len = 8 * n
  | 9 => n = pkgCores m && len = 30720 * n
  | 10 => n = 8 && len = 64
  | 11 => len = 8 * n
  | 16 => n = fld m (at_ + 4) 4 && len = 0x440 + 32 * pkgCores m + 32 * n
  | 17 => between n 1 64 && len = 32 * n
  | 18 => n = fld m at_ 2 && between n 1 64
      && len = (64 + 64 * n + 4 * fld m (at_ + 4) 2 + 2 * fld m (at_ + 6) 2 + 7) / 8 * 8
  | _ => n = fld m (at_ + 4) 2 && between n 2 1024 && len = 64 + (n + 3) / 4 * 8 * (1 + fld m (at_ + 6) 1)

def entryOk (m : Memory) (len i : Nat) : Bool :=
  let others := (List.range (pkgSections m)).filter (· != i)
  knownKind (dirKind m i) && dirVersion m i = 1 && dirOffset m i % 8 = 0 && zeroAt m (0x118 + 32 * i) 8
    && 0x100 + 32 * pkgSections m ≤ dirOffset m i && dirStop m i + 256 ≤ len
    && others.all (fun j => dirKind m j != dirKind m i
        && (dirStop m j ≤ dirOffset m i || dirStop m i ≤ dirOffset m j))
    && countOk m i

/-! ### The harness (R59, R65, R277, R281, R285) -/

def cellOf (m : Memory) (l : Nat) : Nat × Nat × Nat := (coreCluster m l, coreX m l, coreY m l)

def coreMapOk (m : Memory) : Bool :=
  let at_ := secAt m 1
  let cores := List.range (pkgCores m)
  (List.range (pkgClusters m)).all (fun c => between (clusterW m c) 1 4 && between (clusterH m c) 1 4 && zeroAt m (at_ + 4 * c + 2) 2)
    && cores.all (fun l => coreCluster m l < pkgClusters m && coreX m l < clusterW m (coreCluster m l)
      && coreY m l < clusterH m (coreCluster m l) && zeroAt m (at_ + 4 * pkgClusters m + 4 * l + 3) 1)
    && (cores.map (cellOf m)).Nodup

/-- The tap of a side at a row and a physical column (Table 7.5). -/
def tapAt (side row pos : Nat) : Nat :=
  match side with | 0 => row | 1 => 8 + row | 2 => 16 + pos | _ => 26 + pos

/-- A tap or an edge lies on its side of the core; a unit has a logical column. -/
def endOk (kind side row pos : Nat) : Bool :=
  match kind with
  | 0 => pos ≤ 7
  | 3 => false
  | _ => match side with
    | 0 => pos = 0
    | 1 => pos = 9
    | 2 => row = 0 && pos ≤ 9
    | _ => row = 7 && pos ≤ 9

def pathOk (p : Nat) : Bool :=
  p >>> 38 = 0 && endOk (pathSrcKind p) (pathSrcSide p) (pathSrcRow p) (pathSrcPos p)
    && (pathSrcKind p != 0 || pathSrcSide p = 0) && endOk (pathDstKind p) (pathDstPort p) (pathDstRow p) (pathDstPos p)
    && (if pathSrcRow p = pathDstRow p then pathCross p = 15 else pathCross p ≤ 9)

/-- Tokens of a channel in one cycle of a layout's schedule. -/
def cycleTokens (m : Memory) (off h : Nat) : Nat :=
  ((laySched m off).map (fun s => if bitsOf s 0 12 = h then bitsOf s 12 3 + 1 else 0)).sum

def layoutOk (m : Memory) (off : Nat) : Bool :=
  let n := laySchedN m off
  let chans := (layPaths m off).map pathChan
  layCore m off < pkgCores m && layCtx m off < 4 && between n 1 1024 && between (layPathN m off) 1 4096
    && zeroAt m (off + 6) 2 && zeroAt m (off + 8 + 2 * n) ((2 * n + 7) / 8 * 8 - 2 * n)
    && (laySched m off).all (fun s => bitOf s 15 && chans.contains (bitsOf s 0 12))
    && (layPaths m off).all pathOk && chans.Nodup && chans.all (fun h => decide (0 < cycleTokens m off h))

/-- The logical core beyond a side of a logical core. -/
def coreBeyond (m : Memory) (l side : Nat) : Option Nat :=
  (List.range (pkgCores m)).find? (fun k => coreCluster m k = coreCluster m l &&
    (match side with
     | 0 => coreX m k + 1 = coreX m l && coreY m k = coreY m l
     | 1 => coreX m k = coreX m l + 1 && coreY m k = coreY m l
     | 2 => coreY m k + 1 = coreY m l && coreX m k = coreX m l
     | _ => coreY m k = coreY m l + 1 && coreX m k = coreX m l))

/-- The facing side. -/
def facing (side : Nat) : Nat := match side with | 0 => 1 | 1 => 0 | 2 => 3 | _ => 2

/-- Edge ends of a path: side, place along the edge; `out`: of its destination. -/
def edgeEnd (p : Nat) (out : Bool) : Option (Nat × Nat) :=
  let place := fun (side row pos : Nat) => (side, if side ≤ 1 then row else pos)
  if out then (if pathDstKind p = 2 then some (place (pathDstPort p) (pathDstRow p) (pathDstPos p)) else none)
  else if pathSrcKind p = 2 then some (place (pathSrcSide p) (pathSrcRow p) (pathSrcPos p)) else none

/-- R277, R65: every edge end of a layout is matched across the edge, with as many tokens a cycle. -/
def edgesOk (m : Memory) (off : Nat) : Bool :=
  (layPaths m off).all (fun p => [false, true].all (fun out =>
    match edgeEnd p out with
    | none => true
    | some (side, at_) =>
      match coreBeyond m (layCore m off) side with
      | none => false
      | some k =>
        (layouts m).any (fun o => layCore m o = k && layCtx m o = layCtx m off
          && cycleTokens m o (pathChan p) = cycleTokens m off (pathChan p)
          && (layPaths m o).any (fun q => pathChan q = pathChan p && edgeEnd q (!out) = some (facing side, at_)))))

/-- R59: the contexts in which a channel has a path. -/
def chanContexts (m : Memory) (h : Nat) : List Nat :=
  ((layouts m).filter (fun o => ((layPaths m o).map pathChan).contains h)).map (layCtx m)

def harnessOk (m : Memory) : Bool :=
  (layouts m).all (layoutOk m) && (layouts m).all (edgesOk m)
    && (layouts m).all (fun o => (layPaths m o).all (fun p => (chanContexts m (pathChan p)).all (· = layCtx m o)))
    && (layouts m).all (fun o => (layoutOverflow m o idColumns).isNone)

/-! ### Segments, affinity, memory units, spill, lengths (R271, R276, R278, R279) -/

def segOk (m : Memory) (i : Nat) : Bool :=
  let a := secAt m 2 + 16 * i
  between (segPages m i) 1 16777216 && segFlags m i / 64 = 0 && zeroAt m (a + 7) 1 && zeroAt m (a + 12) 4
    && (segFixed m i || segBasePage m i = 0) && (!segExisting m i || segFixed m i)
    && (segHome m i = 0xFF || segHome m i < pkgCores m)
    && (!segFixed m i || (segBasePage m i + segPages m i ≤ 16777216
      && (List.range i).all (fun j => !segFixed m j || segBasePage m j + segPages m j ≤ segBasePage m i
        || segBasePage m i + segPages m i ≤ segBasePage m j)))

def affinityOk (m : Memory) : Bool :=
  (List.range (secCount m 3)).all (fun i =>
    let a := secAt m 3 + 12 * i
    fld m a 1 < pkgCores m && fld m (a + 1) 1 < segCount m && zeroAt m (a + 2) 2
      && fld m (a + 4) 4 + fld m (a + 8) 4 ≤ segPages m (fld m (a + 1) 1))
    && (List.range (pkgCores m)).all (fun l => decide ((affinityOf m l).length ≤ 64))

def muDeclOk (m : Memory) : Bool :=
  (List.range (32 * pkgCores m)).all (fun i =>
    fld m (secAt m 7 + 16 * i + 8) 2 ≤ 8192 && zeroAt m (secAt m 7 + 16 * i + 10) 6)

def spillOk (m : Memory) : Bool :=
  let ws := (List.range (secCount m 8)).map (spillWord m)
  ws.all (fun w => bitsOf w 0 4 < pkgCores m && bitsOf w 14 2 = 0 && w >>> 32 = 0 && bitsOf w 16 16 != 0)
    && (ws.map (fun w => bitsOf w 0 14)).Nodup

def lengthsOk (m : Memory) : Bool :=
  (List.range 8).all (fun n =>
    let v := fld m (secAt m 10 + 8 * n) 8
    bitsOf v 49 15 = 0 && (!bitOf v 48 || bitsOf v 0 16 != 0))

/-! ### Images (R49, R280, R350) -/

/-- The Ephemeris entries of a logical core. -/
def ephEntry (m : Memory) (l i : Nat) : Nat := fld m (ephEntryOff m l i) 32

def ephHeader (m : Memory) (l off n : Nat) : Nat := fld m (coreHeader m l + off) n

/-- The two walks of R49: entry indices. -/
def ephWalks (m : Memory) (l : Nat) : List (List Nat) :=
  let n := ephCount m l
  let a := ephHeader m l 2 2
  let b := ephHeader m l 4 2 + 1
  let pro := List.range a
  let cyc := (List.range (b - a)).map (· + a)
  let epi := (List.range (n - b)).map (· + b)
  [pro ++ epi, pro ++ cyc ++ cyc ++ epi]

def entKind (v : Nat) : Nat := bitsOf v 128 4

/-- The images of a reload: (unit 8 × row + column, image), none for an entry that reloads nothing. -/
def reloadImages (v : Nat) : List (Nat × Nat) :=
  if entKind v = 1 && between (bitsOf v 66 2) 1 2 then
    ((List.range 64).filter (bitOf v)).zipIdx.map (fun e => (e.1, bitsOf v 68 19 + e.2))
  else []

/-- Lane capacities of the images that stand in a unit, by port (R49). -/
def capsFit (m : Memory) (images : List Nat) : Bool :=
  (List.range 4).all (fun p =>
    decide ((images.map (fun i => fld m (imgPart m i 2 + 1792 + p) 1)).sum ≤ 16))

/-- The images of a unit's four contexts, key 4 × unit + context. -/
def standing (t : Tab Nat) (u : Nat) : List Nat := (List.range 4).filterMap (fun k => Tab.find t (4 * u + k))

/-- One walk: every combination it leaves fits. -/
def walkCaps (m : Memory) (l : Nat) (order : List Nat) : Bool :=
  let first : Tab Nat := (List.range 256).filterMap (fun k =>
    (firstImage m l (k / 32) (k / 4 % 8) (k % 4)).map (fun i => (k, i)))
  let r := order.foldl (fun (a : Tab Nat × Bool) i =>
    let v := ephEntry m l i
    let im := reloadImages v
    let t := im.foldl (fun t e => Tab.set t (4 * e.1 + bitsOf v 64 2) e.2) a.1
    (t, a.2 && im.all (fun e => capsFit m (standing t e.1))))
    (first, (List.range 64).all (fun u => capsFit m (standing first u)))
  r.2

/-- R280: an image's record, layout and frames. -/
def imageRecordOk (m : Memory) (i : Nat) : Bool :=
  let a := secAt m 4 + 16 * i
  let off := (layouts m).getD (imgLayout m i) 0
  bitsOf (imgWord m i) 12 4 = 0 && zeroAt m (a + 8) 8 && imgCore m i < pkgCores m
    && imgLayout m i < (layouts m).length && layCore m off = imgCore m i && layCtx m off = imgCtx m i
    && imgFrame m i + 4 ≤ secCount m 5
    && (List.range 4).all (fun p =>
      fld m (frameOff m (imgFrame m i + p)) 4 = physAddr (imgCore m i) (imgLcol m i) (imgCtx m i) (4 * imgRow m i + p))

/-- The records of IMAGE_LIST. -/
def imageListOk (m : Memory) : Bool := (List.range (imgCount m)).all (imageRecordOk m)

/-- The contents of IMAGES: the context images, and the lanes of the images that stand together in a unit. -/
def imagesOk (m : Memory) : Bool :=
  (List.range (imgCount m)).all (imageOk m)
    && (List.range (pkgCores m)).all (fun l => (ephWalks m l).all (walkCaps m l))

/-! ### Streams (R247, R257) -/

/-- The RELOC record of a place in a section of a kind: its segment. -/
def relocSegment (m : Memory) (kind off : Nat) : Option Nat :=
  (List.range (secCount m 11)).findSome? (fun r =>
    let w := fld m (secAt m 11 + 8 * r) 8
    if dirKind m (bitsOf w 32 16) = kind && bitsOf w 0 32 = off then some (bitsOf w 48 6) else none)

/-- Taps at which a channel's path enters or leaves a logical core in a context. -/
def chanTaps (m : Memory) (l ctx h : Nat) : List Nat :=
  ((layouts m).filter (fun o => layCore m o = l && layCtx m o = ctx)).flatMap (fun o =>
    ((layPaths m o).filter (fun p => pathChan p = h)).flatMap (fun p =>
      (if pathSrcKind p = 1 then [tapAt (pathSrcSide p) (pathSrcRow p) (pathSrcPos p)] else [])
        ++ (if pathDstKind p = 1 then [tapAt (pathDstPort p) (pathDstRow p) (pathDstPos p)] else [])))

/-- Channels named by a stream-side pattern. -/
def tapPattern (m : Memory) (l tap ctx : Nat) : List Nat :=
  let at_ := streamsOff m l + 12288 + 128 * (4 * tap + ctx)
  (((List.range 64).map (fun e => fld m (at_ + 2 * e) 2)).takeWhile (fun e => bitOf e 15)).map (fun e => bitsOf e 0 12)

def patternsOk (m : Memory) (l : Nat) : Bool :=
  (List.range 36).all (fun t => (List.range 4).all (fun k => (tapPattern m l t k).all (fun h => (chanTaps m l k h).contains t)))

/-- `n` bytes from `a` lie in one fixed segment. -/
def inFixed (m : Memory) (a n : Nat) : Bool :=
  (List.range (segCount m)).any (fun i =>
    segFixed m i && segBasePage m i * 65536 ≤ a && a + n ≤ segBasePage m i * 65536 + segBytes m i)

/-- The counts at MAX lengths. -/
def maxCounts (m : Memory) (v : BitVec 384) : Nat × Nat × Nat :=
  sdCounts ((List.range 8).map (fun n => (n, { value := lenMax m n, grain := lenGrain m n }))) v

/-- R257's last item: the exact entries at MAX lengths. -/
def entriesOk (m : Memory) (l desc : Nat) (v : BitVec 384) : Bool :=
  let c := maxCounts m v
  let seg := relocSegment m 9 (30720 * l + 48 * desc)
  (List.range c.1).all (fun i0 => (List.range c.2.1).all (fun i1 => (List.range c.2.2).all (fun i2 =>
    (List.range (sdTile v)).all (fun e =>
      let a : Int := (sdBase v + 512 * e : Nat) + i0 * sdStride v 0 + i1 * sdStride v 1 + i2 * sdStride v 2
      decide (0 ≤ a) && (match seg with
        | some i => decide (a.toNat + 512 ≤ segBytes m i)
        | none => inFixed m a.toNat 512)))))

/-- The queues of two gangs meet. -/
def gangsMeet (v w : BitVec 384) : Bool :=
  sdStore v = sdStore w && sdFirst v < sdFirst w + sdGang w && sdFirst w < sdFirst v + sdGang v

/-- R257 for one descriptor. -/
def descriptorOk (m : Memory) (l desc : Nat) : Bool :=
  let v := BitVec.ofNat 384 (streamDesc m l desc)
  sdField v 124 4 = 0 && sdField v 242 14 = 0 && sdLenLevel v != 3 && sdBase v % 512 = 0
    && (List.range 3).all (fun i => sdCount v i != 0 && sdStride v i % 512 = 0)
    && (List.range 4).all (fun k => sdField v (276 + 32 * k) 12 = 0)
    && sdFirst v + sdGang v ≤ (if sdStore v then 8 else 16)
    && (if sdStore v then sdTile v ≤ 64 * sdGang v else 5 * sdTile v ≤ 64 * sdGang v)
    && sdCount v 0 * sdCount v 1 * sdCount v 2 < 2 ^ 32 && sdPace v != 0
    && (!sdLenOn v || lenDeclared m (sdLenReg v))
    && (List.range (sdChannels v)).all (fun k =>
      let c := sdChan v k
      (chanTaps m l c.2.2 c.1).contains c.2.1
        && (List.range 36).all (fun t => (List.range 4).all (fun x => x = c.2.2 || !(tapPattern m l t x).contains c.1)))
    && entriesOk m l desc v

/-- R257: every descriptor is checked; a place of the table that is all zero and that no entry starts holds none
(R254: a table has up to 256; log entry 70, DEDUCED). -/
def streamsOk (m : Memory) (l : Nat) : Bool :=
  let es := (ephStreams m l).eraseDups
  patternsOk m l
    && (List.range 256).all (fun i => (streamDesc m l i = 0 && !es.any (fun e => e.1 = i)) || descriptorOk m l i)
    && es.all (fun e => es.all (fun f => e.2 = f.2
      || !gangsMeet (BitVec.ofNat 384 (streamDesc m l e.1)) (BitVec.ofNat 384 (streamDesc m l f.1))))

/-! ### Relocation (R273, R274) -/

/-- Offset of an entry's CH_OPEN address in EPHEMERIS. -/
def isChOpen (v : Nat) : Bool := entKind v = 3 && bitsOf v 0 8 = 0x21

def relocOk (m : Memory) (i : Nat) : Bool :=
  let w := fld m (secAt m 11 + 8 * i) 8
  let o := bitsOf w 0 32
  let t := bitsOf w 32 16
  let s := bitsOf w 48 6
  let k := bitsOf w 54 2
  let v := fld m (dirOffset m t + o) 8
  let base := 0x440 + 32 * pkgCores m
  bitsOf w 56 8 = 0 && k ≤ 1 && t < pkgSections m && s < segCount m && o + 8 ≤ dirLength m t
    && (if k = 0 then bitsOf v 0 40 else v) < segBytes m s
    && (match dirKind m t with
      | 5 => bitsOf (fld m (dirOffset m t + o / 4116 * 4116) 4) 16 2 = 3 && 16 ≤ o % 4116 && o % 4116 < 528
          && (o % 4116 - 16) % 8 = 0
      | 9 => k = 0 && o % 30720 < 12288 && o % 30720 % 48 = 0
      | 16 => k = 0 && base ≤ o && (o - base) % 32 = 24 && isChOpen (fld m (dirOffset m t + o - 24) 32)
      | 18 => k = 1 && (o = 8 || (0x40 ≤ o && o < 0x40 + 64 * groupCount m && o % 64 = 0x18))
      | _ => false)

def relocsOk (m : Memory) : Bool :=
  (List.range (secCount m 11)).all (relocOk m)
    && ((List.range (secCount m 11)).map (fun i => fld m (secAt m 11 + 8 * i) 6)).Nodup

/-! ### The Ephemeris (R298, R301, R304, R306, R309, R311, R348 to R356) -/

/-- Logical cores below the header's count, and taps of Table 7.5. -/
def syncOk (m : Memory) (l : Nat) (v : Nat) : Bool :=
  let op := bitsOf v 0 8
  let bar := barrierEntry m (bitsOf v 8 8)
  let b := bitsOf v 0 128
  if op = 1 || op = 2 then onlyBits b [(0, 22), (31, 33)] && bitsOf v 8 4 < pkgCores m
  else if op = 3 then onlyBits b [(0, 22), (32, 32)] && bitsOf v 8 4 < pkgCores m
  else if op = 0x11 then onlyBits b [(0, 16)] && bitOf bar l
  else if op = 0x10 || op = 0x12 then onlyBits b [(0, 16), (31, 1)] && bitOf bar l
  else if op = 0x20 then onlyBits b [(0, 51)] && bitsOf v 43 6 ≤ 35
  else if op = 0x21 then
    let own := bitOf v 25
    onlyBits b [(0, 80)] && bitsOf v 58 6 ≤ 35 && (!own || bitsOf v 36 4 < pkgCores m)
  else if op = 0x22 then onlyBits b [(0, 15)]
  else false

/-- The overflow ring of a CH_OPEN lies in a segment (R311). -/
def ringOk (m : Memory) (l i : Nat) : Bool :=
  let v := ephEntry m l i
  let a := bitsOf v 192 40
  let n := 1024 * bitsOf v 66 14
  bitsOf v 192 9 = 0 && (n = 0 ||
    (match relocSegment m 16 (ephEntryOff m l i - secAt m 16 + 24) with
     | some s => decide (a + n ≤ segBytes m s)
     | none => inFixed m a n))

def unitsOk (m : Memory) (l v : Nat) : Bool :=
  bitsOf v 66 2 != 3 && bitsOf v 87 41 = 0
    && (reloadImages v).all (fun e => e.2 < imgCount m && imgCore m e.2 = l && imgRow m e.2 = e.1 / 8
      && imgLcol m e.2 = e.1 % 8 && imgCtx m e.2 = bitsOf v 64 2)

def ephEntryOk (m : Memory) (l i : Nat) : Bool :=
  let v := ephEntry m l i
  let b := bitsOf v 0 128
  bitsOf v 132 60 = 0 && bitsOf v 232 24 = 0 && (isChOpen v || bitsOf v 192 40 = 0)
    && (match entKind v with
      | 0 => b = 0
      | 1 => unitsOk m l v
      | 2 => onlyBits b [(0, 12)] && (dirOf m 9).isSome
      | 3 => syncOk m l v && (!isChOpen v || ringOk m l i)
      | 4 => b = 0
      | 5 => onlyBits b [(0, 16)]
      | _ => false)

/-- R306: a BAR_WAIT follows an arrival at its barrier. -/
def waitsOk (m : Memory) (l : Nat) : Bool :=
  (List.range (ephCount m l)).all (fun i =>
    let v := ephEntry m l i
    !(entKind v = 3 && bitsOf v 0 8 = 0x11) || (List.range i).any (fun j =>
      let w := ephEntry m l j
      entKind w = 3 && (bitsOf w 0 8 = 0x10 || bitsOf w 0 8 = 0x12) && bitsOf w 8 8 = bitsOf v 8 8))

/-- A tap, a channel and a context. -/
abbrev BindPlace := Nat × Nat × Nat

/-- What may be active at a point of a walk: bindings by endpoint with the entries reserved, streams by slot. -/
structure Bindings where
  ok : Bool := true
  on : List (Nat × BindPlace × Nat) := []
  run : List (Nat × List BindPlace) := []
deriving DecidableEq, Repr

/-- An endpoint is bound; no other one, and no stream that may run, has its place, and the receive buffer suffices. -/
def bindStep (ep : Nat) (place : BindPlace) (n : Nat) (b : Bindings) : Bindings :=
  let rest := b.on.filter (fun e => e.1 != ep)
  { b with
    ok := b.ok && b.run.all (fun s => !s.2.contains place) && rest.all (fun e => e.2.1 != place)
      && decide ((rest.map (fun e => e.2.2)).sum + n ≤ 512)
    on := rest ++ [(ep, place, n)] }

/-- A stream starts in a slot, whose previous stream has ended (R254); no binding has one of its places. -/
def bindStream (slot : Nat) (places : List BindPlace) (b : Bindings) : Bindings :=
  { b with
    ok := b.ok && b.on.all (fun e => !places.contains e.2.1)
    run := b.run.filter (fun s => s.1 != slot) ++ [(slot, places)] }

/-- Places of the channels of a stream of the core's table. -/
def descPlaces (m : Memory) (l desc : Nat) : List BindPlace :=
  let v := BitVec.ofNat 384 (streamDesc m l desc)
  (List.range (sdChannels v)).map (fun k => let c := sdChan v k; (c.2.1, c.1, c.2.2))

/-- One entry of a walk.  CH_CLOSE ends the binding and the reservation of a receiving endpoint; a sending one goes
to CLOSING and may stay active (R317). -/
def bindEntry (m : Memory) (l v : Nat) (b : Bindings) : Bindings :=
  let ep := bitsOf v 8 6
  match entKind v, bitsOf v 0 8 with
  | 2, _ => bindStream (bitsOf v 8 4) (descPlaces m l (bitsOf v 0 8)) b
  | 3, 0x20 => bindStep ep (bitsOf v 43 6, bitsOf v 31 12, bitsOf v 49 2) ((bitsOf v 22 3 + 1) * (bitsOf v 25 6 + 1)) b
  | 3, 0x21 => bindStep ep (bitsOf v 58 6, bitsOf v 46 12, bitsOf v 64 2) 0 b
  | 3, 0x22 => if bitOf v 14 then { b with on := b.on.filter (fun e => !(e.1 = ep && 0 < e.2.2)) } else b
  | _, _ => b

/-- Places of the channels of the streams that a core starts. -/
def streamPlaces (m : Memory) (l : Nat) : List BindPlace := (ephStreams m l).flatMap (fun e => descPlaces m l e.1)

/-- R309, R311: no two bindings, and no binding and stream channel, may be active together on one place. -/
def bindingsOk (m : Memory) (l : Nat) : Bool :=
  (ephWalks m l).all (fun order => (order.foldl (fun b i => bindEntry m l (ephEntry m l i) b) ({} : Bindings)).ok)

/-- One core header and its entries. -/
def coreEphOk (m : Memory) (l : Nat) : Bool :=
  let n := ephCount m l
  let len := ephHeader m l 6 1
  let before := ((List.range l).map (ephCount m)).sum
  between n 1 4096 && ephHeader m l 2 2 ≤ ephHeader m l 4 2 && ephHeader m l 4 2 < n && len / 16 = 0
    && (!bitOf len 3 || lenDeclared m (len % 8)) && ephHeader m l 7 1 = 0 && ephHeader m l 8 4 != 0
    && ephHeader m l 16 16 = 0 && ephFirst m l = before
    && (List.range n).all (ephEntryOk m l) && waitsOk m l && bindingsOk m l

def barrierOk (m : Memory) (b : Nat) : Bool :=
  let e := barrierEntry m b
  bitsOf e 17 15 = 0 && bitsOf e 0 16 < 2 ^ pkgCores m && (!bitOf e 16 || hasLinks m)

def ephOk (m : Memory) : Bool :=
  let cores := List.range (pkgCores m)
  let chunk := cores.any (fun l => (List.range (ephCount m l)).any (fun i => entKind (ephEntry m l i) = 4))
  zeroAt m (secAt m 16 + 2) 2 && zeroAt m (secAt m 16 + 8) 56 && (List.range 256).all (barrierOk m)
    && (cores.map (ephCount m)).sum = secCount m 16 && cores.all (coreEphOk m)
    && chunkMask m < 2 ^ pkgCores m && (!chunk || chunkMask m != 0)

/-! ### Fallback, training and link routes (R325, R368, R395) -/

def fallbackOk (m : Memory) : Bool :=
  (List.range (secCount m 17)).all (fun i =>
    let a := secAt m 17 + 32 * i
    between (fld m (a + 2) 2) 1 1024 && zeroAt m (a + 4) 4 && zeroAt m (a + 24) 8)

/-- States of an optimizer, with a state segment or without one (Table 10.5). -/
def stateCount (opt : Nat) (has_ : Bool) : Option Nat :=
  match opt with
  | 1 => some (bit01 has_)
  | 2 => if has_ then some 2 else none
  | 3 => if has_ then some 1 else none
  | _ => none

def groupOk (m : Memory) (g : Nat) : Bool :=
  let p := gField m g 0 1
  let q := gField m g 1 1
  let s := gField m g 2 1
  let has_ := s != 0xFF
  let tiles := gTiles m g
  let shape := gShape m g
  let flags := gField m g 7 1
  let states := stateCount (gField m g 3 1) has_
  let stride := gField m g 0x10 4
  let row := gField m g 0x14 2
  p < segCount m && q < segCount m && (!has_ || s < segCount m) && states.isSome
    && between (gField m g 4 1) 1 7 && gField m g 5 1 < 64 && gField m g 6 1 ≤ 1 && flags / 64 = 0 && flags % 4 != 3
    && between (gRows m g) 1 1024 && between (gCols m g) 1 1024 && (flags % 4 = 1 || gRows m g = 64)
    && scaleOk (gField m g 5 1) shape && tiles != 0 && row != 0 && tiles % row = 0
    && stride % 512 = 0 && 512 * shape.units ≤ stride
    && gField m g 0x16 2 = 0 && gField m g 0x18 8 % 32 = 0 && gField m g 0x30 16 = 0
    && segClass m p && !segClass m q && segPin m q
    && stride * (tiles - 1) + 512 * shape.units ≤ segBytes m p && gGrad m g * tiles ≤ segBytes m q
    && (!has_ || stateWidth m g * (states.getD 0 * tiles * gRows m g * gCols m g) ≤ segBytes m s)

def groupSegments (m : Memory) (g : Nat) : List Nat :=
  [gField m g 0 1, gField m g 1 1] ++ (if gField m g 2 1 = 0xFF then [] else [gField m g 2 1])

/-- The node list of TRAINING. -/
def trainNodes (m : Memory) : List Nat :=
  let at_ := trainOff m + 64 + 64 * groupCount m + 4 * fld m (trainOff m + 4) 2
  (List.range (fld m (trainOff m + 6) 2)).map (fun i => fld m (at_ + 2 * i) 2)

def trainingOk (m : Memory) : Bool :=
  let a := trainOff m
  let groups := List.range (groupCount m)
  let sets := fld m (a + 4) 2
  let nodes := trainNodes m
  let at_ := a + 64 + 64 * groupCount m
  sets ≤ 1024 && nodes.length ≤ 1024 && fld m (a + 8) 8 % 64 = 0 && zeroAt m (a + 16) 48 && groups.all (groupOk m)
    && (groups.flatMap (groupSegments m)).Nodup
    && (List.range sets).all (fun i => let f := fld m (at_ + 4 * i) 2; let n := fld m (at_ + 4 * i + 2) 2
        between n 1 1024 && f + n ≤ nodes.length)
    && nodes.all (fun n => n < 1024) && nodes.Nodup
    && zeroAt m (at_ + 4 * sets + 2 * nodes.length) (secLen m 18 - (64 + 64 * groupCount m + 4 * sets + 2 * nodes.length))

/-- A parent list is a tree: one root, and every rank reaches it. -/
def treeOk (ps : List Nat) : Bool :=
  ps.all (fun p => p = 0xFFFF || p < ps.length) && ps.count 0xFFFF = 1
    && (List.range ps.length).all (fun r =>
      (List.range ps.length).foldl (fun x _ => if ps.getD x 0xFFFF = 0xFFFF then x else ps.getD x 0) r
        = ps.idxOf 0xFFFF)

def linksOk (d : Device) (m : Memory) : Bool :=
  let a := linkOff m
  let n := fld m (a + 4) 2
  let nl := (n + 3) / 4 * 8
  let nodes := linkNodes m
  let trees := fld m (a + 6) 1
  let epoch := linkEpochBarrier m
  fld m a 4 != 0 && between n 2 1024 && between trees 1 16 && zeroAt m (a + 7) 1 && zeroAt m (a + 16) 48
    && (List.range 4).all (fun i => fld m (a + 8 + i) 1 = dimSize d.set.dims i)
    && (List.range n).all (fun r => fld m (a + 0x40 + 2 * r) 2 < 1024)
    && (List.range (1 + trees)).all (fun t => zeroAt m (a + 0x40 + nl * t + 2 * n) (nl - 2 * n))
    && nodes.all (inDims d.set.dims) && nodes.Nodup && nodes.contains (ownNode d)
    && (List.range trees).all (fun t => treeOk (linkTree m t))
    && (epoch = 0xFFFF || (epoch < 256 && barrierEntry m epoch = 2 ^ 16 + 2 ^ pkgCores m - 1))
    && (List.range (pkgCores m)).all (fun l => (List.range (ephCount m l)).all (fun i =>
      let v := ephEntry m l i
      !isChOpen v || bitOf v 25 || (bitsOf v 26 10 != ownNode d && nodes.contains (bitsOf v 26 10))))
    && (!hasTraining m || (trainNodes m).all nodes.contains)

/-! ### The whole package -/

/-- The check of one section's contents.  What lies in a section counts for that section (log entry 60): an
operation word for IMAGES, a path for HARNESS. -/
def sectionOk (d : Device) (m : Memory) (kind : Nat) : Bool :=
  match kind with
  | 1 => coreMapOk m
  | 2 => (List.range (segCount m)).all (segOk m)
  | 3 => affinityOk m
  | 4 => imageListOk m
  | 5 => imagesOk m
  | 6 => harnessOk m
  | 7 => muDeclOk m
  | 8 => spillOk m
  | 9 => (List.range (pkgCores m)).all (streamsOk m)
  | 10 => lengthsOk m
  | 11 => relocsOk m
  | 16 => ephOk m
  | 17 => fallbackOk m
  | 18 => trainingOk m
  | 19 => linksOk d m
  | _ => true

/-- FAIL_ITEM of the first check that fails: header, directory entries, then the sections by ascending kind (log
entry 60). -/
def packageFault (d : Device) (m : Memory) (len : Nat) : Option Nat :=
  if !pkgHeaderOk d m len then some 0xFFFFFFFF
  else
    ((List.range (pkgSections m)).find? (fun i => !entryOk m len i)).orElse (fun _ =>
      (List.range 20).findSome? (fun k =>
        match dirOf m k with
        | some i => if sectionOk d m k then none else some i
        | none => none))

end Sys2Proof.Machine
end

