-- ==== Sys2Proof/Machine/Sets.lean ====
section
/-!
DEFINITION. Machine/Sets.lean: the route set: its formation, the reports of losses, and the configuration broadcast
(R396 to R408).
-/
namespace Sys2Proof.Machine

/-! ### The members (R396, R397) -/

/-- The ports that node `own` uses on the route from `n` to `t`: leaving and entering ones. -/
def routePorts (dims : BitVec 10) (own t : Nat) : Nat → Nat → List Nat
  | 0, _ => []
  | fuel + 1, n =>
    match nextPort dims n t with
    | none => []
    | some (p, _) =>
      let v := neighbour dims n p
      (if n = own then [p] else []) ++ (if v = own then [p ^^^ 1] else []) ++ routePorts dims own t fuel v

/-- USED_PORTS as a mask. -/
def usedPorts (dims : BitVec 10) (own : Nat) (nodes : List Nat) : Nat :=
  let ps := nodes.flatMap (fun s => nodes.flatMap (fun t => routePorts dims own t 16 s))
  (List.range 8).foldl (fun a p => if ps.contains p then a + 2 ^ p else a) 0

/-- The first port of USED_PORTS that is not UP or whose peer is not the neighbour. -/
def badPort (d : Device) (mask : Nat) : Option Nat :=
  (List.range 8).find? (fun p => bitOf mask p
    && ((d.port p).state != 2 || (d.port p).peerNode.toNat != neighbour d.set.dims (ownNode d) p))

/-- Tree-0 neighbours, by NODE_ID. -/
def treeNodes (d : Device) : List Nat := d.set.parent.toList ++ d.set.children

/-! ### The link block (R425, R397) -/

/-- The last 16 bytes of a LOAD's reply: every field that does not apply holds all ones. -/
def openLinkBlock (m : Nat) (d : Device) : Device := reply m 0x1FF0 16 (2 ^ 128 - 1) d

/-- CAUSE, rank and port. -/
def linkCause (m cause rank port : Nat) (d : Device) : Device :=
  reply m 0x1FFC 1 port (reply m 0x1FFA 2 rank (reply m 0x1FF8 2 cause d))

/-! ### Formation (Table 12.7) -/

/-- The LOAD that forms the set. -/
def formingMbx (d : Device) : Option Nat :=
  (List.range 16).find? (fun m => match (d.mb m).job with | .forming h => h = d.set.handle | _ => false)

/-- A placement that is undone leaves no change (R290). -/
def undoPlacement (sec : Section) (d : Device) : Device :=
  let d := freePages (storePagesOf sec) (clearGrad sec d)
  let d := freePages sec.fresh d
  let d := sec.pinned.foldl (fun d p => if resValid (d.res p) then d.setRes p (setField (d.res p) 5 1 0) else d) d
  d.dropSection sec.handle

/-- Formation fails: the section is undone and the load ends. -/
def failForming (code : BitVec 8) (cause rank port : Nat) (d : Device) : Device :=
  let m := formingMbx d
  let d := match d.section? d.set.handle with | some sec => undoPlacement sec d | none => d
  let d := leaveSet 0 d
  match m with
  | some i => endLoad i (some code) (linkCause i cause rank port d)
  | none => d

/-- The first tree-0 child not heard. -/
def unheard (d : Device) : Option Nat := d.set.children.find? (fun r => (Tab.find d.set.heard r).isNone)

/-- FORM_TIMEOUT. -/
def formTimeout (d : Device) : Device :=
  if d.set.state = 1 && d.set.formAt + 1000000 * d.set.formTimeout.toNat ≤ d.now then
    failForming 0x52 (if d.set.mismatch then 2 else 0) ((unheard d).elim 0xFFFF d.set.nodes.idxOf) 0xFF d
  else d

def execFormTimeout (s : State) : Host.Outcome State Fault Refusal := .next (s.upd formTimeout)

/-- Order 4: the set is formed; the load goes on to the cores. -/
def formed (d : Device) : Device :=
  let d := d.set.children.foldl (fun d r => sendPacket (setPacket d 0x15 r 0 0 0) d) d
  match d.section? d.set.handle with
  | none => d
  | some sec =>
    let m := formingMbx d
    let base := BitVec.ofNat 16 (fld sec.pkg (linkOff sec.pkg + 0x0C) 2)
    let d := { d with set := { d.set with
      state := 2, epoch := base, epochReq := 0, lostNode := 0, lostCause := 0, lostValid := 0, losses := [], lossError := 0,
      beatAt := d.now, beats := (treeNodes d).foldl (fun t r => Tab.set t r d.now) [] } }
    let d := d.updSection sec.handle (fun s => { s with state := .loading })
    let d := queuePromotions sec (sendLoad sec (writeMus sec d))
    match m with
    | some i => d.updMb i (fun x => { x with job := .loading sec.handle })
    | none => d

/-- Orders 2 and 3: once every child has been heard, SET_HELLO goes to the parent; the root forms the set. -/
def sendHello (d : Device) : Device :=
  if d.set.state != 1 || d.set.helloSent || (unheard d).isSome then d
  else
    match d.set.parent, d.section? d.set.handle with
    | none, _ => formed d
    | some p, some sec =>
      let n := 1 + (d.set.children.map (fun r => Tab.getD d.set.heard r 0)).sum
      let body := pkgTag sec.pkg + (d.boot.fwMajor.toNat <<< 128)
      let d := { d with set := { d.set with helloSent := true } }
      sendPacket (setPacket d 0x14 p n 18 body) d
    | some _, none => d

/-- Order 1: the placed section's set begins to form. -/
def startForming (m h : Nat) (d : Device) : Device :=
  match d.section? h with
  | none => d
  | some sec =>
    let p := sec.pkg
    let nodes := linkNodes p
    let own := ownNode d
    let rank := nodes.idxOf own
    let tree := linkTree p 0
    let par := tree.getD rank 0xFFFF
    let used := usedPorts d.set.dims own nodes
    let d := d.updMb m (fun x => { x with job := .forming h })
    let d := { d with set := { d.set with
      state := 1, setId := BitVec.ofNat 32 (fld p (linkOff p) 4), epoch := 0, handle := h, nodes := nodes,
      rank := BitVec.ofNat 10 rank, parent := if par = 0xFFFF then none else some (nodes.getD par 0),
      children := ((List.range nodes.length).filter (fun r => tree.getD r 0xFFFF = rank)).map (fun r => nodes.getD r 0), epochReq := 0,
      usedPorts := BitVec.ofNat 8 used, dimsActive := d.set.dims, formAt := d.now, heard := [], mismatch := false,
      helloSent := false, beats := [], digests := [], pieces := [] } }
    match badPort d used with
    | some port => failForming 0x51 1 0xFFFF port d
    | none => sendHello d

/-! ### Losses (R406 to R408) -/

/-- The loss enters LNK_LOST and the list, and LOST goes to the other members and once more to the tree-0 neighbours. -/
def reportLoss (x cause : Nat) (d : Device) : Device :=
  let s := d.set
  let s := { s with losses := s.losses ++ [(x, cause)] }
  let s := if s.lostValid = 1 then s
    else { s with lostNode := BitVec.ofNat 10 x, lostCause := BitVec.ofNat 1 cause, lostValid := 1 }
  let d := { d with set := s }
  let to_ := d.set.nodes.filter (· != ownNode d) ++ treeNodes d
  to_.foldl (fun d n => sendPacket (setPacket d 0x13 n (x + (cause <<< 10)) 0 0) d) d

/-- The section's cores stop before their next arrival at a SYSTEM barrier. -/
def startHalting (d : Device) : Device :=
  let d := { d with set := { d.set with state := 3 } }
  match d.section? d.set.handle with
  | none => d
  | some sec =>
    let d := sec.cores.foldl (fun d c => if sec.state = .preempted then d else d.updCore c (fun x => { x with quiesce := 0 })) d
    d.updSection sec.handle (fun s => { s with lossStop := true, autoResume := false })

/-- A member is lost, or a link to one (cause 0 node, 1 link); a report of cause node about a member listed with cause
link takes precedence (R407, Table 12.9). -/
def memberLost (x cause : Nat) (d : Device) : Device :=
  if !(d.set.state = 2 || d.set.state = 3) then d
  else if d.set.losses.any (fun l => l.1 = x) then
    if cause = 0 then { d with set := { d.set with losses := d.set.losses.map (fun l => if l.1 = x then (x, 0) else l) } } else d
  else
    let d := reportLoss x cause d
    let d := if d.set.state = 2 then startHalting d else d
    if haltingDone d then endHalting d else d

/-- A port of USED_PORTS goes DOWN (R406, Table 12.9). -/
def portLoss (p cause : Nat) (d : Device) : Device :=
  if !d.set.usedPorts.getLsbD p then d
  else if d.set.state = 1 then failForming 0x51 1 0xFFFF p d
  else memberLost (neighbour d.set.dimsActive (ownNode d) p) cause d

/-- The cores of a section that have not stopped. -/
def goingOn (d : Device) (sec : Section) : List Nat :=
  sec.cores.filter (fun c => let q := (d.core c).seq.state; q != .finished && q != .suspended && q != .halted)

/-- HALTING_STOP_LIMIT: every core has stopped, or 2,000,000 steps have passed and Meridian sends halt to the remaining
cores (item 2 of R407); the command ends once they have halted. -/
def haltingStopLimit (d : Device) : Device :=
  if d.set.state != 3 then d
  else if haltingDone d then endHalting d
  else match d.section? d.set.handle with
    | some sec =>
      if sec.state = .running && sec.cores.any (fun c => decide (2000000 ≤ (d.core c).quiesce)) then sendHalts (goingOn d sec) d
      else d
    | none => d

def execHaltingStopLimit (s : State) : Host.Outcome State Fault Refusal := .next (s.upd haltingStopLimit)

/-! ### Configuration by broadcast (R400 to R403) -/

/-- Nodes of the box of a set of dimensions. -/
def boxNodes (dims : BitVec 10) : Nat := dimSize dims 0 * dimSize dims 1 * dimSize dims 2 * dimSize dims 3

/-- One CONFIG_DATA packet. -/
def configPacket (own id dims off total : Nat) (pk : Memory) : Packet :=
  let n := min 4096 (total - off)
  { typ := 0x30, dest := own, src := own, bcast := true, len := 16 + n, epoch := 0, set := id, arg := dims,
    body := off + (total <<< 64) + (fld pk off n <<< 128) }

/-- A packet goes out on a port of the broadcast tree; the hop at the end of a dimension wraps. -/
def bcastOut (dims : BitVec 10) (own p inPort cls : Nat) (first : Bool) (k : Packet) (d : Device) : Device :=
  let i := p / 2
  let w := if p % 2 = 1 then coord own i = dimSize dims i - 1 else coord own i = 0
  enqueue p (if first then bit01 w else forwardClass inPort p cls w) k d

/-- A feeder sends its package. -/
def startBroadcast (m id : Nat) (pk : Memory) (len : Nat) (d : Device) : Device :=
  let own := ownNode d
  let dims := d.set.dims
  let b : Broadcast := { source := own, id := id, dims := dims.toNat, outcome := none, ok := 0, failed := 0, unposted := 0,
                         acked := [], feeder := some (m, d.now) }
  let d := { d with set := { d.set with bcasts := d.set.bcasts ++ [b] } }
  (List.range ((len + 4095) / 4096)).foldl (fun d i =>
    (bcastSends dims own own).foldl (fun d p => bcastOut dims own p 0 0 true (configPacket own id dims.toNat (4096 * i) len pk) d) d) d

/-- The feeder's broadcast ends: the counts go to its link block, and the LOAD ends if its own load has ended. -/
def endBroadcast (b : Broadcast) (m : Nat) (d : Device) : Device :=
  let rest := boxNodes (BitVec.ofNat 10 b.dims) - 1 - b.ok - b.failed - b.unposted
  let d := reply m 0x1FF0 8 (b.ok + (b.failed <<< 16) + (b.unposted <<< 32) + (rest <<< 48)) d
  let d := { d with set := { d.set with bcasts := d.set.bcasts.filter (fun x => x != b) } }
  match (d.mb m).job with
  | .feeding code => endLoad m code d
  | _ => d

/-- Children of a node in a broadcast's tree. -/
def bcastChildren (d : Device) (b : Broadcast) : List Nat :=
  let dims := BitVec.ofNat 10 b.dims
  (bcastSends dims (ownNode d) b.source).map (neighbour dims (ownNode d))

/-- The broadcast parent: the neighbour toward the source in the highest differing dimension (R401). -/
def bcastParent (d : Device) (b : Broadcast) : Nat :=
  let dims := BitVec.ofNat 10 b.dims
  let own := ownNode d
  ((List.range 8).map (neighbour dims own)).find? (fun v =>
    v != own && (bcastSends dims v b.source).any (fun p => neighbour dims v p = own)) |>.getD b.source

/-- R402: once the outcome is known and every child has acknowledged, one CONFIG_ACK goes to the parent; a feeder's
broadcast ends. -/
def settleBroadcast (b : Broadcast) (d : Device) : Device :=
  if !(bcastChildren d b).all b.acked.contains then d
  else
    match b.feeder, b.outcome with
    | some f, _ => endBroadcast b f.1 d
    | none, none => d
    | none, some o =>
      let ok := b.ok + bit01 (o = 0)
      let bad := b.failed + bit01 (o = 1)
      let un := b.unposted + bit01 (o = 2)
      let d := { d with set := { d.set with bcasts := d.set.bcasts.filter (fun x => x != b) } }
      let k : Packet := { typ := 0x31, dest := bcastParent d b, src := ownNode d, bcast := false, len := 8, epoch := 0,
                          set := b.id, arg := 0, body := ok + (bad <<< 16) + (un <<< 32) }
      sendPacket k d

/-- Replace a broadcast by its next state and see whether it is complete. -/
def updBroadcast (old new : Broadcast) (d : Device) : Device :=
  settleBroadcast new { d with set := { d.set with bcasts := d.set.bcasts.map (fun x => if x = old then new else x) } }

/-- BCAST_TIMEOUT (R402). -/
def bcastTimeout (d : Device) : Device :=
  match d.set.bcasts.find? (fun b => match b.feeder with
    | some f => decide (f.2 + 1000000 * d.set.bcastTimeout.toNat ≤ d.now)
    | none => false) with
  | some b => match b.feeder with | some f => endBroadcast b f.1 d | none => d
  | none => d

def execBcastTimeout (s : State) : Host.Outcome State Fault Refusal := .next (s.upd bcastTimeout)

end Sys2Proof.Machine
end

