-- ==== Sys2Proof/Machine/Loader.lean ====
section
/-!
DEFINITION. Machine/Loader.lean: staged streams: their signature, frames and package checks, the placement of a LOAD
and the checks of a REGION_LOAD (R24, R287 to R293, R425, R447 to R462).
-/
namespace Sys2Proof.Machine

/-! ### Staging (R454, R440) -/

/-- Bytes of host memory (SOURCE 0) or of the logical space, or the error of an invalid or poisoned page. -/
def stageBytes (d : Device) (logical : Bool) (a n : Nat) : Except (BitVec 8) Memory :=
  if !logical then .ok (cutMem d.host.mem a n)
  else
    let ps := pagesOf a n
    if anyInvalid d ps then .error 0x13
    else
      match ps.find? (fun p => resPoison (d.res p)) with
      | some p => .error (classCode (d.res p))
      | none => .ok (Ram.blit ([] : Memory) 0 n (readLogical d a n))

/-! ### Signatures (R452, R453) -/

/-- A big-endian number of 48 bytes. -/
def bigEndian (m : Memory) (off n : Nat) : Nat := bytesToNat (natToBytes n (fld m off n)).reverse

/-- The signature block of a stream of `len` bytes is right under one of the keys. -/
def signatureOk (keys : List (BitVec 776)) (m : Memory) (len : Nat) : Bool :=
  let b := len - 256
  256 ≤ len && fld m b 4 = 0x4E474953 && fld m (b + 4) 2 = 1 && fld m (b + 6) 2 = 1 && fld m (b + 8) 8 = b
    && zeroAt m (b + 128) 128
    && (match keys.find? (fun k => keyIdOf k = fld m (b + 16) 16) with
        | some k =>
          ecdsaVerify (bitsOf k.toNat 384 384) (bitsOf k.toNat 0 384) (sha384 (natToBytes b (fld m 0 b))).toNat
            (bigEndian m (b + 0x20) 48) (bigEndian m (b + 0x50) 48)
        | none => false)

/-- The package roots. -/
def packageKeys (d : Device) : List (BitVec 776) := d.mgmt.roots.map (·.2)

/-! ### Frames (R449 to R451) -/

/-- Outcome of the checks of a list of frames: frames checked, and the first failure with its SERIAL. -/
def checkFrames (target : Nat) (region : Memory → Bool) : Nat → List Memory → Nat × Option (BitVec 8 × Nat)
  | n, [] => (n, none)
  | n, f :: rest =>
    if !(frameOk target f && frSerial f = n) then (n + 1, some (0x20, n))
    else if !region f then (n + 1, some (0x21, n))
    else checkFrames target region (n + 1) rest

/-- CFG_CHECKED and CFG_REJECTS (Table 14.11). -/
def countFrames (r : Nat × Option (BitVec 8 × Nat)) (d : Device) : Device :=
  let b := { d.boot with checked := satAdd d.boot.checked r.1 }
  let b := match r.2 with
    | some (0x20, _) => { b with rejectCheck := satAdd b.rejectCheck 1 }
    | some _ => { b with rejectRegion := satAdd b.rejectRegion 1 }
    | none => b
  { d with boot := b }

/-- LOGICAL: the address of a fabric frame is in logical form (Table 14.1). -/
def frLogical (f : Memory) : Bool := bitOf (fld f 6 1) 0

/-- A logical address of a unit of logical cores below `cores` (Table 14.2; log entry 62). -/
def inPackage (cores : Nat) (f : Memory) : Bool :=
  frLogical f && bitsOf (frAddr f) 28 4 < cores && bitsOf (frAddr f) 24 4 ≤ 7

/-- The frames of a package's IMAGES section. -/
def packageFrames (m : Memory) : List Memory :=
  (List.range (secCount m 5)).map (fun k => cutMem m (frameOff m k) 4116)

/-! ### LOAD -/

/-- The report and the record of a failed placement or package check (R290, R293): no core, store or page is taken. -/
def reportFailed (m : Nat) (sec : Section) (f : PlaceFail) (link : Bool) (d : Device) : Device :=
  let bare := { sec with handle := 0, cores := [], scores := [], segBase := [], newPages := [], nearPages := [], storeBase := [],
                         storePages := [], spills := [] }
  let d := replyReport m d bare f link d
  if f.1 = 0x10 then d else logCmd 0x10 f.1.toNat f.2.2 m f.2.1 d

def placeFailed (m : Nat) (sec : Section) (f : PlaceFail) (link : Bool) (d : Device) : Device :=
  endLoad m (some f.1) (reportFailed m sec f link d)

/-- Order 4 onward of Table 1.6: the placement, then the frames or the formation. -/
def placeLoad (m : Nat) (sec : Section) (link : Bool) (d : Device) : Device :=
  match placeSection sec d with
  | .error f => placeFailed m sec f link d
  | .ok (d1, sec1) =>
    let d1 := { d1 with sections := d1.sections ++ [sec1], sched := { d1.sched with handles := sec1.handle } }
    let d1 := writeReport d sec1 (replyReport m d sec1 (0, 0, 0) link d1)
    let d1 := clearSems sec1.cores d1
    if hasLinks sec.pkg then startForming m sec1.handle (d1.updSection sec1.handle (fun s => { s with state := .forming }))
    else
      let d1 := queuePromotions sec1 (sendLoad sec1 d1)
      d1.updMb m (fun x => { x with job := .loading sec1.handle })

/-- Another section with link routes is placed (R395). -/
def linkBusy (d : Device) : Bool := d.sections.any (fun s => hasLinks s.pkg)

/-- The section that a LOAD makes of its package. -/
def loadSection (d : Device) (x : Mailbox) (pk : Memory) (len : Nat) : Section :=
  { handle := d.sched.handles + 1, pkg := pk, len := len, seed := x.arg 8 8, allowed := x.arg 2 2
    digest := (sha384 (natToBytes (len - 256) (fld pk 0 (len - 256)))).toNat }

/-- No LOAD or RESUME that was accepted earlier waits, or has its placement still before it (R291); a posted load takes its
place when its staging completes (R424). -/
def placeTurn (d : Device) (m : Nat) : Bool :=
  (List.range 16).all (fun k =>
    let x := d.mb k
    let waits := (x.opcode = 0x10 || x.opcode = 0x16)
      && ((x.state = .accepted && !x.rung) || (x.state = .running && (match x.job with
        | .working _ _ _ => true
        | .placing _ _ => true
        | _ => false)))
    k = m || !waits || (d.mb m).order ≤ x.order)

/-- A LOAD whose package has passed its checks is placed; a second section with link routes is not (R395; log entry 72). -/
def placeChecked (m : Nat) (pk : Memory) (len : Nat) (d : Device) : Device :=
  let x := d.mb m
  if hasLinks pk && linkBusy d then endLoad m (some 0x03) d
  else if hasLinks pk && bitOf (strapWord d) 14 then endLoad m (some 0x51) d
  else placeLoad m (loadSection d x pk len) (bitOf (x.arg 1 1) 1 || hasLinks pk) d

/-- The placement of a checked package, or the wait for its turn. -/
def placeOrWait (m : Nat) (pk : Memory) (len : Nat) (d : Device) : Device :=
  if placeTurn d m then placeChecked m pk len d else d.updMb m (fun x => { x with job := .placing pk len })

/-- The staged package of a LOAD is checked; it is placed when every check passes.  The second component says
whether the checks passed (R402). -/
def loadPackage (m : Nat) (pk : Memory) (len : Nat) (d : Device) : Device × Bool :=
  let x := d.mb m
  let bcast := bitOf (x.arg 1 1) 1
  if !signatureOk (packageKeys d) pk len then (endLoad m (some 0x22) d, false)
  else
    let link := bcast || hasLinks pk
    let d := if link && !bcast then openLinkBlock m d else d
    if x.arg 0 1 = 2 && x.arg 0x18 8 != fld pk 8 8 then (endLoad m (some 0x02) d, false)
    else
    let r := checkFrames 1 (inPackage (pkgCores pk)) 0 (packageFrames pk)
    let d := countFrames r d
    match r.2 with
    | some (e, _) => (endLoad m (some e) d, false)
    | none =>
      match packageFault d pk len with
      | some item => (placeFailed m (loadSection d x pk len) (0x10, 9, item) link d, false)
      | none => (placeOrWait m pk len d, true)

/-! ### REGION_LOAD (R458 to R461) -/

def rsStop (s : Memory) : Nat := 64 + 16 * rsCount s + 4116 * rsFrames s

/-- Bits of a mask. -/
def maskCount (w v : Nat) : Nat := ((List.range w).filter (bitOf v)).length

/-- Images standing in a unit's contexts after the region's part-2 frames: the lane capacities of a port (R49). -/
def regionCaps (s : Memory) (l u port : Nat) : Nat :=
  ((List.range (rsFrames s)).map (fun k =>
    let f := rsFrame s k
    let a := frAddr f
    if bitsOf a 28 4 = l && 8 * (bitsOf a 16 5 / 4) + bitsOf a 24 4 = u && bitsOf a 16 2 = 2 then
      bitsOf (frPayload f) (8 * (1792 + port)) 8
    else 0)).sum

/-- R460, R49: the lane capacities that each walk of the Ephemeris leaves fit with the images of the region in place. -/
def regionWalks (sec : Section) (s : Memory) (d : Device) : Bool :=
  let m := (patchedPackage sec s d).1
  ((rsRegion s).map (fun e => e.1)).all (fun l => (ephWalks m l).all (walkCaps m l))

/-- R460. -/
def regionStreamOk (sec : Section) (s : Memory) (len : Nat) : Bool :=
  let recs := rsRegion s
  let units := (recs.map (fun e => maskCount 64 e.2)).sum
  let frames := (List.range (rsFrames s)).map (rsFrame s)
  fld s 0 4 = 0x4E474552 && fld s 4 2 = 1 && between (rsCount s) 1 16 && zeroAt s 12 4 && zeroAt s 32 32
    && fld s 16 16 = pkgTag sec.pkg && len = rsStop s + 256
    && (List.range (rsCount s)).all (fun i => zeroAt s (64 + 16 * i + 1) 7 && rsCore s i < sec.cores.length)
    && (recs.map (·.1)).Nodup && recs.all (fun e => maskCount 64 e.2 ≤ 10)
    && rsFrames s = 16 * units
    && (frames.map (fun f => frAddr f)).Nodup
    && frames.all (fun f => bitsOf (frAddr f) 16 2 != 2 || bitsOf (frPayload f) 0 (8 * 1792) = 0)
    && recs.all (fun e => (List.range 64).all (fun u => !bitOf e.2 u
        || (List.range 4).all (fun p => decide (regionCaps s e.1 u p ≤ 16))))

/-- R450 for a region stream (log entry 62). -/
def inRegion (s f : Memory) : Bool :=
  let a := frAddr f
  frLogical f && bitsOf a 24 4 ≤ 7 && (rsRegion s).any (fun e =>
    e.1 = bitsOf a 28 4 && bitOf e.2 (8 * (bitsOf a 16 5 / 4) + bitsOf a 24 4))

/-- The staged stream of a REGION_LOAD: checked, then waiting for its turn. -/
def loadRegion (m h : Nat) (s : Memory) (len : Nat) (d : Device) : Device :=
  let d := reply m 0 4 0xFFFFFFFF d
  match d.section? h with
  | none => endFailed m 0x03 d
  | some sec =>
    if !signatureOk (packageKeys d) s len then endFailed m 0x22 d
    else
      let r := checkFrames 1 (inRegion s) 0 ((List.range (rsFrames s)).map (rsFrame s))
      let d := countFrames r d
      match r.2 with
      | some (e, k) => endFailed m e (reply m 0 4 k d)
      | none =>
        if !(regionStreamOk sec s len && regionWalks sec s d) then endFailed m 0x10 d
        else regionTurn m (d.updMb m (fun x => { x with job := .region h s len false }))

end Sys2Proof.Machine
end

