-- ==== Sys2Proof/Machine/LinkSets.lean ====
section
/-!
DEFINITION. Machine/LinkSets.lean: the ports, flits and packets of Morwyn Link as the module meets them (R379 to R408).
-/
namespace Sys2Proof.Machine

/-! ### Ports (R379, R380, R384, R549) -/

/-- What a change of port `p` means for the set: a port that was UP and goes DOWN (cause 0 node, 1 link). -/
def portEvent (p cause : Nat) (f : Port → Port) (d : Device) : Device :=
  let was := (d.port p).state
  let d := d.updPort p f
  if was = 2 && (d.port p).state != 2 then portLoss p cause d else d

/-- PORT_TRAINING: Orders 1 to 4 of Table 12.2, and the TRAIN flit that Order 5 sends. -/
def execPortTraining (p : Fin 8) (width : Option (Fin 3)) (s : State) (ends : Fin 3 := 2) : Host.Outcome State Fault Refusal :=
  .next (s.upd (fun d => if !d.boot.firmware then d else
    d.updPort p.val (trainWidth d.now (ownNode d) p.val d.boot.fwMajor.toNat (ends.val + 2) (width.map Fin.val))))

/-- TRAIN: Orders 5 and 6; a peer with this device's own NODE_ID is recorded for the hour (R380). -/
def trainPort (p protocol node port fw : Nat) (d : Device) : Device :=
  let own := ownNode d
  let x := d.port p
  if !d.boot.firmware then d else
  let d := d.updPort p (trainPeer d.now own protocol node port fw)
  if x.state = 1 && x.trained && node = own then
    d.updMgmt (fun m => { m with hourSelf := if m.hourSelf.contains p then m.hourSelf else m.hourSelf ++ [p] })
  else d

def execTrain (p : Fin 8) (protocol : BitVec 8) (node : BitVec 16) (port _width : BitVec 8) (fw : BitVec 16) (s : State) :
    Host.Outcome State Fault Refusal :=
  .next (s.upd (trainPort p.val protocol.toNat node.toNat (port.toNat % 8) fw.toNat))

/-- PORT_DOWN_RETRAIN: 1 s after it went DOWN a port trains again. -/
def execPortDownRetrain (p : Fin 8) (s : State) : Host.Outcome State Fault Refusal :=
  .next (s.upd (fun d => d.updPort p.val (retrain d.now)))

/-- A link reset of a port (R549): an UP port goes back to training. -/
def resetPort (now : Nat) (x : Port) : Port :=
  if x.state = 2 then
    { resetLink x with state := 1, width := 3, trained := false, order := 2, downCause := 2, since := now, downs := satAdd x.downs 1 }
  else x

def execLinkReset (p : Fin 8) (s : State) : Host.Outcome State Fault Refusal :=
  .next (s.upd (fun d => portEvent p.val 1 (resetPort d.now) d))

/-- LOSS_OF_SIGNAL: an UP or training port goes DOWN (R379, R406). -/
def execLossOfSignal (p : Fin 8) (s : State) : Host.Outcome State Fault Refusal :=
  .next (s.upd (fun d =>
    portEvent p.val 0 (fun x => if x.state = 1 || x.state = 2 then portDown d.now 1 (x.state = 1) x else x) d))

/-! ### Flits (R381 to R384) -/

def execData (p : Fin 8) (dir : FlitDir) (s : State) : Host.Outcome State Fault Refusal :=
  .next (s.upd (fun d => match dir with
    | .send => d.updPort p.val (sendData d.now)
    | .receive f ok => d.updPort p.val (receiveData d.now f ok)))

def execNak (p : Fin 8) (dir : FlitDir) (s : State) : Host.Outcome State Fault Refusal :=
  .next (s.upd (fun d => match dir with
    | .send => d.updPort p.val (sendNak d.now)
    | .receive f ok => portEvent p.val 1 (receiveNak d.now f ok) d))

def execIdle (p : Fin 8) (dir : FlitDir) (s : State) : Host.Outcome State Fault Refusal :=
  .next (s.upd (fun d => match dir with
    | .send => d.updPort p.val sendIdle
    | .receive f ok => d.updPort p.val (receiveIdle d.now f ok)))

def execReplayTimeout (p : Fin 8) (s : State) : Host.Outcome State Fault Refusal :=
  .next (s.upd (fun d => portEvent p.val 1 (replayTimeout d.now) d))

def execNakRepeat (p : Fin 8) (s : State) : Host.Outcome State Fault Refusal :=
  .next (s.upd (fun d => d.updPort p.val (repeatNak d.now)))

/-! ### Packets at their destination (R387, R389) -/

/-- The packet at the head of a pool is for this device. -/
def deliverable (d : Device) (k : Packet) : Bool := !k.bcast && k.dest = ownNode d

/-- The packet is of the device's current set and epoch. -/
def ofSet (d : Device) (k : Packet) : Bool :=
  1 ≤ d.set.state.toNat && d.set.state.toNat ≤ 3 && k.set = d.set.setId.toNat && k.epoch = d.set.epoch.toNat

/-- The head packet of a type leaves its pool and is acted on when `accept` holds, else it counts as stale. -/
def takePacket (typ : Nat) (accept : Device → Packet → Bool) (act : Packet → Device → Device) (p pool : Nat) (d : Device) : Device :=
  match headPacket d p pool with
  | some k =>
    if k.typ = typ && deliverable d k then
      let d := popPacket p pool d
      if accept d k then act k d else countStale d
    else d
  | none => d

/-- A packet of the current set, with the set's section. -/
def setPacketAct (act : Section → Packet → Device → Device) (k : Packet) (d : Device) : Device :=
  match d.section? d.set.handle with
  | some sec => act sec k d
  | none => countStale d

/-- Names in a CHANNEL packet: its destination here, its source, the slot (Table 12.5). -/
def chanDest (d : Device) (k : Packet) : EpName := ⟨ownNode d, bitsOf k.arg 0 4, bitsOf k.arg 4 6⟩
def chanSrc (k : Packet) : EpName := ⟨k.src, bitsOf k.arg 10 4, bitsOf k.arg 14 6⟩
def chanSlot (k : Packet) : Nat := bitsOf k.arg 20 3

/-- An endpoint of a core, in the save of a pre-empted section. -/
def saveEp (core ep : Nat) (f : Ep → Ep) (v : Save) : Save :=
  { v with cores := v.cores.map (fun e =>
      if e.1 = core then (e.1, { e.2 with eps := Tab.set e.2.eps ep (f (Tab.getD e.2.eps ep {})) }) else e) }

/-- An endpoint in a save takes a token or a close, as `arriveMsg` gives them to one in its core. -/
def arriveSaved (m : ChMsg) (v : Save) : Save :=
  match m with
  | .token _ t slot tok => saveEp t.core t.ep (fun x =>
      if x.role = 1 && x.state = .listen then { x with rx := Tab.set x.rx slot (Tab.getD x.rx slot [] ++ [tok]) } else x) v
  | .close s t slot side =>
    if side = 0 then saveEp t.core t.ep (fun x => if x.role = 1 && x.state = .listen then { x with marked := x.marked ++ [slot] } else x) v
    else saveEp s.core s.ep (fun x => if x.sendsTo t slot then x.closeSend 0 false else x) v
  | _ => v

/-- A message joins those of a logical core, also of a pre-empted section (R42). -/
def postLogical (sec : Section) (core : Nat) (msg : ChMsg) (d : Device) : Device :=
  match sec.save with
  | some v =>
    let waiting := Tab.getD v.chan core []
    let v := if msg.actsAtOnce && waiting.all (fun b => b.sender != msg.sender) then arriveSaved msg v
      else { v with chan := Tab.set v.chan core (waiting ++ [msg]) }
    d.updSection sec.handle (fun s => { s with save := some v })
  | none => deliverChan sec (sec.phys core) msg d

/-- CH_TOKEN. -/
def tokenPacket (sec : Section) (k : Packet) (d : Device) : Device :=
  let t := chanDest d k
  let tok : Token := ⟨BitVec.ofNat 4096 (k.body >>> 32), BitVec.ofNat 32 k.body⟩
  postLogical sec t.core (.token (chanSrc k) t (chanSlot k) tok) d

def execChToken (p : Fin 8) (pool : Fin 6) (s : State) : Host.Outcome State Fault Refusal :=
  .next (s.upd (takePacket 1 ofSet (setPacketAct tokenPacket) p.val pool.val))

/-- CH_OPEN. -/
def openPacket (sec : Section) (k : Packet) (d : Device) : Device :=
  let t := chanDest d k
  postLogical sec t.core (.open_ (chanSrc k) t (chanSlot k) (bitsOf k.body 0 8)) d

def execChOpenPacket (p : Fin 8) (pool : Fin 6) (s : State) : Host.Outcome State Fault Refusal :=
  .next (s.upd (takePacket 2 ofSet (setPacketAct openPacket) p.val pool.val))

/-- CH_GRANT, from the receiver's side. -/
def grantPacket (sec : Section) (k : Packet) (d : Device) : Device :=
  let s := chanDest d k
  postLogical sec s.core (.grant s (chanSrc k) (chanSlot k) (bitsOf k.body 0 8)) d

def execChGrant (p : Fin 8) (pool : Fin 6) (s : State) : Host.Outcome State Fault Refusal :=
  .next (s.upd (takePacket 3 ofSet (setPacketAct grantPacket) p.val pool.val))

/-- CH_REFUSE. -/
def refusePacket (sec : Section) (k : Packet) (d : Device) : Device :=
  let s := chanDest d k
  postLogical sec s.core (.refuse s (chanSrc k) (chanSlot k)) d

def execChRefuse (p : Fin 8) (pool : Fin 6) (s : State) : Host.Outcome State Fault Refusal :=
  .next (s.upd (takePacket 4 ofSet (setPacketAct refusePacket) p.val pool.val))

/-- CH_CLOSE: SIDE 0 marks the receiving endpoint, SIDE 1 closes the sending one. -/
def closePacket (sec : Section) (k : Packet) (d : Device) : Device :=
  let me := chanDest d k
  let side := bitsOf k.arg 23 1
  let msg : ChMsg := if side = 0 then .close (chanSrc k) me (chanSlot k) 0 else .close me (chanSrc k) (chanSlot k) 1
  postLogical sec me.core msg d

def execChClosePacket (p : Fin 8) (pool : Fin 6) (s : State) : Host.Outcome State Fault Refusal :=
  .next (s.upd (takePacket 5 ofSet (setPacketAct closePacket) p.val pool.val))

/-- CH_CREDIT. -/
def creditPacket (sec : Section) (k : Packet) (d : Device) : Device :=
  let s := chanDest d k
  postLogical sec s.core (.credit s (chanSrc k) (chanSlot k) (bitsOf k.body 0 16)) d

def execChCredit (p : Fin 8) (pool : Fin 6) (s : State) : Host.Outcome State Fault Refusal :=
  .next (s.upd (takePacket 6 ofSet (setPacketAct creditPacket) p.val pool.val))

/-! ### Barriers (R399, R404) -/

/-- A child node's arrival goes to the device root. -/
def arrivePacket (sec : Section) (k : Packet) (d : Device) : Device :=
  postArrival 4 { handle := sec.handle, barrier := bitsOf k.arg 0 8, round := bitsOf k.arg 8 1, end_ := 16 + k.src,
                  stop := false, epoch := bitOf k.arg 9 } d

def execBarArrivePacket (p : Fin 8) (pool : Fin 6) (s : State) : Host.Outcome State Fault Refusal :=
  .next (s.upd (takePacket 0x10 ofSet (setPacketAct arrivePacket) p.val pool.val))

/-- The parent's release of a round sent to it. -/
def releasePacket (sec : Section) (k : Packet) (d : Device) : Device :=
  let b := bitsOf k.arg 0 8
  let r := bitsOf k.arg 8 1
  releaseSystem sec b r (bitOf k.arg 9) (clearCount (barKey 5 sec.handle b r) d)

def execBarRelease (p : Fin 8) (pool : Fin 6) (s : State) : Host.Outcome State Fault Refusal :=
  .next (s.upd (takePacket 0x11 ofSet (setPacketAct releasePacket) p.val pool.val))

/-! ### Heartbeats and losses (R406, R407) -/

def heartbeatPacket (k : Packet) (d : Device) : Device :=
  if (treeNodes d).contains k.src then { d with set := { d.set with beats := Tab.set d.set.beats k.src d.now } } else d

def execHeartbeat (p : Fin 8) (pool : Fin 6) (s : State) : Host.Outcome State Fault Refusal :=
  .next (s.upd (takePacket 0x12 ofSet heartbeatPacket p.val pool.val))

/-- HEARTBEAT_SEND: every 1 ms while the set is formed. -/
def heartbeatSend (d : Device) : Device :=
  if (d.set.state = 2 || d.set.state = 3) && d.set.beatAt + 1000 ≤ d.now && meridianRuns d then
    let d := { d with set := { d.set with beatAt := d.now } }
    (treeNodes d).foldl (fun d n => sendPacket (setPacket d 0x12 n d.set.rank.toNat 0 0) d) d
  else d

def execHeartbeatSend (s : State) : Host.Outcome State Fault Refusal := .next (s.upd heartbeatSend)

/-- HEARTBEAT_MS, with values below 3 acting as 3, in µs. -/
def heartbeatLimit (d : Device) : Nat := 1000 * max 3 d.set.heartbeatMs.toNat

/-- HEARTBEAT_TIMEOUT. -/
def heartbeatTimeout (node : Nat) (d : Device) : Device :=
  if (d.set.state = 2 || d.set.state = 3) && (treeNodes d).contains node
      && Tab.getD d.set.beats node 0 + heartbeatLimit d ≤ d.now then memberLost node 0 d
  else d

def execHeartbeatTimeout (node : BitVec 10) (s : State) : Host.Outcome State Fault Refusal :=
  .next (s.upd (heartbeatTimeout node.toNat))

/-- LOST: a non-member's name is dropped and counted (Table 12.9). -/
def lostPacket (k : Packet) (d : Device) : Device :=
  let x := bitsOf k.arg 0 10
  if d.set.nodes.contains x then memberLost x (bitsOf k.arg 10 1) d else countStale d

def execLost (p : Fin 8) (pool : Fin 6) (s : State) : Host.Outcome State Fault Refusal :=
  .next (s.upd (takePacket 0x13 ofSet lostPacket p.val pool.val))

/-! ### Formation (R397) -/

/-- A packet of a set that is forming here. -/
def ofForming (d : Device) (k : Packet) : Bool := d.set.state = 1 && k.set = d.set.setId.toNat

/-- SET_HELLO: one that matches is heard; any other is counted. -/
def helloPacket (k : Packet) (d : Device) : Device :=
  match d.section? d.set.handle with
  | none => countStale d
  | some sec =>
    if !d.set.children.contains k.src then countStale d
    else if bitsOf k.body 0 128 = pkgTag sec.pkg && bitsOf k.body 128 16 = d.boot.fwMajor.toNat then
      sendHello { d with set := { d.set with heard := Tab.set d.set.heard k.src (bitsOf k.arg 0 11) } }
    else countStale { d with set := { d.set with mismatch := true } }

def execSetHello (p : Fin 8) (pool : Fin 6) (s : State) : Host.Outcome State Fault Refusal :=
  .next (s.upd (takePacket 0x14 ofForming helloPacket p.val pool.val))

/-- SET_READY comes from the tree-0 parent once this member's SET_HELLO has gone up. -/
def readyPacket (k : Packet) (d : Device) : Device :=
  if d.set.parent = some k.src && d.set.helloSent then formed d else countStale d

def execSetReady (p : Fin 8) (pool : Fin 6) (s : State) : Host.Outcome State Fault Refusal :=
  .next (s.upd (takePacket 0x15 ofForming readyPacket p.val pool.val))

/-! ### Digests and repair pages (R342, R399) -/

/-- Records of a DIGEST packet: node index and digest. -/
def digestRecords (k : Packet) : List (Nat × Nat) :=
  (List.range (k.len / 16)).map (fun i => (bitsOf k.body (128 * i) 32, bitsOf k.body (128 * i + 64) 64))

def digestPacket (k : Packet) (d : Device) : Device :=
  { d with set := { d.set with
      digests := d.set.digests ++ [(k.src, bitsOf k.arg 0 16, bitsOf k.arg 16 6, digestRecords k)] } }

def execDigest (p : Fin 8) (pool : Fin 6) (s : State) : Host.Outcome State Fault Refusal :=
  .next (s.upd (takePacket 0x20 ofSet digestPacket p.val pool.val))

def repairPacket (k : Packet) (d : Device) : Device :=
  { d with set := { d.set with
      pieces := d.set.pieces ++ [(bitsOf k.arg 0 6, bitsOf k.arg 6 1, bitsOf k.body 0 32, bitsOf k.arg 7 4, bitsOf k.body 128 32768)] } }

def execRepairPage (p : Fin 8) (pool : Fin 6) (s : State) : Host.Outcome State Fault Refusal :=
  .next (s.upd (takePacket 0x21 ofSet repairPacket p.val pool.val))

/-! ### Forwarding (R389, R391, R392) -/

/-- A packet that no row of this node takes: a reserved type, a PAD, a CONFIG_DATA that is no broadcast, or a broadcast of
another type (R387; log entry 71, DESIGN CHOICE: the last two are dropped and counted too). -/
def strayPacket (k : Packet) : Bool := !knownType k.typ || (k.typ = 0x30) != k.bcast

/-- PACKET_FORWARD: the head packet of a pool goes on to its next port; a stray one that has arrived, or one of a
destination without a route, is dropped and counted (R387, R391). -/
def packetForward (p pool : Nat) (d : Device) : Device :=
  match headPacket d p pool with
  | none => d
  | some k =>
    if k.bcast || k.dest = ownNode d then (if strayPacket k then countStale (popPacket p pool d) else d)
    else
      let d' := popPacket p pool d
      match nextPort d.set.dimsActive (ownNode d) k.dest with
      | some (q, w) => enqueue q (forwardClass p q (pool % 2) w) k d'
      | none => countStale d'

def execPacketForward (p : Fin 8) (pool : Fin 6) (s : State) : Host.Outcome State Fault Refusal :=
  .next (s.upd (packetForward p.val pool.val))

/-! ### Configuration by broadcast (R400 to R403) -/

/-- A stream that a posted load stages has stopped (R428): its feeder sends another, or its broadcast has ended by the time
limit (log entry 92, DESIGN CHOICE). -/
def streamStopped (d : Device) (stream src : Nat × Nat) (since : Nat) : Bool :=
  stream.1 = src.1 || decide (since + 1000000 * d.set.bcastTimeout.toNat ≤ d.now)

/-- The posted LOAD that stages a chunk: mailbox, bytes staged, how many, since when. The first broadcast whose chunk at
OFFSET 0 reaches it is staged, and no other (R403) until that one has stopped (R428). -/
def stagingMbx (d : Device) (src : Nat × Nat) (off tag : Nat) : Option (Nat × Memory × Nat × Nat) :=
  (List.range 16).findSome? (fun m =>
    let first := off = 0 && (d.mb m).arg 0x20 16 = tag
    match (d.mb m).job with
    | .posted none _ _ _ _ => if first then some (m, [], 0, d.now) else none
    | .posted (some s) st n _ t =>
      if s = src && off = n then some (m, st, n, t)
      else if first && streamStopped d s src t then some (m, [], 0, d.now)
      else none
    | _ => none)

/-- A chunk is staged; the whole stream goes on as a load.  The result is this device's outcome (R402): 0 staged and
checked, 1 failed, 2 not posted. -/
def stageChunk (k : Packet) (d : Device) : Device × Nat :=
  let off := bitsOf k.body 0 64
  let total := bitsOf k.body 64 64
  let n := k.len - 16
  let bytes := k.body >>> 128
  match stagingMbx d (k.src, k.set) off (bitsOf bytes (8 * 0x28) 128) with
  | none => (d, 2)
  | some (m, st, have_, since) =>
    let st := Ram.blit st off n (bytes % 2 ^ (8 * n))
    if have_ + n < total then (d.updMb m (fun x => { x with job := .posted (some (k.src, k.set)) st (have_ + n) total since }), 2)
    else
      let d := d.updMb m (fun x => { x with order := d.host.orders })
      let r := loadPackage m st total { d with host := { d.host with orders := d.host.orders + 1 } }
      (r.1, if r.2 then 0 else 1)

/-- A port takes a packet of a pool at once: nothing waits there, or the port is not UP and drops it. -/
def portTakes (pool : Nat) (x : Port) : Bool := x.state != 2 || Tab.getD x.txq pool [] = []

/-- CONFIG_DATA: the packet goes on along the broadcast tree, is staged where a posted load waits for it, and ends
the stream at its last chunk. It stays in its buffer until every port of the tree takes it (R402). -/
def configData (p pool : Nat) (d : Device) : Device :=
  match headPacket d p pool with
  | none => d
  | some k =>
    if k.typ != 0x30 || !k.bcast then d
    else
      let dims := BitVec.ofNat 10 k.arg
      let own := ownNode d
      let waits := d
      let d := popPacket p pool d
      if !inDims dims own || !inDims dims k.dest then countStale d
      else if !(bcastSends dims own k.dest).all (fun q => [4, 5].all (fun w => portTakes w (d.port q))) then waits
      else
        let d := (bcastSends dims own k.dest).foldl (fun d q => bcastOut dims own q p (pool % 2) false k d) d
        let old := d.set.bcasts.find? (fun b => b.source = k.dest && b.id = k.set && b.feeder.isNone)
        let d := match old with
          | some _ => d
          | none =>
            let b : Broadcast := { source := k.dest, id := k.set, dims := dims.toNat, outcome := none, ok := 0, failed := 0,
                                   unposted := 0, acked := [], feeder := none }
            { d with set := { d.set with bcasts := d.set.bcasts ++ [b] } }
        let r := stageChunk k d
        if bitsOf k.body 0 64 + (k.len - 16) < bitsOf k.body 64 64 then r.1
        else
          match r.1.set.bcasts.find? (fun b => b.source = k.dest && b.id = k.set && b.feeder.isNone) with
          | some b => updBroadcast b { b with outcome := some r.2 } r.1
          | none => r.1

def execConfigData (p : Fin 8) (pool : Fin 6) (s : State) : Host.Outcome State Fault Refusal :=
  .next (s.upd (configData p.val pool.val))

/-- CONFIG_ACK: the counts of a child's subtree. -/
def ackPacket (k : Packet) (d : Device) : Device :=
  match d.set.bcasts.find? (fun b => b.id = k.set && (bcastChildren d b).contains k.src && !b.acked.contains k.src) with
  | some b =>
    updBroadcast b { b with
      acked := b.acked ++ [k.src], ok := b.ok + bitsOf k.body 0 16, failed := b.failed + bitsOf k.body 16 16,
      unposted := b.unposted + bitsOf k.body 32 16 } d
  | none => countStale d

def execConfigAck (p : Fin 8) (pool : Fin 6) (s : State) : Host.Outcome State Fault Refusal :=
  .next (s.upd (takePacket 0x31 (fun _ _ => true) ackPacket p.val pool.val))

end Sys2Proof.Machine
end

