-- ==== Sys2Proof/Machine/Commands.lean ====
section
/-!
DEFINITION. Machine/Commands.lean: acceptance of mailbox commands, and the commands that load, run, cancel, pre-empt and
configure sections (R417 to R429, R434, R458 to R461).
-/
namespace Sys2Proof.Machine

/-! ### Acceptance (R416, R417, Table 13.6) -/

/-- The mailbox service answers: Meridian's firmware or the boot ROM service. -/
def serviceOn (d : Device) : Bool :=
  !d.boot.resetting && (meridianRuns d || (d.boot.powered && d.boot.service = 1 && !d.boot.warmLow))

/-- Commands still carried out after a thermal trip (R524). -/
def tripAllows (op : Nat) : Bool := op = 0x01 || op = 0x43 || op = 0x60 || op = 0x50 || op = 0x51

/-- A check of R417: 0 passes, else the ERROR. -/
abbrev Check := Device → Mailbox → BitVec 8

/-- BAD_ARGUMENT unless the condition holds. -/
def argOk (b : Bool) : BitVec 8 := if b then 0 else 0x02

/-- The first failing check. -/
def allOf (cs : List (BitVec 8)) : BitVec 8 := (cs.find? (· != 0)).getD 0

/-- Meridian changes the STATE of a rung mailbox. -/
def acceptCmd (op : Nat) (check : Check) (m : Nat) (d : Device) : Device :=
  let x := d.mb m
  let take := fun (d : Device) =>
    let d := d.updMb m (fun y => { y with state := .accepted, error := 0, order := d.host.orders, since := d.now, rung := false })
    { d with host := { d.host with orders := d.host.orders + 1 } }
  let e := if 64 ≤ heldCommands d then 0x03 else check d x
  if d.power.tripped && !tripAllows op then endFailed m 0x70 (take d)
  else if e != 0 then endRefused m e d
  else if gatedOp op && !windowOpen d then
    if fld x.copy 6 1 = 0 then endRefused m 0x04 d
    else d.updMb m (fun y => { y with state := .waitingPresence, error := 0x04, since := d.now, rung := false, progress := 0 })
  else if gatedOp op then (acceptGated m d).updMb m (fun y => { y with rung := false })
  else take d

/-- A command's row: acceptance, then its start once Meridian can start it; while the firmware is about to start after an
attempt that succeeded, no command starts (R547). -/
def hostCmd (op : Nat) (check : Check) (can : Device → Nat → Bool) (run : Nat → Device → Device) (m : Nat) (d : Device) : Device :=
  if !serviceOn d then d
  else
    let d := if (d.mb m).opcode = op && (d.mb m).rung then acceptCmd op check m d else d
    let x := d.mb m
    if x.opcode = op && x.state = .accepted && !x.rung && !d.boot.chosen && can d m then
      run m (d.updMb m (fun y => { y with state := .running, job := .none, started := d.now, progress := 0 }))
    else d

/-- The command waits between two of its rows (R428). -/
def Mailbox.between (x : Mailbox) : Bool :=
  x.state = .running && (match x.job with
    | .working _ _ _ => true
    | .programming _ _ => true
    | .committing _ => true
    | _ => false)

/-- Parts done and bytes moved before the current row. -/
def Mailbox.workDone (x : Mailbox) : Nat × Nat := match x.job with | .working _ n b => (n, b) | _ => (0, 0)

/-- The command waits for its row again. -/
def waitWork (m : Nat) (h : Option Nat) (done bytes : Nat) (d : Device) : Device :=
  d.updMb m (fun x => { x with job := .working h done bytes })

/-- A row of a command that may take several: it starts the command as `hostCmd` does, or goes on with it. -/
def hostWork (op : Nat) (check : Check) (can go : Device → Nat → Bool) (run : Nat → Device → Device) (m : Nat) (d : Device) : Device :=
  if (d.mb m).opcode = op && (d.mb m).between then (if serviceOn d && go d m then run m d else d)
  else hostCmd op check can run m d

def canAlways (_ : Device) (_ : Nat) : Bool := true

/-- No command of a kind that was accepted earlier still waits. -/
def firstOf (ops : List Nat) (d : Device) (m : Nat) : Bool :=
  (List.range 16).all (fun k =>
    let x := d.mb k
    !(ops.contains x.opcode && x.state = .accepted && !x.rung) || (d.mb m).order ≤ x.order)

/-- A started section command reaches the section of `h`. -/
def naming (d : Device) (h : Nat) (live : Section → BitVec 8) : BitVec 8 :=
  match d.section? h with | some s => live s | none => 0x02

/-! ### DEVICE_INFO -/

def reducedMask (d : Device) : Nat := maskOf ((List.range 16).filter (isReduced d))

def runInfo (m : Nat) (d : Device) : Device :=
  let v := 0x9100 + (d.boot.fwMajor.toNat <<< 32) + (d.boot.fwMinor.toNat <<< 48) + (d.mgmt.serial.toNat <<< 64)
    + (reducedMask d <<< 128) + (d.sched.offline.toNat <<< 144) + (d.tiers.ftRemoved.toNat <<< 160) + (d.boot.image.toNat <<< 192)
  endDone m (reply m 0 32 v d)

def execDeviceInfo (m : Fin 16) (s : State) : Host.Outcome State Fault Refusal :=
  .next (s.upd (hostCmd 0x01 (fun _ _ => 0) canAlways runInfo m.val))

/-! ### Staging (R454) -/

/-- The commands that stage a stream from host memory: argument offset of SOURCE, and of the length, none for an image. -/
def streamSource (op : Nat) : Option Nat :=
  match op with
  | 0x10 => some 0
  | 0x18 => some 4
  | 0x70 => some 0
  | 0x72 => some 0
  | _ => none

/-- A command stages from host memory. -/
def hostStream (x : Mailbox) : Bool := (streamSource x.opcode).any (fun o => x.arg o 1 = 0)

/-- The stream's bytes that a LOAD or REGION_LOAD under way keeps in the staging area. -/
def stagedBytes (x : Mailbox) : Nat :=
  if !hostStream x then 0
  else match x.job with
    | .loading _ => x.arg 0x18 8
    | .forming _ => x.arg 0x18 8
    | .working _ _ _ => if x.opcode = 0x10 then x.arg 0x18 8 else 0
    | .placing _ _ => x.arg 0x18 8
    | .feeding _ => x.arg 0x18 8
    | .region _ _ _ _ => x.arg 0x10 8
    | .programming im _ => 4116 * fld im 0x18 4 + 256
    | _ => 0

/-- R454: a stream of `n` bytes goes into the 512 MiB of the staging area when no stream from host memory that was
accepted earlier still waits, and room is left. -/
def canStage (d : Device) (m n : Nat) : Bool :=
  !hostStream (d.mb m)
    || (!d.host.d3 && n + ((List.range 16).map (fun k => stagedBytes (d.mb k))).sum ≤ 536870912
        && (List.range 16).all (fun k =>
          let x := d.mb k
          !(hostStream x && x.state = .accepted && !x.rung) || (d.mb m).order ≤ x.order))

/-! ### LOAD (R424, R425) -/

/-- TOTAL_LENGTH of the package that a LOAD names, none where it lies on the link or in pages without contents. -/
def namedLength (d : Device) (x : Mailbox) : Option Nat :=
  let a := x.arg 0x10 8
  match x.arg 0 1 with
  | 0 => some (fld d.host.mem (a + 8) 8)
  | 1 => if anyInvalid d (pagesOf (a + 8) 8) || anyPoison d (pagesOf (a + 8) 8) then none else some (readLogical d (a + 8) 8)
  | _ => none

/-- The package that a LOAD names, where it can be read before the load starts. -/
def namedPackage (d : Device) (x : Mailbox) : Option Memory :=
  if 2 ≤ x.arg 0 1 || (namedLength d x).isNone then none
  else match stageBytes d (x.arg 0 1 = 1) (x.arg 0x10 8) (x.arg 0x18 8) with
    | .ok pk => some pk
    | .error _ => none

/-- The checks of LOAD, with the refusal of R395; LENGTH must equal TOTAL_LENGTH (Table 13.8; log entry 72). FORCE asks for nothing more here: the
cores a LOAD takes are free, and R91 dropped their tokens when their last section was unloaded. -/
def checkLoad : Check := fun d x =>
  let src := x.arg 0 1
  let flags := x.arg 1 1
  allOf [argOk (src ≤ 2 && flags ≤ 3 && (!bitOf flags 1 || src ≤ 1) && x.arg 0x10 8 % 16 = 0 && x.arg 0x30 8 = 0
    && (src = 2 || x.arg 0x20 16 = 0) && (src != 0 || x.arg 0x18 8 ≤ 536870912)
    && (namedLength d x).all (fun n => x.arg 0x18 8 = n)),
    if linkBusy d && (namedPackage d x).any hasLinks then 0x03 else 0]

/-- A command that masters the bus waits for D0 (R412). -/
def busOn (d : Device) (_ : Nat) : Bool := !d.host.d3

/-- Loads and resumptions go in the order of their acceptance; a fetch from host memory needs bus mastering (R291, R412). -/
def canLoad (d : Device) (m : Nat) : Bool := placeTurn d m && canStage d m ((d.mb m).arg 0x18 8)

/-- A feeder without children has ended its broadcast (R402). -/
def settleFeeder (m : Nat) (d : Device) : Device :=
  match d.set.bcasts.find? (fun b => match b.feeder with | some f => f.1 = m | none => false) with
  | some b => settleBroadcast b d
  | none => d

def runLoad (err : TierErr) (m : Nat) (d : Device) : Device :=
  let x := d.mb m
  let src := x.arg 0 1
  let bcast := bitOf (x.arg 1 1) 1
  if src = 2 then d.updMb m (fun y => { y with job := .posted none [] 0 0 0 })
  else
    let d := if bcast then openLinkBlock m d else d
    let len := x.arg 0x18 8
    let d := if src = 1 then tierFound (some m) err (x.arg 0x10 8) len d else d
    match stageBytes d (src = 1) (x.arg 0x10 8) len with
    | .error e => endFailed m e d
    | .ok pk =>
      let d := if bcast then startBroadcast m (x.arg 4 4) pk len d else d
      settleFeeder m (loadPackage m pk len d).1

/-- `hold`: the fetch, staging or checks go on; a CANCEL met then discards the staged stream (R428). -/
def loadRow (hold : Bool) (err : TierErr) (m : Nat) (d : Device) : Device :=
  if hold && (d.mb m).arg 0 1 != 2 then
    waitWork m none 0 0 (if bitOf ((d.mb m).arg 1 1) 1 then openLinkBlock m d else d)
  else runLoad err m d

/-- A row of LOAD: a checked package that waits for its turn is placed when it comes. -/
def loadTurn (row : Device → Device) (m : Nat) (d : Device) : Device :=
  match (d.mb m).opcode, (d.mb m).job with
  | 0x10, .placing pk len => if serviceOn d && placeTurn d m then settleFeeder m (placeChecked m pk len d) else d
  | _, _ => row d

def execLoad (m : Fin 16) (err : TierErr) (s : State) (hold : Bool := false) : Host.Outcome State Fault Refusal :=
  .next (s.upd (loadTurn (hostWork 0x10 checkLoad canLoad (fun d m => !d.host.d3 || (d.mb m).arg 0 1 != 0) (loadRow hold err) m.val) m.val))

/-! ### UNLOAD, RUN, RUN_FUSED (R426, R429) -/

/-- A command's job names a section. -/
def jobNames (j : Job) (h : Nat) : Bool :=
  match j with
  | .loading k => k = h
  | .forming k => k = h
  | .region k _ _ _ => k = h
  | .preempting k => k = h
  | .run k _ => k = h
  | .comparing k => k = h
  | .stopping k _ _ => k = h
  | .working k _ _ => k = some h
  | _ => false

/-- The feeder's LOAD that placed a section has not ended (R402, R425). -/
def feedsSection (x : Mailbox) (h : Nat) : Bool :=
  match x.job with | .feeding none => fld x.reply 0x38 4 = h | _ => false

/-- A command that names its section at 0x00 waits to be started. -/
def waitNames (x : Mailbox) (h : Nat) : Bool :=
  x.state = .accepted && [0x15, 0x16, 0x17, 0x18, 0x30, 0x31].contains x.opcode && x.arg 0 4 = h

/-- A command of a section is ACCEPTED, RUNNING, PARTIAL or PREEMPTED. -/
def sectionBusy (d : Device) (h : Nat) : Bool :=
  (List.range 16).any (fun k =>
    let x := d.mb k
    x.state.live && !x.rung && (runNames x h || jobNames x.job h || feedsSection x h || waitNames x h))
    || (d.section? h).any (fun s => s.mbx.any (fun k => (d.mb k).state.live))

def checkUnload : Check := fun d x =>
  allOf [argOk (x.arg 4 4 = 0), naming d (x.arg 0 4) (fun s => if sectionBusy d s.handle then 0x03 else 0)]

def runUnload (m : Nat) (d : Device) : Device :=
  let h := (d.mb m).arg 0 4
  match d.section? h with
  | none => endFailed m 0x02 d
  | some sec =>
    let d := if sec.state != .preempted && 0 < staleOf d sec then
        d.updMb m (fun x => addNote 0x33 { x with staleDiscard := true })
      else d
    endChange m (segmentPages sec ++ storePagesOf sec) (unloadSection h d)

def execUnload (m : Fin 16) (s : State) : Host.Outcome State Fault Refusal :=
  .next (s.upd (hostCmd 0x11 checkUnload canAlways runUnload m.val))

/-- A section that a run command may name (R426, R559). -/
def runnable (s : Section) : Bool := s.state != .halted && s.state != .loading && s.state != .forming

/-- Taps, channels and contexts that a stream or an endpoint of a logical core may use. -/
def usedPlaces (m : Memory) (l : Nat) : List (Nat × Nat × Nat) :=
  streamPlaces m l ++ (List.range (ephCount m l)).filterMap (fun i =>
    let v := ephEntry m l i
    if entKind v != 3 then none
    else if bitsOf v 0 8 = 0x20 then some (bitsOf v 43 6, bitsOf v 31 12, bitsOf v 49 2)
    else if bitsOf v 0 8 = 0x21 then some (bitsOf v 58 6, bitsOf v 46 12, bitsOf v 64 2)
    else none)

def bindingOk (d : Device) (x : Mailbox) (b : Nat × Nat × Nat × Nat × Nat × Nat) : Bool :=
  let (win, l, tap, ctx, chan, stage) := b
  win ≤ 7 && tap ≤ 35 && ctx ≤ 3 && chan < 4096 && stage < x.stages.length && !(boundWindows d).contains win
    && (d.section? (x.stages.getD stage 0)).any (fun s => l < s.cores.length && !(usedPlaces s.pkg l).contains (tap, chan, ctx))

/-- The arguments shared by RUN and RUN_FUSED. -/
def runArgsOk (d : Device) (x : Mailbox) : Bool :=
  let bs := x.bindings
  x.arg 4 1 ≤ 7 && x.arg 5 1 ≤ 1 && x.arg 6 1 ≤ 8 && x.arg 0x20 8 = 0
    && (List.range 8).all (fun i => x.arg (0x48 + 8 * i + 7) 1 = 0)
    && x.stages.all (fun h => (d.section? h).any runnable && !(List.range 16).any (fun k => feedsSection (d.mb k) h))
    && x.stages.all (fun h => (d.section? h).any (fun s => (List.range 8).all (fun n =>
      !(bitOf (x.arg 7 1) n && lenDeclared s.pkg n) || x.arg (0x28 + 4 * n) 4 ≤ lenMax s.pkg n)))
    && (bs.map (·.1)).Nodup && (bs.map (fun b => (b.2.1, b.2.2.1, b.2.2.2.1, b.2.2.2.2.1, b.2.2.2.2.2))).Nodup
    && bs.all (bindingOk d x)

def checkRun : Check := fun d x => argOk (runArgsOk d x)

def checkFused : Check := fun d x =>
  let n := x.arg 0x88 1
  argOk (x.arg 0 4 = 0xFFFFFFFF && between n 2 8 && x.arg 0x89 7 = 0
    && (List.range 8).all (fun i => i < n || x.arg (0x90 + 4 * i) 4 = 0) && runArgsOk d x)

/-- RUN and RUN_FUSED are accepted here; COMMAND_START starts them (R358). -/
def execRun (m : Fin 16) (s : State) : Host.Outcome State Fault Refusal :=
  .next (s.upd (hostCmd 0x12 checkRun (fun _ _ => false) (fun _ d => d) m.val))

def execRunFused (m : Fin 16) (s : State) : Host.Outcome State Fault Refusal :=
  .next (s.upd (hostCmd 0x13 checkFused (fun _ _ => false) (fun _ d => d) m.val))

/-! ### CANCEL (R427, R428) -/

def checkCancel : Check := fun _ x => argOk (x.arg 1 1 = 0 && x.arg 4 4 = 0)

/-- A feeder's broadcast stops: chunks not yet begun leave the ports. -/
def stopBroadcast (m : Nat) (d : Device) : Device :=
  match d.set.bcasts.find? (fun b => match b.feeder with | some f => f.1 = m | none => false) with
  | none => d
  | some b =>
    let mine := fun (k : Packet) => k.typ = 0x30 && k.src = ownNode d && k.set = b.id
    let d := (List.range 8).foldl (fun d p => d.updPort p (fun x => { x with
      txq := x.txq.map (fun e => (e.1, e.2.zipIdx.filterMap (fun k =>
        if mine k.1 && !(k.2 = 0 && Tab.getD x.txPart e.1 0 != 0) then none else some k.1))) })) d
    { d with set := { d.set with bcasts := d.set.bcasts.filter (fun x => x != b) } }

/-- Nothing of a load remains (R428): cores to which frames have been sent take CFG_ABORT first. -/
def cancelLoad (t h : Nat) (d : Device) : Device :=
  let d := stopBroadcast t d
  match d.section? h with
  | some sec =>
    if sec.state = .loading then
      (sec.cores.foldl (fun d c => d.setCtrl c (dropCfg (d.ctrl c) ++ [.cfgAbort])) d).updMb t (fun x => { x with job := .aborting h })
    else endFailed t 0 (unloadSection h d)
  | none => endFailed t 0 d

/-- What CANCEL does to its target: the device and OUTCOME. -/
def cancelTarget (t : Nat) (d : Device) : Device × Nat :=
  let x := d.mb t
  match x.state with
  | .accepted => (endFailed t 0 d, 1)
  | .waitingPresence => (endFailed t 0 d, 1)
  | .preempted =>
    match x.job with
    | .run h _ => (endFailed t 0 (unloadSection h (releaseStages t d)), 1)
    | _ => (endFailed t 0 d, 1)
  | _ =>
    match x.job with
    | .run _ _ => if x.applying then (d, 2) else (stopCommand t 0 none d, 1)
    | .stopping _ _ _ => (stopCommand t 0 none d, 1)
    | .loading h => (cancelLoad t h d, 1)
    | .posted _ _ _ _ _ => (endFailed t 0 d, 1)
    | .placing _ _ => (endFailed t 0 (stopBroadcast t d), 1)
    | .forming h =>
      let d := match d.section? h with | some sec => undoPlacement sec d | none => d
      (endFailed t 0 (stopBroadcast t (leaveSet 0 d)), 1)
    | .feeding _ =>
      (cancelLoad t (fld x.reply 0x38 4) d, 1)
    | .region _ _ _ false => (endFailed t 0 d, 1)
    | .programming _ erased => if x.opcode = 0x72 && erased then (d, 2) else (endFailed t 0 d, 1)
    | .working _ _ b =>
      if x.opcode = 0x20 || x.opcode = 0x30 || x.opcode = 0x31 then (endFailed t 0 (reply t 0 8 b d), 1)
      else (endFailed t 0 d, 1)
    | .moving _ _ fly a b => (endFailed t 0 (reply t 4 4 b (reply t 0 4 (a + fly.length) d)), 1)
    | _ => (d, 2)

def runCancel (m : Nat) (d : Device) : Device :=
  let x := d.mb m
  let t := x.arg 0 1
  let y := d.mb t
  let r := if t ≤ 15 && y.seq.toNat = x.arg 2 2 && y.state.live then cancelTarget t d else (d, 0)
  let d := reply m 0 1 r.2 r.1
  if r.2 = 1 && (d.mb t).job.stops then d.updMb m (fun x => { x with job := .cancelling t }) else endDone m d

def execCancel (m : Fin 16) (s : State) : Host.Outcome State Fault Refusal :=
  .next (s.upd (hostCmd 0x14 checkCancel canAlways runCancel m.val))

/-! ### PREEMPT, RESUME, EPOCH_REQUEST (R429) -/

def checkPreempt : Check := fun d x =>
  allOf [argOk (x.arg 4 4 = 0), naming d (x.arg 0 4) (fun s =>
    if s.state = .halted || s.state = .loading || s.state = .forming || hasLinks s.pkg then 0x02
    else if (s.state = .idle || s.state = .running) && !saveFits d s then 0x03
    else 0)]

/-- A pre-emption begins after the region loads of its section that came before it (Table 14.7), and once its save fits the
host's share (R364). -/
def canPreempt (d : Device) (m : Nat) : Bool :=
  let h := (d.mb m).arg 0 4
  !regionPending d h
    && (List.range 16).all (fun k =>
      let x := d.mb k
      !(x.opcode = 0x18 && x.state = .accepted && !x.rung && x.arg 0 4 = h) || (d.mb m).order < x.order)
    && (d.section? h).all (fun s => !(s.state = .idle || s.state = .running) || saveFits d s)

def runPreempt (err : MuErr) (m : Nat) (d : Device) : Device :=
  let h := (d.mb m).arg 0 4
  let wait := fun (d : Device) => d.updMb m (fun x => { x with job := .preempting h })
  match d.section? h with
  | none => endFailed m 0x02 d
  | some sec =>
    match sec.state with
    | .idle => endDone m (savePreempt h false err d)
    | .running => wait (startPreempt h d)
    | .preempting => wait d
    | .preempted => endDone m d
    | _ => endFailed m 0x02 d

def execPreempt (m : Fin 16) (s : State) (err : MuErr := none) : Host.Outcome State Fault Refusal :=
  .next (s.upd (hostCmd 0x15 checkPreempt canPreempt (runPreempt err) m.val))

/-- A pre-empted section of a dissolved set is not resumed (Table 12.9). -/
def setGone (d : Device) (s : Section) : Bool := hasLinks s.pkg && d.set.handle = s.handle && 3 ≤ d.set.state.toNat

def checkResume : Check := fun d x =>
  allOf [argOk (x.arg 4 4 = 0), naming d (x.arg 0 4) (fun s =>
    argOk (s.state != .halted && !(s.state = .preempted && setGone d s)))]

def runResume (found : Ecc) (m : Nat) (d : Device) : Device :=
  let h := (d.mb m).arg 0 4
  match d.section? h with
  | none => endFailed m 0x02 d
  | some sec =>
    if sec.state != .preempted then endDone m d
    else
      match resumeSection h d with
      | .ok (d', sec') =>
        let d' := restoreFound h found d'
        if found = .uncorrected then endFailed m 0x41 d' else endDone m (replyReport m d sec' (0, 0, 0) false d')
      | .error f => endFailed m f.1 (reportFailed m sec f false d)

/-- `hold`: the re-placement has not completed; a CANCEL met then leaves the section pre-empted with its save (R428). -/
def resumeRow (hold : Bool) (found : Ecc) (m : Nat) (d : Device) : Device :=
  if hold then waitWork m (some ((d.mb m).arg 0 4)) 0 0 d else runResume found m d

def execResume (m : Fin 16) (s : State) (hold : Bool := false) (found : Ecc := .clean) : Host.Outcome State Fault Refusal :=
  .next (s.upd (hostWork 0x16 checkResume placeTurn placeTurn (resumeRow hold found) m.val))

def checkEpoch : Check := fun d x =>
  allOf [argOk (x.arg 4 4 = 0), naming d (x.arg 0 4) (fun s => argOk (s.state != .halted))]

/-- Order 1 of Table 12.8. -/
def runEpoch (m : Nat) (d : Device) : Device :=
  let h := (d.mb m).arg 0 4
  let on := (d.section? h).any (fun s =>
    hasLinks s.pkg && d.set.handle = h && d.set.state = 2 && linkEpochBarrier s.pkg != 0xFFFF
      && s.mbx.any (fun k => (d.mb k).state.started))
  endDone m (if on then { d with set := { d.set with epochReq := 1 } } else d)

def execEpochRequest (m : Fin 16) (s : State) : Host.Outcome State Fault Refusal :=
  .next (s.upd (hostCmd 0x17 checkEpoch canAlways runEpoch m.val))

/-! ### REGION_LOAD (R458, R461) -/

def checkRegion : Check := fun d x =>
  allOf [naming d (x.arg 0 4) (fun s =>
      if s.state = .halted || s.state = .loading || s.state = .forming then 0x02 else if s.state = .preempted then 0x03 else 0),
    argOk (x.arg 4 1 ≤ 1 && x.arg 5 1 ≤ 1 && x.arg 6 2 = 0 && x.arg 8 8 % 16 = 0 && x.arg 0x18 8 = 0
      && (x.arg 4 1 = 1 || x.arg 0x10 8 ≤ 536870912))]

/-- Region loads of one section run one at a time, in the order of their acceptance (R461); a stream from host memory waits
for its turn and for room (R454). -/
def canRegion (d : Device) (m : Nat) : Bool :=
  let h := (d.mb m).arg 0 4
  canStage d m ((d.mb m).arg 0x10 8) && !regionPending d h
    && (List.range 16).all (fun k =>
      let x := d.mb k
      !(x.opcode = 0x18 && x.state = .accepted && !x.rung && x.arg 0 4 = h) || (d.mb m).order ≤ x.order)

def runRegion (err : TierErr) (m : Nat) (d : Device) : Device :=
  let x := d.mb m
  let d := if x.arg 4 1 = 1 then tierFound (some m) err (x.arg 8 8) (x.arg 0x10 8) d else d
  match stageBytes d (x.arg 4 1 = 1) (x.arg 8 8) (x.arg 0x10 8) with
  | .error e => endFailed m e (reply m 0 4 0xFFFFFFFF d)
  | .ok st => loadRegion m (x.arg 0 4) st (x.arg 0x10 8) d

/-- The row again takes a checked load forward when its turn comes. -/
def regionRow (m : Nat) (err : TierErr) (d : Device) : Device :=
  if (d.mb m).opcode = 0x18 && (d.mb m).state = .running && serviceOn d then regionTurn m d
  else hostCmd 0x18 checkRegion canRegion (runRegion err) m d

def execRegionLoad (m : Fin 16) (err : TierErr) (s : State) : Host.Outcome State Fault Refusal :=
  .next (s.upd (regionRow m.val err))

/-! ### CORE_OFFLINE, CORE_ONLINE (R372, R432) -/

def checkCore : Check := fun _ x => argOk (x.arg 0 1 ≤ 15 && x.arg 1 7 = 0)

def runOffline (err : MuErr) (m : Nat) (d : Device) : Device :=
  let c := (d.mb m).arg 0 1
  let d := { d with sched := { d.sched with
    offline := setBit d.sched.offline c true, hostOffline := setBit d.sched.hostOffline c true } }
  let d := loseCore c err (d.updMb m (fun x => { x with job := .offline c }))
  if (d.mb m).state = .running then settleJobs d else d

def execCoreOffline (m : Fin 16) (s : State) (err : MuErr := none) : Host.Outcome State Fault Refusal :=
  .next (s.upd (hostCmd 0x41 checkCore canAlways (runOffline err) m.val))

def runOnline (m : Nat) (d : Device) : Device :=
  let c := (d.mb m).arg 0 1
  let d := if d.sched.offline.getLsbD c then coreResetRow c d else d
  let off := d.power.quadrantOff.getLsbD (c / 4)
  endDone m { d with sched := { d.sched with
    offline := setBit d.sched.offline c off, hostOffline := setBit d.sched.hostOffline c false } }

def execCoreOnline (m : Fin 16) (s : State) : Host.Outcome State Fault Refusal :=
  .next (s.upd (hostCmd 0x42 checkCore canAlways runOnline m.val))

end Sys2Proof.Machine
end

