-- ==== Sys2Proof/Machine/PageCommands.lean ====
section
/-!
DEFINITION. Machine/PageCommands.lean: the host transfer engine, the page commands, export and import, settings,
register reads, the meter and the log commands (R345, R346, R430 to R433, R440, R502, R518, R519).
-/
namespace Sys2Proof.Machine

/-! ### XFER (R440) -/

/-- The pages of a transfer's logical side, in order: (page, offset, bytes, offset in the transfer). -/
def logicalPieces (a n : Nat) : List (Nat × Nat × Nat × Nat) := pagePieces (n / 65536 + 2) a n 0

/-- The host side of an XFER: pieces of bus address and length, none for a malformed list. -/
def hostPieces (d : Device) (x : Mailbox) : Option (List (Nat × Nat)) :=
  if bitOf (x.arg 1 1) 0 then
    let es := (List.range (x.arg 0x18 8)).map (fun i => fld d.host.mem (x.arg 8 8 + 16 * i) 16)
    if es.all (fun e => bitsOf e 0 64 % 16 = 0 && bitsOf e 64 32 % 16 = 0 && e >>> 96 = 0) then
      some (es.map (fun e => (bitsOf e 0 64, bitsOf e 64 32)))
    else none
  else some [(x.arg 8 8, x.arg 0x18 8)]

/-- Bytes gathered from pieces of host memory, and scattered to them. -/
def gatherHost (d : Device) (ps : List (Nat × Nat)) : Nat :=
  (ps.foldl (fun (a : Nat × Nat) p => (a.1 + (fld d.host.mem p.1 p.2 <<< (8 * a.2)), a.2 + p.2)) (0, 0)).1

/-- Write the first `n` bytes of `v` to the pieces. -/
def scatterHost (v : Nat) : Nat → List (Nat × Nat) → Device → Device
  | _, [], d => d
  | n, p :: rest, d =>
    let k := min n p.2
    let d := { d with host := { d.host with mem := Ram.blit d.host.mem p.1 k (v % 2 ^ (8 * k)) } }
    scatterHost (v >>> (8 * p.2)) (n - k) rest d

/-- The bytes of pieces from `off` on, `n` of them at most. -/
def cutPieces : Nat → Nat → List (Nat × Nat) → List (Nat × Nat)
  | _, _, [] => []
  | off, n, (a, l) :: rest =>
    if l ≤ off then cutPieces (off - l) n rest
    else if n ≤ l - off then (if n = 0 then [] else [(a + off, n)])
    else (a + off, l - off) :: cutPieces 0 (n - (l - off)) rest

/-- Pages that areas of the logical space, apart from one another, cover in whole. -/
def wholePages (as : List (Nat × Nat)) : List Nat :=
  let ps := as.flatMap (fun a => logicalPieces a.1 a.2)
  (ps.map (fun p => p.1)).eraseDups.filter (fun p => ((ps.filter (fun q => q.1 = p)).map (fun q => q.2.2.1)).sum = 65536)

/-- Host to device: pages in order. POISON of a page that the whole transfer covers is cleared at its last byte; any other
write to a poisoned page ends the transfer (R229, R440). -/
def xferIn (whole : List Nat) (v : Nat) : List (Nat × Nat × Nat × Nat) → Device → Device × Nat × Option (BitVec 8)
  | [], d => (d, 0, none)
  | (p, off, k, at_) :: rest, d =>
    let e := d.res p
    if resPoison e && !whole.contains p then (d, at_, some (classCode e))
    else
      let d := writePage p off k ((v >>> (8 * at_)) % 2 ^ (8 * k)) d
      let d := if resPoison e && off + k = 65536 then d.setRes p (setField (d.res p) 7 1 0) else d
      let r := xferIn whole v rest d
      (r.1, max r.2.1 (at_ + k), r.2.2)

/-- Device to host: the bytes before the first poisoned page. -/
def xferOut (d : Device) : List (Nat × Nat × Nat × Nat) → Nat × Nat × Option (BitVec 8)
  | [] => (0, 0, none)
  | (p, off, k, at_) :: rest =>
    let e := d.res p
    if resPoison e then (0, at_, some (classCode e))
    else
      let r := xferOut d rest
      (r.1 + (readPage d p off k <<< (8 * at_)), max r.2.1 (at_ + k), r.2.2)

def checkXfer : Check := fun _ x =>
  let list := bitOf (x.arg 1 1) 0
  let n := x.arg 0x18 8
  argOk (x.arg 0 1 ≤ 1 && x.arg 1 1 ≤ 1 && x.arg 2 6 = 0 && x.arg 8 8 % 16 = 0 && x.arg 0x10 8 % 16 = 0
    && (if list then between n 1 65536 else n % 16 = 0 && x.arg 0x10 8 + n ≤ 2 ^ 40))

def finishXfer (m n : Nat) (e : Option (BitVec 8)) (d : Device) : Device :=
  let d := reply m 0 8 n d
  match e with | some c => endFailed m c d | none => endDone m d

/-- Device to host: an entry that fails stops the transfer there, if no poisoned page lies before it (R229). -/
def xferRead (m : Nat) (err : TierErr) (a n : Nat) (d : Device) : Nat × Nat × Option (BitVec 8) × Device :=
  let bad := match err with
    | some (x, .uncorrected) => if tierMeets err a n d then some x.toNat else none
    | _ => none
  match bad with
  | some x =>
    let r := xferOut d (logicalPieces a (x / 512 * 512 - a))
    if r.2.2.isSome then (r.1, r.2.1, r.2.2, d)
    else (r.1, r.2.1, some (classCode (d.res (x / 65536))), tierFound (some m) err a n d)
  | none =>
    let r := xferOut d (logicalPieces a n)
    (r.1, r.2.1, r.2.2, tierFound (some m) err a r.2.1 d)

/-- Host to device: an entry the transfer covers only in part is read first, and one that fails stops it there. -/
def xferWrite (m : Nat) (whole : List Nat) (err : TierErr) (a n v : Nat) (d : Device) : Device × Nat × Option (BitVec 8) :=
  match err, partEntry err a n with
  | some (_, .uncorrected), some e =>
    if tierMeets err e 512 d then
      let r := xferIn whole v (logicalPieces a (e - a)) d
      if r.2.2.isSome then r else (tierFound (some m) err e 512 r.1, e - a, some (classCode (d.res (e / 65536))))
    else xferIn whole v (logicalPieces a n) d
  | _, _ => xferIn whole v (logicalPieces a n) (writeFound (some m) err a n d)

/-- A row of an XFER has moved the bytes below `b`: the command ends, or waits for its row again. -/
def xferMoved (m n b : Nat) (bad : Bool) (e : Option (BitVec 8)) (d : Device) : Device :=
  match e with
  | some c => finishXfer m b (some c) d
  | none => if bad then finishXfer m b (some 0x02) d else if b = n then finishXfer m n none d else waitWork m none b b d

/-- XFER: bytes move in order, up to block `upto`, to the byte `host` at which host memory answers with an error
completion (R440), or to the end. -/
def runXfer (upto host : Option Nat) (err : TierErr) (m : Nat) (d : Device) : Device :=
  let x := d.mb m
  let from_ := x.workDone.1
  match hostPieces d x with
  | none => finishXfer m from_ (some 0x02) d
  | some ps =>
    let n := (ps.map (·.2)).sum
    let a := x.arg 0x10 8
    if 2 ^ 40 < a + n then finishXfer m from_ (some 0x02) d
    else if anyInvalid d (pagesOf a n) then finishXfer m from_ (some 0x13) d
    else
      let stop := max from_ (upto.elim n (fun k => min n (4096 * k)))
      let bad := host.filter (fun e => from_ ≤ e && decide (e < stop))
      let k := bad.getD stop - from_
      let part := cutPieces from_ k ps
      if x.arg 0 1 = 0 then
        let r := xferWrite m (wholePages [(a, n)]) err (a + from_) k (gatherHost d part) d
        xferMoved m n (from_ + r.2.1) bad.isSome r.2.2 r.1
      else
        let r := xferRead m err (a + from_) k d
        xferMoved m n (from_ + r.2.1) bad.isSome r.2.2.1 (scatterHost r.1 r.2.1 part r.2.2.2)

/-- Transfers start in the order of their acceptance, at most four at once (R440), and wait while the function masters no
bus cycle (R412). -/
def canMaster (d : Device) (m : Nat) : Bool :=
  busOn d m && firstOf [0x20] d m && ((List.range 16).filter (fun k => (d.mb k).opcode = 0x20 && (d.mb k).between)).length < 4

def execXfer (m : Fin 16) (err : TierErr) (s : State) (upto : Option Nat := none) (host : Option Nat := none) :
    Host.Outcome State Fault Refusal :=
  .next (s.upd (hostWork 0x20 checkXfer canMaster busOn (runXfer upto host err) m.val))

/-! ### Page commands (R430) -/

def pageRange (first n : Nat) : Bool := 1 ≤ n && first + n ≤ 16777216

def checkAlloc : Check := fun _ x =>
  let f := x.arg 8 2
  argOk (f < 16 && bitsOf f 2 2 != 3 && (x.arg 10 1 ≤ 15 || x.arg 10 1 = 0xFF) && x.arg 11 5 = 0
    && (if x.arg 0 4 = 0xFFFFFFFF then between (x.arg 4 4) 1 16777216 else pageRange (x.arg 0 4) (x.arg 4 4)))

/-- The home of a host page: the preferred tier first. -/
def hostHome (d : Device) (tier home : Nat) : Option Nat :=
  let h := if home = 0xFF then none else some home
  if tier = 2 then (bestHome d 0 farHomes).orElse (fun _ => pickHome d h) else pickHome d h

def allocRange (x : Mailbox) (base : Nat) (d : Device) : Option Device :=
  let f := x.arg 8 2
  (List.range (x.arg 4 4)).foldl (fun (o : Option Device) k =>
    o.bind (fun d => (hostHome d (bitsOf f 2 2) (x.arg 10 1)).bind (fun u => allocPage (base + k) (bitOf f 0) (bitOf f 1) u d)))
    (some d)

def runAlloc (m : Nat) (d : Device) : Device :=
  let x := d.mb m
  let n := x.arg 4 4
  let first := x.arg 0 4
  if first != 0xFFFFFFFF && (List.range n).any (fun k => resValid (d.res (first + k))) then endFailed m 0x13 d
  else
    match (if first = 0xFFFFFFFF then lowestRun d (fun _ => true) n else some first) with
    | none => endFailed m 0x12 d
    | some b =>
      match allocRange x b d with
      | some d' => endChange m ((List.range n).map (· + b)) (reply m 0 4 b d')
      | none => endFailed m 0x12 d

def execPageAlloc (m : Fin 16) (s : State) : Host.Outcome State Fault Refusal :=
  .next (s.upd (hostCmd 0x21 checkAlloc canAlways runAlloc m.val))

/-- The page belongs to a placed section: a segment, a frame store, the report area. -/
def ownedPage (d : Device) (p : Nat) : Bool :=
  d.sections.any (fun s =>
    s.segBase.zipIdx.any (fun e => e.1 ≤ p && p < e.1 + segPages s.pkg e.2)
      || (s.storeBase.zip s.storePages).any (fun e => e.1 ≤ p && p < e.1 + e.2)
      || (s.storePages != [] && s.reportBase ≤ p && p < s.reportBase + 3))

def checkFree : Check := fun d x =>
  allOf [argOk (pageRange (x.arg 0 4) (x.arg 4 4)),
    if (List.range (x.arg 4 4)).any (fun k => ownedPage d (x.arg 0 4 + k)) then 0x03 else 0]

def runFree (m : Nat) (d : Device) : Device :=
  let x := d.mb m
  let ps := (List.range (x.arg 4 4)).map (· + x.arg 0 4)
  endChange m ps (freePages ps d)

def execPageFree (m : Fin 16) (s : State) : Host.Outcome State Fault Refusal :=
  .next (s.upd (hostCmd 0x22 checkFree canAlways runFree m.val))

def checkMove : Check := fun _ x =>
  let t := x.arg 8 1
  argOk (pageRange (x.arg 0 4) (x.arg 4 4) && (t < 16 || between t 0x20 0x37) && x.arg 9 7 = 0)

def runMove (m : Nat) (d : Device) : Device :=
  let x := d.mb m
  let todo := (List.range (x.arg 4 4)).map (· + x.arg 0 4)
  pageMoveStep m (d.updMb m (fun y => { y with job := .moving (x.arg 8 1) todo [] 0 0 }))

/-- The row again lets a command whose moves had no free slot go on. -/
def moveRow (m : Nat) (d : Device) : Device :=
  if (d.mb m).opcode = 0x23 && (d.mb m).state = .running && serviceOn d then pageMoveStep m d
  else hostCmd 0x23 checkMove canAlways runMove m d

def execPageMove (m : Fin 16) (s : State) : Host.Outcome State Fault Refusal := .next (s.upd (moveRow m.val))

def checkQuery : Check := fun _ x => argOk (pageRange (x.arg 0 4) (x.arg 4 4) && x.arg 4 4 ≤ 1024)

def runQuery (m : Nat) (d : Device) : Device :=
  let x := d.mb m
  endDone m ((List.range (x.arg 4 4)).foldl (fun d k => reply m (8 * k) 8 (d.res (x.arg 0 4 + k)).toNat d) d)

def execPageQuery (m : Fin 16) (s : State) : Host.Outcome State Fault Refusal :=
  .next (s.upd (hostCmd 0x24 checkQuery canAlways runQuery m.val))

/-! ### EXPORT and IMPORT (R345, R346, R433) -/

/-- A run of bytes: how many, and their value. -/
abbrev Bytes := Nat × Nat

def joinBytes (bs : List Bytes) : Bytes := bs.foldl (fun a b => (a.1 + b.1, a.2 + (b.2 <<< (8 * a.1)))) (0, 0)

/-- The groups taken. -/
def takenGroups (sec : Section) (x : Mailbox) : List Nat :=
  let first := x.arg 6 1
  let n := if x.arg 7 1 = 0 then groupCount sec.pkg - first else x.arg 7 1
  (List.range n).map (· + first)

/-- States of a group. -/
def groupStates (m : Memory) (g : Nat) : Nat := (stateCount (gField m g 3 1) (gField m g 2 1 != 0xFF)).getD 0

def stateBytes (m : Memory) (g : Nat) : Nat := stateWidth m g * groupStates m g * gTiles m g * gRows m g * gCols m g

/-- Areas of the logical space that hold a group: its parameter regions and its state. -/
def groupAreas (sec : Section) (g : Nat) : List (Nat × Nat) :=
  let m := sec.pkg
  (List.range (gTiles m g)).map (fun k => (paramAddr sec g k, 512 * (gShape m g).units))
    ++ (if stateBytes m g = 0 then [] else [(stateAddr sec g 0 0, stateBytes m g)])

/-- The three parts of the stored form of a group (R345). -/
def storedParts (d : Device) (sec : Section) (g : Nat) : List Bytes :=
  (64, fld sec.pkg (groupOff sec.pkg g) 64) :: (groupAreas sec g).map (fun a => (a.2, readLogical d a.1 a.2))

/-- Shape of a shard: rows, columns, tiles across. -/
def shardRows (m : Memory) (g : Nat) : Nat := gRows m g * gTiles m g / max 1 (gField m g 0x14 2)
def shardCols (m : Memory) (g : Nat) : Nat := gCols m g * gField m g 0x14 2

/-- Tile, row and column of a shard position (R323). -/
def shardTile (m : Memory) (g r c : Nat) : Nat × Nat × Nat :=
  (r / gRows m g * gField m g 0x14 2 + c / gCols m g, r % gRows m g, c % gCols m g)

/-- Width in bits of an element of a shard record; KIND 0 parameters, 1 and 2 the states. -/
def shardBits (m : Memory) (g kind : Nat) : Nat := if kind = 0 then (gFmt m g).bits else 8 * stateWidth m g

/-- Bit address of an element: byte address and bit. -/
def elementAt (sec : Section) (g kind r c : Nat) : Nat × Nat :=
  let m := sec.pkg
  let t := shardTile m g r c
  if kind = 0 then
    let s := gShape m g
    let bit := 4096 * s.scaleUnits + s.fmt.bits * s.pos t.2.1 t.2.2
    (paramAddr sec g t.1 + bit / 8, bit % 8)
  else (stateAddr sec g (kind - 1) (t.1 * gRows m g * gCols m g + t.2.1 * gCols m g + t.2.2), 0)

/-- Bytes of a shard row, of the elements and of the scales of a record. -/
def rowBytes (m : Memory) (g kind : Nat) : Nat := (shardCols m g * shardBits m g kind + 7) / 8
def shardElems (m : Memory) (g kind : Nat) : Nat := shardRows m g * rowBytes m g kind
def shardScales (m : Memory) (g kind : Nat) : Nat := if kind = 0 then (gShape m g).blocks * gTiles m g else 0

/-- The header of a shard record. -/
def shardHeader (m : Memory) (g kind : Nat) : Nat :=
  let fmt := if kind = 0 then gField m g 4 1 else gField m g 6 1
  let scale := if kind = 0 then gField m g 5 1 else 0
  fld m (groupOff m g + 0x20) 16 + (shardRows m g <<< 128) + (shardCols m g <<< 160) + (kind <<< 192) + (fmt <<< 200)
    + (scale <<< 208) + (shardElems m g kind <<< 256) + (shardScales m g kind <<< 320)

/-- One row of a shard's elements. -/
def shardRow (d : Device) (sec : Section) (g kind r : Nat) : Bytes :=
  let m := sec.pkg
  let w := shardBits m g kind
  (rowBytes m g kind, (List.range (shardCols m g)).foldl (fun acc c =>
    let a := elementAt sec g kind r c
    acc + (bitsOf (readLogical d a.1 ((a.2 + w + 7) / 8)) a.2 w <<< (w * c))) 0)

def shardRecord (d : Device) (sec : Section) (g kind : Nat) : Bytes :=
  let m := sec.pkg
  joinBytes ([(64, shardHeader m g kind)] ++ (List.range (shardRows m g)).map (shardRow d sec g kind)
    ++ (if kind = 0 then (List.range (gTiles m g)).map (fun k => ((gShape m g).blocks, readLogical d (paramAddr sec g k) (gShape m g).blocks))
        else []))

/-- The shard records of a group: its parameters, and each of its states (R346). -/
def shardParts (d : Device) (sec : Section) (g : Nat) : List Bytes :=
  (List.range (1 + groupStates sec.pkg g)).map (shardRecord d sec g)

/-- What an EXPORT writes, part by part. -/
def exportParts (d : Device) (sec : Section) (x : Mailbox) : List Bytes :=
  (takenGroups sec x).flatMap (if x.arg 4 1 = 1 then shardParts d sec else storedParts d sec)

/-- The first error among areas of the logical space (R440). -/
def areaFault (d : Device) (as : List (Nat × Nat)) : Option (BitVec 8) :=
  if as.any (fun a => anyInvalid d (pagesOf a.1 a.2)) then some 0x13
  else as.findSome? (fun a => ((pagesOf a.1 a.2).find? (fun p => resPoison (d.res p))).map (fun p => classCode (d.res p)))

/-- A poisoned page that a write covers only in part. -/
def partPoison (d : Device) (a n : Nat) : Option (BitVec 8) :=
  (logicalPieces a n).findSome? (fun p => if resPoison (d.res p.1) && p.2.2.1 != 65536 then some (classCode (d.res p.1)) else none)

/-- R229: the code of a poisoned page that a rewrite of areas covers only in part. -/
def rewriteFault (d : Device) (as : List (Nat × Nat)) : Option (BitVec 8) :=
  let whole := wholePages as
  (as.flatMap (fun a => pagesOf a.1 a.2)).findSome? (fun p =>
    if resPoison (d.res p) && !whole.contains p then some (classCode (d.res p)) else none)

/-- R229: the host rewrites all of these pages, and POISON is cleared. -/
def clearPoison (ps : List Nat) (d : Device) : Device := ps.foldl (fun d p => d.setRes p (setField (d.res p) 7 1 0)) d

/-- Write bytes to the logical space, clearing POISON of the pages that the whole command writes. -/
def writeArea (whole : List Nat) (a n v : Nat) (d : Device) : Device := (xferIn whole v (logicalPieces a n) d).1

def checkState : Check := fun d x =>
  let form := x.arg 4 1
  allOf [argOk (form ≤ 1 && x.arg 5 1 ≤ 1 && x.arg 8 8 % 16 = 0),
    if form = 1 && bitsOf (strapWord d) 10 2 != 3 then 0x01 else 0,
    naming d (x.arg 0 4) (fun s =>
      if s.state = .halted || !hasTraining s.pkg || groupCount s.pkg ≤ x.arg 6 1 || groupCount s.pkg < x.arg 6 1 + x.arg 7 1 then 0x02
      else if s.state = .preempted || sectionBusy d s.handle then 0x03
      else 0)]

/-- A row of an EXPORT or IMPORT has handled the parts below `k`, `b` bytes: the command ends, or waits for its row. -/
def partsMoved (m h n k b : Nat) (d : Device) : Device :=
  if k = n then finishXfer m b none d else waitWork m (some h) k b d

/-- How many of `n` parts are handled once a row has taken the command as far as `upto`. -/
def partsStop (x : Mailbox) (n : Nat) (upto : Option Nat) : Nat := max x.workDone.1 (upto.elim n (min n))

def runExport (upto : Option Nat) (err : TierErr) (m : Nat) (d : Device) : Device :=
  let x := d.mb m
  match d.section? (x.arg 0 4) with
  | none => endFailed m 0x02 d
  | some sec =>
    let gs := takenGroups sec x
    let a := x.arg 8 8
    let d := (gs.flatMap (groupAreas sec)).foldl (fun d g => tierFound (some m) err g.1 g.2 d) d
    match areaFault d (gs.flatMap (groupAreas sec)) with
    | some e => finishXfer m x.workDone.2 (some e) d
    | none =>
      let parts := exportParts d sec x
      let all := (parts.map (·.1)).sum
      let k := partsStop x parts.length upto
      let out := joinBytes ((parts.take k).drop x.workDone.1)
      let at_ := a + x.workDone.2
      let moved := partsMoved m sec.handle parts.length k (x.workDone.2 + out.1)
      if x.arg 0x10 8 < all then finishXfer m all (some 0x02) d
      else if x.arg 5 1 = 0 then moved (scatterHost out.2 out.1 [(at_, out.1)] d)
      else if 2 ^ 40 < a + all then finishXfer m 0 (some 0x02) d
      else if anyInvalid d (pagesOf a all) then finishXfer m x.workDone.2 (some 0x13) d
      else
        let d := writeFound (some m) err at_ out.1 d
        match rewriteFault d [(a, all)] with
        | some e => finishXfer m x.workDone.2 (some e) d
        | none => moved (writeArea (wholePages [(a, all)]) at_ out.1 out.2 d)

/-- Commands of the state wait for the bus as they start and as they go on. -/
def canState (d : Device) (m : Nat) : Bool := !(d.host.d3 && (d.mb m).arg 5 1 = 0)

def execExport (m : Fin 16) (err : TierErr) (s : State) (upto : Option Nat := none) : Host.Outcome State Fault Refusal :=
  .next (s.upd (hostWork 0x30 checkState canState canState (runExport upto err) m.val))

/-- Every group record of a stored stream is the section's own, but for ARGS_ADDR, and the stream holds whole groups. -/
def storedOk (sec : Section) (gs : List Nat) (len v : Nat) : Bool :=
  let m := sec.pkg
  let sizes := gs.map (fun g => 64 + 512 * (gShape m g).units * gTiles m g + stateBytes m g)
  len = sizes.sum && gs.zipIdx.all (fun e =>
    let r := bitsOf v (8 * (sizes.take e.2).sum) 512
    let own := fld m (groupOff m e.1) 64
    bitsOf r 0 192 = bitsOf own 0 192 && r >>> 256 = own >>> 256)

/-- A part of an imported stream: its bytes, and what writing it does. -/
abbrev ImportPart := Nat × (Device → Device)

/-- The parts of a stored stream: a group record writes nothing, the others go to their places (R345). -/
def storedImport (sec : Section) (gs : List Nat) (v : Nat) : List ImportPart :=
  (gs.foldl (fun (a : List ImportPart × Nat) g =>
    (groupAreas sec g).foldl (fun (a : List ImportPart × Nat) r =>
      let part : ImportPart := (r.2, writeLogical r.1 r.2 (bitsOf v (8 * a.2) (8 * r.2)))
      (a.1 ++ [part], a.2 + r.2)) (a.1 ++ [(64, id)], a.2 + 64)) ([], 0)).1

/-- The shard records of a stream: offset, group, KIND; none where a record matches no group taken, ends early, or has
another ROWS, COLS, FMT or SCALE than the group's. The other bytes of a header are not compared (R346). -/
def shardRecords (m : Memory) (gs : List Nat) (v len : Nat) : Nat → Nat → Option (List (Nat × Nat × Nat))
  | 0, _ => none
  | fuel + 1, at_ =>
    if at_ = len then some []
    else
      let h := bitsOf v (8 * at_) 512
      let kind := bitsOf h 192 8
      match gs.find? (fun g => kind ≤ groupStates m g && bitsOf h 0 64 = fld m (groupOff m g + 0x20) 8) with
      | none => none
      | some g =>
        let n := 64 + shardElems m g kind + shardScales m g kind
        if at_ + n ≤ len && bitsOf h 128 88 = bitsOf (shardHeader m g kind) 128 88 then (shardRecords m gs v len fuel (at_ + n)).map (fun r => (at_, g, kind) :: r)
        else none

/-- Write an element's bits. -/
def writeBits (a : Nat × Nat) (w v : Nat) (d : Device) : Device :=
  let n := (a.2 + w + 7) / 8
  let old := readLogical d a.1 n
  writeLogical a.1 n (old - (bitsOf old a.2 w <<< a.2) + ((v % 2 ^ w) <<< a.2)) d

/-- One shard record goes to its stored places. -/
def importShard (sec : Section) (v : Nat) (r : Nat × Nat × Nat) (d : Device) : Device :=
  let m := sec.pkg
  let (at_, g, kind) := r
  let w := shardBits m g kind
  let body := v >>> (8 * (at_ + 64))
  let d := (List.range (shardRows m g)).foldl (fun d i => (List.range (shardCols m g)).foldl (fun d c =>
    writeBits (elementAt sec g kind i c) w (bitsOf body (8 * rowBytes m g kind * i + w * c) w) d) d) d
  if kind = 0 then
    let n := (gShape m g).blocks
    (List.range (gTiles m g)).foldl (fun d k =>
      writeLogical (paramAddr sec g k) n (bitsOf body (8 * (shardElems m g 0 + n * k)) (8 * n)) d) d
  else d

/-- The areas a shard record is written to. -/
def recordAreas (sec : Section) (r : Nat × Nat × Nat) : List (Nat × Nat) :=
  let m := sec.pkg
  let (_, g, kind) := r
  if kind = 0 then (List.range (gTiles m g)).map (fun k => (paramAddr sec g k, 512 * (gShape m g).units))
  else [(stateAddr sec g (kind - 1) 0, stateWidth m g * gTiles m g * gRows m g * gCols m g)]

/-- Bytes of a shard record in its stream. -/
def recordBytes (m : Memory) (r : Nat × Nat × Nat) : Nat := 64 + shardElems m r.2.1 r.2.2 + shardScales m r.2.1 r.2.2

def runImport (upto : Option Nat) (err : TierErr) (m : Nat) (d : Device) : Device :=
  let x := d.mb m
  let len := x.arg 0x10 8
  let d := if x.arg 5 1 = 1 then tierFound (some m) err (x.arg 8 8) len d else d
  match d.section? (x.arg 0 4), stageBytes d (x.arg 5 1 = 1) (x.arg 8 8) len with
  | none, _ => endFailed m 0x02 d
  | _, .error e => finishXfer m x.workDone.2 (some e) d
  | some sec, .ok st =>
    let gs := takenGroups sec x
    let v := fld st 0 len
    let shard := x.arg 4 1 = 1
    let recs := shardRecords sec.pkg gs v len (len / 64 + 1) 0
    let d := (gs.flatMap (groupAreas sec)).foldl (fun d a => writeFound (some m) err a.1 a.2 d) d
    let areas := if shard then (recs.getD []).flatMap (recordAreas sec) else gs.flatMap (groupAreas sec)
    if !(if shard then recs.isSome else storedOk sec gs len v) then finishXfer m x.workDone.2 (some 0x02) d
    else if areas.any (fun a => anyInvalid d (pagesOf a.1 a.2)) then finishXfer m x.workDone.2 (some 0x13) d
    else
      match rewriteFault d areas with
      | some e => finishXfer m x.workDone.2 (some e) d
      | none =>
        let parts := if shard then (recs.getD []).map (fun r => (recordBytes sec.pkg r, importShard sec v r)) else storedImport sec gs v
        let k := partsStop x parts.length upto
        let d := ((parts.take k).drop x.workDone.1).foldl (fun d p => p.2 d) d
        let d := if k = parts.length then clearPoison (wholePages areas) d else d
        partsMoved m sec.handle parts.length k ((parts.take k).map (·.1)).sum d

def execImport (m : Fin 16) (err : TierErr) (s : State) (upto : Option Nat := none) : Host.Outcome State Fault Refusal :=
  .next (s.upd (hostWork 0x31 checkState canState canState (runImport upto err) m.val))

/-! ### SETTINGS (R431) -/

/-- Writable bits of an item. -/
def settingMask (item : Nat) : Option Nat :=
  match item with
  | 1 => some 0xFFFFFFFFFFFF00FF
  | 2 => some 0xFFFF0001
  | 3 => some 7
  | 4 => some 0x3FF
  | 5 => some 0xFFFFFFFF00FF
  | _ => none

def settingNow (d : Device) (item : Nat) : Nat :=
  match item with
  | 1 => migCfg d.tiers
  | 2 => trainCfg d.training
  | 3 => schedCfg d.sched
  | 4 => d.set.dims.toNat
  | _ => lnkCfg d.set

def settingNew (d : Device) (x : Mailbox) : Nat :=
  let old := settingNow d (x.arg 0 2)
  let mask := x.arg 16 8
  old - (old &&& mask) + (x.arg 8 8 &&& mask)

/-- FALLBACK_POLICY 0b11 is reserved (R375). -/
def checkSettings : Check := fun d x =>
  match settingMask (x.arg 0 2) with
  | none => 0x02
  | some w => argOk (x.arg 2 6 = 0 && x.arg 16 8 - (x.arg 16 8 &&& w) = 0 && !(x.arg 0 2 = 3 && settingNew d x % 4 = 3))

/-- Write a setting; routes follow LNK_DIMS at once unless a set is formed (R391). -/
def setSetting (item v : Nat) (d : Device) : Device :=
  match item with
  | 1 => { d with tiers := { d.tiers with promote := BitVec.ofNat 8 v, demoteLow := BitVec.ofNat 16 (v >>> 16),
                                          demoteHigh := BitVec.ofNat 16 (v >>> 32), decayS := BitVec.ofNat 16 (v >>> 48) } }
  | 2 => { d with training := { d.training with repair := BitVec.ofNat 1 v, interval := BitVec.ofNat 16 (v >>> 16) } }
  | 3 => { d with sched := { d.sched with policy := BitVec.ofNat 2 v, autoResume := BitVec.ofNat 1 (v >>> 2) } }
  | 4 =>
    let dims := BitVec.ofNat 10 v
    let keep := d.set.state = 2 || d.set.state = 3
    { d with set := { d.set with dims := dims, dimsActive := if keep then d.set.dimsActive else dims } }
  | _ => { d with set := { d.set with heartbeatMs := BitVec.ofNat 8 v, formTimeout := BitVec.ofNat 16 (v >>> 16),
                                      bcastTimeout := BitVec.ofNat 16 (v >>> 32) } }

def runSettings (m : Nat) (d : Device) : Device :=
  let x := d.mb m
  let item := x.arg 0 2
  let old := settingNow d item
  let d := setSetting item (settingNew d x) d
  endDone m (reply m 0 16 (old + (settingNow d item <<< 64)) d)

def execSettings (m : Fin 16) (s : State) : Host.Outcome State Fault Refusal :=
  .next (s.upd (hostCmd 0x40 checkSettings canAlways runSettings m.val))

/-! ### REG_READ (R432) -/

def checkRegs : Check := fun _ x =>
  let b := x.arg 0 1
  let uid := x.arg 2 2
  let col := uidCol uid
  argOk (b ≤ 10 && x.arg 1 1 ≤ 1 && x.arg 4 2 % 8 = 0 && between (x.arg 6 2) 1 1024
    && !((b = 1 || b = 2) && 10 ≤ col) && !(b = 1 && col % 2 = 0) && !(b = 2 && col % 2 = 1) && !(5 ≤ b && uid != 0))

def runRegs (m : Nat) (d : Device) : Device :=
  let x := d.mb m
  let r := readRegs (x.arg 0 1) (x.arg 2 2) (bitOf (x.arg 1 1) 0) (x.arg 6 2) (x.arg 4 2) d
  endDone m (r.1.zipIdx.foldl (fun d e => reply m (8 * e.2) 8 e.1 d) r.2)

def execRegRead (m : Fin 16) (s : State) : Host.Outcome State Fault Refusal :=
  .next (s.upd (hostCmd 0x43 checkRegs canAlways runRegs m.val))

/-! ### METER_READ, METER_JOBS, LOG_READ (R502, R518, R519) -/

/-- A request goes on the meter bus, and the command waits for the answer. -/
def askMeter (m : Nat) (f : MeterFrame) (d : Device) : Device :=
  let d := d.updMb m (fun x => { x with job := .meter d.now })
  d.updMeter (fun y => { y with bus := y.bus ++ [f], waiting := y.waiting ++ [(some m, d.now)] })

def execMeterRead (m : Fin 16) (s : State) : Host.Outcome State Fault Refusal :=
  .next (s.upd (hostCmd 0x50 (fun _ _ => 0) canAlways (fun m => askMeter m (.readRequest (some m))) m.val))

def checkJobs : Check := fun _ x => argOk (between (x.arg 4 2) 1 128 && x.arg 6 2 = 0)

def execMeterJobs (m : Fin 16) (s : State) : Host.Outcome State Fault Refusal :=
  .next (s.upd (hostCmd 0x51 checkJobs canAlways
    (fun m d => askMeter m (.jobsRequest m ((d.mb m).arg 0 4) ((d.mb m).arg 4 2)) d) m.val))

def checkLog : Check := fun _ x => argOk (between (x.arg 8 4) 1 128 && x.arg 12 4 = 0)

/-- The retained record of a sequence number: its place holds it and its CRC passes. -/
def almanacRecord (d : Device) (s : Nat) : Option Nat :=
  let v := fld d.mgmt.store (almanacAt s) 64
  if bitsOf v 0 64 = s && v >>> 480 = (crc32 (natToBytes 60 (v % 2 ^ 480))).toNat then some v else none

def runLog (m : Nat) (d : Device) : Device :=
  let x := d.mb m
  let next := d.mgmt.almanacNext.toNat
  let first := max (max 1 (x.arg 0 8)) (next - 1048576)
  let rs := ((List.range (next - first)).filterMap (fun k => almanacRecord d (first + k))).take (x.arg 8 4)
  endDone m (rs.zipIdx.foldl (fun d e => reply m (64 * e.2) 64 e.1 d) d)

def execLogRead (m : Fin 16) (s : State) : Host.Outcome State Fault Refusal :=
  .next (s.upd (hostCmd 0x60 checkLog canAlways runLog m.val))

end Sys2Proof.Machine
end

