-- ==== Sys2Proof/Machine/IdentityCommands.lean ====
section
/-!
DEFINITION. Machine/IdentityCommands.lean: configuration images, firmware update, identity, attestation, debug unlock and
zeroize (R465 to R467, R473, R487 to R497).
-/
namespace Sys2Proof.Machine

/-! ### Configuration images (R466, R467) -/

/-- Store offset of a region: 0 slot A, 1 slot B, 2 golden (Table 14.8). -/
def regionAt_ (r : Nat) : Nat := match r with | 0 => 0x10000000 | 1 => 0x20000000 | _ => 0

def imageFrames_ (m : Memory) : Nat := fld m 0x18 4
def imageVersion (m : Memory) : Nat := fld m 0x1C 4
/-- Bytes of an image, from its header. -/
def imageLength (m : Memory) : Nat := imageFrames_ m * 4116 + 256

def componentAt (i : Nat) : Nat := 0x30 + 16 * i
def componentCount (m : Memory) : Nat := fld m 0x16 2

/-- One component record follows the one before it. -/
def componentOk (m : Memory) (i : Nat) : Bool :=
  let a := componentAt i
  let before := ((List.range i).map (fun j => fld m (componentAt j + 8) 4)).sum
  fld m a 1 = i && fld m (a + 1) 1 ≤ 5 && (fld m (a + 1) 1 = 0) == (i = 0) && zeroAt m (a + 2) 2 && fld m (a + 4) 4 = before
    && fld m (a + 8) 4 != 0 && fld m (a + 12) 4 ≤ 4096 * fld m (a + 8) 4

def imageHeaderOk (m : Memory) : Bool :=
  let n := componentCount m
  fld m 0x10 4 = 0x474D4943 && fld m 0x14 2 = 1 && between n 2 32 && zeroAt m 0x24 12
    && (List.range n).all (componentOk m) && ((List.range n).map (fun j => fld m (componentAt j + 8) 4)).sum = imageFrames_ m

/-- R450 for an image frame at its place; the image form is chosen by TARGET alone (log entry 62). -/
def inImage (m f : Memory) : Bool :=
  let c := bitsOf (frAddr f) 24 8
  let n := bitsOf (frAddr f) 0 24
  c < componentCount m && n < fld m (componentAt c + 8) 4

/-- A stream rejected with FRAME_CHECK (Table 14.11). -/
def countReject (d : Device) : Device := { d with boot := { d.boot with rejectCheck := satAdd d.boot.rejectCheck 1 } }

/-- R467: the code with which an image fails its check. -/
def imageFault (d : Device) (m : Memory) (floor : Nat) : Device × Option (BitVec 8) :=
  if 0x10000000 < imageLength m then (countReject d, some 0x20)
  else if !signatureOk d.mgmt.imageKeys m (imageLength m) then (d, some 0x22)
  else
    let r := checkFrames 2 (inImage m) 0 ((List.range (imageFrames_ m)).map (fun k => cutMem m (4116 * k) 4116))
    let d := countFrames r d
    match r.2 with
    | some (e, _) => (d, some e)
    | none =>
      if !imageHeaderOk m then (countReject d, some 0x20)
      else if imageVersion m < floor then (d, some 0x23)
      else (d, none)

/-- The image in a region of the store. -/
def storedImage (d : Device) (r : Nat) : Memory :=
  let a := regionAt_ r
  let n := min 0x10000000 (fld d.mgmt.store (a + 0x18) 4 * 4116 + 256)
  cutMem d.mgmt.store a n

/-- Erase a region and program an image (an erased byte reads 0, log entry 5). -/
def programRegion (r : Nat) (m : Memory) (d : Device) : Device :=
  let a := regionAt_ r
  let n := imageLength m
  d.updMgmt (fun g => { g with store := Ram.blit (Ram.clear g.store a 0x10000000) a n (fld m 0 n) })

/-- The image that a command names: its header gives its length. -/
def fetchImage (d : Device) (logical : Bool) (a : Nat) : Except (BitVec 8) Memory :=
  match stageBytes d logical a 64 with
  | .error e => .error e
  | .ok h => if 0x10000000 < imageLength h then .error 0x20 else stageBytes d logical a (imageLength h)

/-- The bytes that a command's image takes in the logical space, as far as its header can be read. -/
def imageSpan (d : Device) (a : Nat) : Nat :=
  match stageBytes d true a 64 with
  | .error _ => 64
  | .ok h => if 0x10000000 < imageLength h then 64 else max 64 (imageLength h)

/-- What the reads of a command's image find, when it lies in the logical space (SOURCE 1). -/
def imageRead (m : Nat) (err : TierErr) (x : Mailbox) (d : Device) : Device :=
  if x.arg 0 1 = 1 then tierFound (some m) err (x.arg 8 8) (imageSpan d (x.arg 8 8)) d else d

/-- The commands that run one at a time, in acceptance order (R487). -/
def serialOps : List Nat := [0x70, 0x71, 0x72, 0x73, 0x75, 0x77]

/-- None of them runs, and none accepted earlier waits. -/
def serialFree (d : Device) (m : Nat) : Bool :=
  firstOf serialOps d m && !(List.range 16).any (fun k => serialOps.contains (d.mb k).opcode && (d.mb k).between)

/-- Its turn has come; the fetch of a package root from host memory needs bus mastering. -/
def canSerial (root : Bool) (d : Device) (m : Nat) : Bool :=
  serialFree d m && !(root && d.host.d3 && (d.mb m).arg 0 1 = 2 && (d.mb m).arg 1 1 = 0)

/-- The checks of FW_STAGE and GOLDEN_WRITE; an image in host memory must fit the staging area (R454). -/
def checkSource : Check := fun d x =>
  argOk (x.arg 0 1 ≤ 1 && x.arg 1 7 = 0
    && (x.arg 0 1 = 1 || decide (imageLength (cutMem d.host.mem (x.arg 8 8) 64) ≤ 536870912)))

/-- FW_STAGE and GOLDEN_WRITE go in the order of R487, and their images are staged as R454 says. -/
def canImage (d : Device) (m : Nat) : Bool :=
  serialFree d m && canStage d m (imageLength (cutMem d.host.mem ((d.mb m).arg 8 8) 64))

/-- The slot that the active-slot record does not name (R488). -/
def inactiveSlot (d : Device) : Nat := 1 - activeSlot d.mgmt

/-- Erase a region of the store; a staged slot loses its mark (R489). -/
def eraseRegion (r : Nat) (d : Device) : Device :=
  d.updMgmt (fun g => { g with store := Ram.clear g.store (regionAt_ r) 0x10000000,
                               staged := if g.staged.toNat = r + 1 then 0 else g.staged })

/-- A checked image goes on: it waits, its region erased or not, or the region is programmed and read back. One that waits
after the erase leaves a region that fails its check, as one does whose read-back differs (log entry 73). -/
def programOn (region : Nat) (upto : Option (Fin 2)) (bad : Bool) (finish : Memory → Device → Device) (m : Nat) (im : Memory)
    (erased : Bool) (d : Device) : Device :=
  let wait := fun (e : Bool) (d : Device) => d.updMb m (fun x => { x with job := .programming im e })
  match upto with
  | some 0 => wait erased d
  | some _ => wait true (eraseRegion region d)
  | none => if bad then endInternal m (eraseRegion region d) else finish im (programRegion region im d)

/-- The image of a command is staged and checked, then programmed from the staged bytes (R454, R473, R489). A check that
fails touches nothing. -/
def programImage (region floor : Nat) (upto : Option (Fin 2)) (bad : Bool) (err : TierErr) (finish : Memory → Device → Device)
    (m : Nat) (d : Device) : Device :=
  let x := d.mb m
  match x.job with
  | .programming im erased => programOn region upto bad finish m im erased d
  | _ =>
    let d := imageRead m err x d
    match fetchImage d (x.arg 0 1 = 1) (x.arg 8 8) with
    | .error e => endFailed m e (if e = 0x20 then countReject d else d)
    | .ok im =>
      let r := imageFault d im floor
      match r.2 with
      | some e => endFailed m e r.1
      | none => programOn region upto bad finish m im false r.1

/-- The mark of a staged slot lasts until the next FW_STAGE (R489). -/
def dropStaged (x : Mailbox) (d : Device) : Device :=
  match x.job with
  | .programming _ _ => d
  | _ => d.updMgmt (fun g => { g with staged := 0 })

/-- FW_STAGE (R489). -/
def runStage (upto : Option (Fin 2)) (bad : Bool) (err : TierErr) (m : Nat) (d : Device) : Device :=
  let slot := inactiveSlot d
  programImage slot d.mgmt.rollbackFloor.toNat upto bad err (fun im d =>
    endDone m (reply m 0 1 slot (logCmd 0x50 0 slot m (imageVersion im)
      (d.updMgmt (fun g => { g with staged := BitVec.ofNat 2 (slot + 1) }))))) m (dropStaged (d.mb m) d)

def execFwStage (m : Fin 16) (err : TierErr) (s : State) (upto : Option (Fin 2) := none) (bad : Bool := false) :
    Host.Outcome State Fault Refusal :=
  .next (s.upd (hostWork 0x70 checkSource canImage canAlways (runStage upto bad err) m.val))

def checkCommit : Check := fun d x => argOk (x.arg 1 7 = 0 && d.mgmt.staged.toNat = x.arg 0 1 + 1)

/-- A copy replaces the older one, with SEQUENCE one higher (R488). -/
def putSlotRecord (slot : Nat) (torn : Bool) (g : Mgmt) : Mgmt :=
  let seq := fun (r : SlotRecord) => if slotRecordOk r then r.sequence.toNat + 1 else 0
  let new := slotRecord slot (BitVec.ofNat 32 (max (seq g.recordA) (seq g.recordB)))
  let new := if torn then { new with crc := ~~~new.crc } else new
  if seq g.recordA ≤ seq g.recordB then { g with recordA := new } else { g with recordB := new }

/-- The active-slot record comes to name a slot. -/
def writeSlotRecord (slot : Nat) (g : Mgmt) : Mgmt := putSlotRecord slot false g

/-- The record is written, and FW_COMMIT ends; with `hold` the write has begun, and the copy that it replaces has no correct
CRC yet, so a loss of power leaves the other copy in force (R488). -/
def finishCommit (hold : Bool) (slot m : Nat) (d : Device) : Device :=
  if hold then (d.updMgmt (putSlotRecord slot true)).updMb m (fun x => { x with job := .committing slot })
  else endDone m (logCmd 0x51 0 slot m (imageVersion (storedImage d slot)) (d.updMgmt (writeSlotRecord slot)))

/-- FW_COMMIT (R490). -/
def runCommit (hold : Bool) (m : Nat) (d : Device) : Device :=
  let slot := (d.mb m).arg 0 1
  match (d.mb m).job with
  | .committing k => if hold then d else finishCommit false k m d
  | _ =>
    if d.mgmt.staged.toNat != slot + 1 then endFailed m 0x02 d
    else
      let r := imageFault d (storedImage d slot) d.mgmt.rollbackFloor.toNat
      match r.2 with
      | some e => endFailed m e r.1
      | none => finishCommit hold slot m r.1

def execFwCommit (m : Fin 16) (s : State) (hold : Bool := false) : Host.Outcome State Fault Refusal :=
  .next (s.upd (hostWork 0x71 checkCommit (canSerial false) canAlways (runCommit hold) m.val))

/-- GOLDEN_FLOOR rises to the version written (R491). -/
def raiseGolden (m v : Nat) (d : Device) : Device :=
  if d.mgmt.goldenFloor.toNat < v then logCmd 0x56 0 1 m v (d.updMgmt (fun g => { g with goldenFloor := BitVec.ofNat 32 v })) else d

/-- GOLDEN_WRITE (R473). -/
def runGolden (upto : Option (Fin 2)) (bad : Bool) (err : TierErr) (m : Nat) (d : Device) : Device :=
  programImage 2 d.mgmt.goldenFloor.toNat upto bad err (fun im d =>
    let v := imageVersion im
    endDone m (raiseGolden m v (logCmd 0x52 0 0 m v d))) m d

def execGoldenWrite (m : Fin 16) (err : TierErr) (s : State) (upto : Option (Fin 2) := none) (bad : Bool := false) :
    Host.Outcome State Fault Refusal :=
  .next (s.upd (hostWork 0x72 checkSource canImage canAlways (runGolden upto bad err) m.val))

/-! ### DEBUG_UNLOCK, IDENTITY_*, ATTEST_QUOTE (R492 to R496) -/

def checkScope : Check := fun _ x => argOk (x.arg 0 1 ≤ 3 && x.arg 1 7 = 0)

def runUnlock (m : Nat) (d : Device) : Device :=
  let sc := (d.mb m).arg 0 1
  let d := d.updMgmt (fun g => { g with debugScope := g.debugScope ||| BitVec.ofNat 2 sc })
  endDone m (logCmd 0x53 0 sc m 0 d)

def execDebugUnlock (m : Fin 16) (s : State) : Host.Outcome State Fault Refusal :=
  .next (s.upd (hostCmd 0x73 checkScope (canSerial false) runUnlock m.val))

/-- IDENTITY_READ: the chain, cut to the reply area (log entry 7). -/
def runIdentity (m : Nat) (d : Device) : Device :=
  let certs := [0, 1, 2].map (fun k => certBytes d.mgmt k 2720)
  let lens := certs.map List.length
  let d := reply m 0 10 (3 + (lens.getD 0 0 <<< 32) + (lens.getD 1 0 <<< 48) + (lens.getD 2 0 <<< 64)) d
  let all := certs.flatten
  endDone m (reply m 10 all.length (bytesToNat all) d)

def execIdentityRead (m : Fin 16) (s : State) : Host.Outcome State Fault Refusal :=
  .next (s.upd (hostCmd 0x74 (fun _ _ => 0) canAlways runIdentity m.val))

/-- OPERATION 0x01: a new attestation key (R494); RECERT_COUNT saturates, the keys do not. -/
def newAttestKey (d : Device) : Device := d.updMgmt (fun g => { g with recert := satAdd g.recert 1, attestKey := g.attestKey + 1 })

/-- The number of the attestation key that the device holds. -/
def attestKeyNo (d : Device) : Nat := 2 + d.mgmt.attestKey

def checkRecertify : Check := fun _ x =>
  let op := x.arg 0 1
  argOk (between op 1 3 && x.arg 1 1 ≤ 1 && (op = 1 || x.arg 2 1 ≤ 15) && x.arg 3 5 = 0)

def runRecertify (err : TierErr) (m : Nat) (d : Device) : Device :=
  let x := d.mb m
  let d := if x.arg 0 1 = 2 && x.arg 1 1 = 1 then tierFound (some m) err (x.arg 8 8) 97 d else d
  let op := x.arg 0 1
  let slot := x.arg 2 1
  let finish := fun (d : Device) => endDone m (logCmd 0x54 0 op m (slot + (d.mgmt.recert.toNat <<< 8)) d)
  match op with
  | 1 => finish (newAttestKey d)
  | 2 =>
    match stageBytes d (x.arg 1 1 = 1) (x.arg 8 8) 97 with
    | .error e => endFailed m e d
    | .ok b =>
      let p := bigEndian b 0 97
      if bitsOf p 768 8 = 4 && onCurve (bitsOf p 384 384) (bitsOf p 0 384) then
        finish (d.updMgmt (fun g => { g with roots := Tab.set g.roots slot (BitVec.ofNat 776 p) }))
      else endFailed m 0x02 d
  | _ => finish (d.updMgmt (fun g => { g with roots := Tab.erase g.roots slot }))

def execIdentityRecertify (m : Fin 16) (err : TierErr) (s : State) : Host.Outcome State Fault Refusal :=
  .next (s.upd (hostCmd 0x75 checkRecertify (canSerial true) (runRecertify err) m.val))

/-- A SHA-384 digest as 48 bytes, most significant first. -/
def digestBytes (v : Nat) : Nat := bytesToNat (natToBytes 48 v).reverse

/-- ROOTS_DIGEST: the 16 slots in order, 97 bytes each. -/
def rootsDigest (d : Device) : Nat :=
  (sha384 ((List.range 16).flatMap (fun i => match Tab.find d.mgmt.roots i with
    | some p => (natToBytes 97 p.toNat).reverse
    | none => List.replicate 97 0))).toNat

/-- The quote's bytes 0x000 to 0x10F (Table 15.3). -/
def quoteBody (d : Device) (x : Mailbox) : Nat :=
  let sec := d.section? (x.arg 32 4)
  let b := d.boot
  let flags := bit01 (d.mgmt.debugScope != 0) + 2 * bit01 d.presence.maint + 4 * bit01 d.presence.sealIntact
    + 8 * bit01 b.recovery + 16 * bit01 b.fellBack + 32 * bit01 sec.isSome
  let head := 0x5451474D + (1 <<< 32) + (d.mgmt.serial.toNat <<< 64) + (x.arg 0 32 <<< 128) + (digestBytes b.digest.toNat <<< 384)
  let ids := b.version.toNat + (b.fwMajor.toNat <<< 32) + (b.fwMinor.toNat <<< 48) + (b.image.toNat <<< 64) + (flags <<< 72)
    + (strapWord d <<< 96) + (d.mgmt.rollbackFloor.toNat <<< 128) + (d.mgmt.recert.toNat <<< 160) + (d.mgmt.powerOns.toNat <<< 192)
  let pack := match sec with
    | some s => digestBytes s.digest + (fld s.pkg (s.len - 256 + 16) 16 <<< 384) + (pkgTag s.pkg <<< 512)
    | none => 0
  let ak := keyIdOf (devicePoint (attestKeyNo d))
  head + (ids <<< 768) + (pack <<< 1024) + (digestBytes (rootsDigest d) <<< 1664) + (ak <<< 2048)

def checkQuote : Check := fun d x =>
  allOf [argOk (x.arg 36 12 = 0), if x.arg 32 4 = 0 then 0 else naming d (x.arg 32 4) (fun s => argOk (s.state != .halted))]

def runQuote (m : Nat) (d : Device) : Device :=
  let v := quoteBody d (d.mb m)
  let key := attestKeyNo d
  endDone m (reply m 0x110 96 (signBytes key 0x110 v) (reply m 0 0x110 v d))

def execAttestQuote (m : Fin 16) (s : State) : Host.Outcome State Fault Refusal :=
  .next (s.upd (hostCmd 0x76 checkQuote canAlways runQuote m.val))

/-! ### ZEROIZE (R497) -/

/-- An XFER runs. -/
def xferRuns (d : Device) : Bool := (List.range 16).any (fun k => (d.mb k).opcode = 0x20 && (d.mb k).between)

/-- A section is placed, or an XFER runs; a pre-empted section is not placed (R366). -/
def zeroizeBusy (d : Device) : Bool := d.sections.any (fun s => s.state != .preempted) || xferRuns d

def checkZeroize : Check := fun d x => allOf [checkScope d x, if zeroizeBusy d then 0x03 else 0]

/-- SCOPE bit 0: the residency table, both tiers, the save areas and every MU. A move under way ends; a section that was
pre-empted has no save left to resume from (log entry 97, DESIGN CHOICE). -/
def zeroMemories (d : Device) : Device :=
  let d := d.tiers.moves.foldl (fun (a : Device) mv => skipMove mv a) d
  let d : Device := { d with sections := d.sections.map (fun s => { s with save := none }) }
  let t := { d.tiers with near := [], far := [], table := [], frames := [], moves := [], promoQ := [], invals := [], freeing := [], demoting := [] }
  let units := d.units.map (fun e => if isCu e.1 then e else (e.1, { e.2 with mu := { e.2.mu with ram := [] } }))
  let cores := d.cores.map (fun e => (e.1, { e.2 with tc := [], walks := [] }))
  { d with tiers := t, units := units, cores := cores }

/-- SCOPE bit 1: the package roots and the attestation key. -/
def zeroIdentity (d : Device) : Device := newAttestKey (d.updMgmt (fun g => { g with roots := [] }))

def runZeroize (m : Nat) (d : Device) : Device :=
  let sc := (d.mb m).arg 0 1
  if zeroizeBusy d then endFailed m 0x03 d
  else
    let d := if bitOf sc 0 then zeroMemories d else d
    let d := if bitOf sc 1 then zeroIdentity d else d
    endDone m (logCmd 0x55 0 sc m 0 d)

def execZeroize (m : Fin 16) (s : State) : Host.Outcome State Fault Refusal :=
  .next (s.upd (hostCmd 0x77 checkZeroize (canSerial false) runZeroize m.val))

end Sys2Proof.Machine
end

