-- ==== Sys2Proof/Machine/Resets.lean ====
section
/-!
DEFINITION. Machine/Resets.lean: power-on and boot, the host and warm resets, shutdown, the thermal trip, regulator faults
and the watchdog of Meridian (R468 to R472, R478, R524, R535, R537, R544 to R553).
-/
namespace Sys2Proof.Machine

/-! ### Ends of every command -/

/-- Every command that is not final ends FAILED with one code. -/
def failAll (code : BitVec 8) (d : Device) : Device :=
  (List.range 16).foldl (fun d m => if (d.mb m).state.live then endFailed m code d else d) d

/-- A started run command ends at once, its cores sent the halt (R427, R561). -/
def endStopped (m h : Nat) (d : Device) : Device :=
  let r := stopRun h (endComparing m d)
  let d := releaseStages m r.1
  if !(d.mb m).state.live then d
  else match r.2 with
    | some e => endFailed m e.1 (replyAddr m e.2 d)
    | none => endFailed m 0 d

/-- Order 2 of Table 18.7: a command ends as CANCEL ends it, with no exception; a write of the active-slot record, once
begun, completes. -/
def endAsCancel (m : Nat) (d : Device) : Device :=
  if !(d.mb m).state.live then d
  else
    let d := match (d.mb m).job with | .committing k => d.updMgmt (writeSlotRecord k) | _ => d
    match (d.mb m).state, (d.mb m).job.runs with
    | .running, some h => endStopped m h d
    | .partial_, some h => endStopped m h d
    | _, _ =>
      let d := (cancelTarget m d).1
      match (d.mb m).job with
      | .aborting h => endFailed m 0 (unloadSection h d)
      | _ => if (d.mb m).state.live then endFailed m 0 d else d

/-- LOST naming this node, with cause node, goes to every other member; the device leaves its set (Order 3). -/
def sendOwnLoss (d : Device) : Device :=
  if d.set.state = 1 || d.set.state = 2 || d.set.state = 3 then
    let own := ownNode d
    leaveSet 0 ((d.set.nodes.filter (· != own)).foldl (fun d n => sendPacket (setPacket d 0x13 n own 0 0) d) d)
  else d

/-- The contents of both tiers and the residency table are lost; the engines' settings stay. -/
def loseTiers (d : Device) : Device :=
  { d with tiers := { d.tiers with near := [], far := [], table := [], frames := [], moves := [], promoQ := [], invals := [], freeing := [],
                                   demoting := [] } }

/-- What the cores, the supervisors and the sections hold is lost with VCORE and VSRAM. -/
def loseCores (d : Device) : Device := { d with units := [], cores := [], quads := [], sync := {}, sections := [] }

/-- A comparison in progress ends with the commands. -/
def idleTraining (d : Device) : Device := endCompare { d with training := { d.training with counts := [], roots := [] } }

/-! ### Power-on and boot (R468 to R472, R544 to R547) -/

/-- What Meridian keeps in its store and fuses. -/
def keptMgmt (g : Mgmt) : Mgmt :=
  { store := g.store, almanacNext := g.almanacNext, rollbackFloor := g.rollbackFloor, goldenFloor := g.goldenFloor,
    recert := g.recert, attestKey := g.attestKey, roots := g.roots, imageKeys := g.imageKeys, recordA := g.recordA, recordB := g.recordB,
    powerOns := satAdd g.powerOns 1, serial := g.serial, defects := g.defects, reduced := g.reduced }

/-- Table 13.1: the generation and width that PCIE_CFG straps. -/
def strappedLink (straps : BitVec 21) : Nat × Nat :=
  match bitsOf straps.toNat 12 2 with
  | 0 => (7, 16)
  | 1 => (7, 8)
  | 2 => (6, 16)
  | _ => (5, 16)

/-- Order 4 of Table 18.4: the link trains at the strapped generation and width, or is negotiated down (R411). -/
def trainLink (gen width : Nat) (h : HostSide) : HostSide :=
  let s := strappedLink h.straps
  let g := min gen s.1
  { h with linkSpeed := BitVec.ofNat 4 g, linkWidth := BitVec.ofNat 5 (min width s.2), linkFlit := decide (6 ≤ g) }

/-- Every port is OFF. -/
def portsOff : Tab Port := (List.range 8).map (fun p => (p, { state := 0 }))

/-- The records of the input at a start: the rows of Table 17.2 that it has left, and the high band if it is in it (R523). -/
def inputRecords (mv : Nat) (old : Power) (d : Device) : Device :=
  let d := if old.inputFail = 0 then d else log 0x64 old.inputFail mv d
  let d := if old.inputLow then log 0x64 1 mv d else d
  let d := if old.inputHigh && mv ≤ 59500 then log 0x64 2 mv d else d
  let high := decide (59500 < mv)
  let d := d.updPower (fun p => { p with inputMv := BitVec.ofNat 32 mv, inputHigh := high })
  if high && !old.inputHigh then log 0x64 0x102 mv d else d

/-- Orders 1 to 5 of Table 18.4, once the input has met the start threshold and is not above 61 V (Table 17.1); the link
trains once PERST_N is high. What far-tier training is to find (R231) takes effect at Order 8. An active PRESENCE input begins
a press (R483). -/
def powerOn (straps : BitVec 21) (fallback removed : BitVec 24) (gen width mv : Nat) (d : Device) : Device :=
  if (d.boot.powered && !d.power.tripped) || mv < 50000 || 61000 < mv then d
  else
    let z := Device.reset
    inputRecords mv d.power { z with
      host := trainLink gen width { z.host with straps := straps, mem := d.host.mem }
      presence := { active := d.presence.active, maint := d.presence.maint, sealIntact := d.presence.sealIntact
                    pressAt := if d.presence.active then some 0 else none }
      mgmt := keptMgmt d.mgmt
      boot := { powered := true, service := 1, recovery := decide (bitsOf straps.toNat 10 2 = 3), perstLow := d.boot.perstLow
                slot := activeSlot d.mgmt, farFallback := fallback, farRemoved := removed }
      ports := portsOff
      meter := { d.meter with bus := [], waiting := [], sharesSent := 0, noReply := 0, sharesAt := 0, polledAt := 0 } }

def execPowerOn (straps : BitVec 21) (farFallback farRemoved : BitVec 24) (gen : Fin 8) (width : Fin 17) (s : State)
    (mv : BitVec 32 := 56000) : Host.Outcome State Fault Refusal :=
  .next (s.upd (powerOn straps farFallback farRemoved gen.val width.val mv.toNat))

/-- BOOT_SEL. -/
def bootSel (d : Device) : Nat := bitsOf (strapWord d) 10 2

/-- Regions of Table 14.9, in the order of the attempts. -/
def bootPlan (d : Device) : List Nat :=
  match bootSel d with
  | 0 => [d.boot.slot, 2]
  | 2 => [d.boot.slot]
  | _ => [2]

/-- The floor that governs a region (R491). -/
def regionFloor (d : Device) (r : Nat) : Nat := if r = 2 then d.mgmt.goldenFloor.toNat else d.mgmt.rollbackFloor.toNat

/-- ROLLBACK_FLOOR rises when an image boots from a slot with no fallback (R491). -/
def raiseRollback (v : Nat) (d : Device) : Device :=
  if d.mgmt.rollbackFloor.toNat < v then
    log 0x56 0 v (d.updMgmt (fun g => { g with rollbackFloor := BitVec.ofNat 32 v }))
  else d

/-- The bytes of a component: BYTES of its frames' payloads (R466). -/
def componentBytes (im : Memory) (i : Nat) : Memory :=
  let a := componentAt i
  let n := fld im (a + 12) 4
  (List.range (fld im (a + 8) 4)).foldl (fun acc k =>
    Ram.blit acc (4096 * k) (min 4096 (n - 4096 * k)) (fld im (4116 * (fld im (a + 4) 4 + k) + 16) (min 4096 (n - 4096 * k)))) []

/-- Items 2 and 3 of R472: every component goes to its destination's RAM, and the defect records to Meridian's. -/
def copyImage (im : Memory) (d : Device) : Device :=
  { d with boot := { d.boot with rams := (List.range (componentCount im)).map (fun i => (i, componentBytes im i))
                                 defects := d.mgmt.defects } }

/-- No command that the boot ROM service has started is under way. -/
def romIdle (d : Device) : Bool := (List.range 16).all (fun m => !(d.mb m).state.started)

/-- Orders 7 and 8 of Table 18.4, once a command that the boot ROM service has started has ended (R547): the rails come up,
the far tier trains, and the ports begin their training. -/
def startFirmware (d : Device) : Device :=
  if d.boot.chosen && romIdle d then
    retarget (fun d => { d with
      boot := { d.boot with chosen := false, firmware := true }
      tiers := { d.tiers with ftFallback := d.boot.farFallback, ftRemoved := d.boot.farRemoved }
      ports := if bitOf (strapWord d) 14 then portsOff else (List.range 8).map (fun p => (p, { state := 1, since := d.now })) }) d
  else d

/-- An attempt succeeded: the image is the one that runs (Order 6). -/
def booted (r : Nat) (im : Memory) (d : Device) : Device :=
  let d := copyImage im d
  let n := imageLength im
  let fell := bootSel d = 0 && r = 2
  let b := { d.boot with
    image := BitVec.ofNat 2 r, fellBack := fell, chosen := true, version := BitVec.ofNat 32 (imageVersion im)
    fwMajor := BitVec.ofNat 16 (fld im 0x20 2), fwMinor := BitVec.ofNat 16 (fld im 0x22 2)
    digest := sha384 (natToBytes (n - 256) (fld im 0 (n - 256))) }
  let d := log 1 r (imageVersion im + (b.attempts.toNat <<< 32)) { d with boot := b }
  startFirmware (if r < 2 then raiseRollback (imageVersion im) d else d)

/-- An attempt failed with a code (R468); nothing that it copied stays (R472). -/
def bootFailed (r : Nat) (code : BitVec 8) (d : Device) : Device :=
  let next := d.boot.attempt + 1
  let b := { d.boot with lastError := code, attempt := next, rams := [], defects := []
                         exhausted := bootSel d != 2 && decide ((bootPlan d).length ≤ next) }
  logRec 2 code.toNat r 0xFF 0 0 { d with boot := b }

/-- One attempt on a region (R472); `bad`: a frame fails its second check, as it is copied. -/
def attemptOn (r : Nat) (bad : Bool) (d : Device) : Device :=
  let d := { d with boot := { d.boot with attempts := satAdd d.boot.attempts 1, attemptAt := d.now } }
  let im := storedImage d r
  match (imageFault d im (regionFloor d r)).2 with
  | some e => bootFailed r e d
  | none => if bad then bootFailed r 0x20 d else booted r im d

/-- No image runs, and the boot ROM is at work; an attempt starts only between its commands (R547). -/
def bootRomRuns (d : Device) : Bool :=
  d.boot.powered && !d.boot.firmware && !d.boot.chosen && d.boot.service = 1 && !d.power.tripped && romIdle d

/-- BOOT_ATTEMPT: the next attempt of Table 14.9; under BOOT_SEL 0b10 only the first. -/
def bootAttempt (bad : Bool) (d : Device) : Device :=
  if bootRomRuns d && !d.boot.exhausted then
    match (bootPlan d)[d.boot.attempt]? with
    | some r => attemptOn r bad d
    | none => d
  else d

def execBootAttempt (s : State) (bad : Bool := false) : Host.Outcome State Fault Refusal := .next (s.upd (bootAttempt bad))

/-- BOOT_RETRY (R470): 1 s after the start of the attempt before. -/
def bootRetry (bad : Bool) (d : Device) : Device :=
  if bootRomRuns d && bootSel d = 2 && 0 < d.boot.attempt && d.boot.attemptAt + 1000000 ≤ d.now then attemptOn d.boot.slot bad d
  else d

def execBootRetry (s : State) (bad : Bool := false) : Host.Outcome State Fault Refusal := .next (s.upd (bootRetry bad))

/-- MAILBOX_SERVICE_READY: Order 9; Meridian obtains its first reading of the meter (R514, R521). -/
def serviceReady (d : Device) : Device :=
  let d := startFirmware d
  if d.boot.powered && d.boot.firmware && d.boot.service = 1 && !d.power.tripped then
    let d := { d with boot := { d.boot with service := 2 } }
    if d.meter.running then copyReading (nextReadSeq d) else d
  else d

def execMailboxServiceReady (s : State) : Host.Outcome State Fault Refusal := .next (s.upd serviceReady)

/-! ### Host and warm resets (R549 to R551, Tables 18.6 and 18.7) -/

/-- Every page is freed and every move, promotion and translation dropped; the contents stay (Order 5). -/
def freeSpace (d : Device) : Device :=
  { d with
    tiers := { d.tiers with table := [], frames := [], moves := [], promoQ := [], invals := [], freeing := [], demoting := [] }
    cores := d.cores.map (fun e => (e.1, { e.2 with tc := [], walks := [] })) }

/-- Orders 1 to 5. -/
def endDeviceState (d : Device) : Device :=
  let d := { d with boot := { d.boot with service := 0, resetting := true } }
  let d := (List.range 16).foldl (fun d m => endAsCancel m d) d
  let d := sendOwnLoss d
  let d := (List.range 16).foldl (fun d c => coreReset c d) d
  let d := (d.sections.map (·.handle)).foldl (fun d h => unloadSection h d) d
  freeSpace { idleTraining d with sync := {}, quads := d.quads.map (fun e => (e.1, { e.2 with waits := [], ops := [] })),
                                  set := { d.set with bcasts := [] } }

/-- Configuration space and the MSI-X table return to their defaults (Table 18.6). -/
def configDefaults (h : HostSide) : HostSide :=
  { h with msixTable := Device.reset.host.msixTable, msixPending := 0, msixEnabled := false, msixMask := false,
           bar2Pages := 1048576, memEnabled := false, payloadSize := 0, readSize := 2, d3 := false }

/-- Order 7: the power-up values of Table 18.6; `config`: with configuration space and the MSI-X table. -/
def powerUpValues (config : Bool) (d : Device) : Device :=
  let h := d.host
  let h := { h with mbx := [], ingest := [], irqCause := 0, bar2Base := 0, bar2Reads := 0, bar2Writes := 0 }
  let off := (List.range 16).foldl (fun (v : BitVec 16) c => if d.power.quadrantOff.getLsbD (c / 4) then setBit v c true else v) 0
  { d with
    host := if config then configDefaults h else h
    tiers := { d.tiers with promote := 0x10, demoteLow := 0x0400, demoteHigh := 0x1000, decayS := 0x003C }
    training := { d.training with repair := 0, interval := 0 }
    sched := { d.sched with policy := 0, autoResume := 1, offline := off, hostOffline := 0 } }

/-- Order 7 of Table 18.7, once Meridian is not held at Order 6. -/
def order7 (d : Device) : Device :=
  if d.boot.resetting && !d.boot.valuesDone && !d.boot.warmLow then
    let d := powerUpValues d.boot.defaults d
    { d with boot := { d.boot with valuesDone := true, defaults := false } }
  else d

/-- Orders 7 and 8, as far as the inputs held allow (R551). -/
def finishReset (d : Device) : Device :=
  let d := order7 d
  if d.boot.resetting && d.boot.valuesDone && !d.boot.perstLow && !d.boot.warmLow then
    { d with boot := { d.boot with resetting := false, valuesDone := false, service := 2 } }
  else d

/-- LAST when a reset joins a running sequence (R551). -/
def mergedLast (running : Bool) (old new : BitVec 3) : BitVec 3 :=
  if !running then new else if old = 3 || new = 3 then 3 else if old = 1 || new = 1 then 1 else 2

/-- One sequence of Table 18.7, or the joining of one. -/
def runReset (kind : BitVec 3) (d : Device) : Device :=
  let last := mergedLast d.boot.resetting d.boot.last kind
  let d := if d.boot.resetting then d else endDeviceState d
  finishReset { d with boot := { d.boot with last := last, valuesDone := false, defaults := d.boot.defaults || kind != 3 } }

/-- A sequence runs, or one can start (R551). -/
def resetsNow (d : Device) : Bool := d.boot.resetting || d.boot.service = 2

/-- PERST_N: a confirmed assertion. During start-up it holds Order 4 of Table 18.4; an unpowered module only has the level. -/
def perst (d : Device) : Device :=
  if d.boot.perstLow then d
  else if !d.boot.powered then { d with boot := { d.boot with perstLow := true } }
  else
    let d := { d with boot := { d.boot with perstLow := true, perstCount := satAdd d.boot.perstCount 1 } }
    if resetsNow d then runReset 1 d else d

def execPerstN (s : State) : Host.Outcome State Fault Refusal := .next (s.upd perst)

/-- FUNCTION_LEVEL_RESET: before readiness only configuration space returns to its defaults. -/
def functionLevelReset (d : Device) : Device :=
  if !d.boot.powered || d.boot.perstLow then d
  else
    let d := { d with boot := { d.boot with flrCount := satAdd d.boot.flrCount 1 } }
    if resetsNow d then runReset 2 d
    else { d with host := configDefaults d.host }

def execFunctionLevelReset (s : State) : Host.Outcome State Fault Refusal := .next (s.upd functionLevelReset)

/-- WARM_RST_N: a confirmed assertion; before readiness it only counts. -/
def warmReset (d : Device) : Device :=
  if !d.boot.powered || d.boot.warmLow then d
  else
    let d := { d with boot := { d.boot with warmCount := satAdd d.boot.warmCount 1 } }
    if resetsNow d then runReset 3 { d with boot := { d.boot with warmLow := true } } else d

def execWarmRstN (s : State) : Host.Outcome State Fault Refusal := .next (s.upd warmReset)

/-- RESET_INPUT_RELEASE: the deassertion of WARM_RST_N, or of PERST_N, after which the PCI Express link trains again with the
generation and width given (Order 4 of Table 18.4, Table 18.6). -/
def inputRelease (warm : Bool) (gen width : Nat) (d : Device) : Device :=
  if warm then
    if d.boot.warmLow then finishReset (startPress { d with boot := { d.boot with warmLow := false } }) else d
  else if d.boot.perstLow then
    let host := if d.boot.powered then trainLink gen width d.host else d.host
    finishReset { d with boot := { d.boot with perstLow := false }, host := host }
  else d

def execResetInputRelease (warm : Bool) (s : State) (gen : Fin 8 := 7) (width : Fin 17 := 16) : Host.Outcome State Fault Refusal :=
  .next (s.upd (inputRelease warm gen.val width.val))

/-! ### Shutdown (R523, R524) -/

/-- The rails go off: Meridian ends the commands, and everything volatile is lost. -/
def powerDown (d : Device) : Device :=
  let d := irq 0 (failAll 0x71 d)
  let d := loseTiers (loseCores (idleTraining d))
  { d with
    boot := { d.boot with powered := false, firmware := false, chosen := false, service := 0, resetting := false, valuesDone := false, defaults := false,
                          warmLow := false, rams := [], defects := [] }
    set := {}, ports := portsOff, netLinks := [], hitches := [], training := {}, sched := {} }

/-- SHUTDOWN: below 47 V for 100 µs, or above 61 V for 1 ms. -/
def shutdown (high : Bool) (mv : Nat) (d : Device) : Device :=
  if d.boot.powered && (if high then decide (61000 < mv) else decide (mv < 47000)) then
    let row := if high then 4 else 3
    let d := if d.power.inputLow then log 0x64 1 mv d else d
    let d := if d.power.inputHigh && !high then log 0x64 2 mv d else d
    powerDown (log 0x64 (row + 0x100) mv (d.updPower (fun p =>
      { p with inputMv := BitVec.ofNat 32 mv, inputFail := row, inputLow := false, inputHigh := p.inputHigh && high })))
  else d

def execShutdown (high : Bool) (mv : BitVec 32) (s : State) : Host.Outcome State Fault Refusal := .next (s.upd (shutdown high mv.toNat))

/-! ### Regulator faults (R537, R538) -/

/-- Commands of a section: its own, those that wait for it and those that work on it. -/
def failSection (h : Nat) (code : BitVec 8) (d : Device) : Device :=
  (List.range 16).foldl (fun d m =>
    let x := d.mb m
    if x.state.live && (jobNames x.job h || ((isRunOp x.opcode) && runNames x h)) then
      let d := match x.job.runs with | some k => if k = h then d else (stopRun k (endComparing m d)).1 | none => d
      if (d.mb m).state.live then endFailed m code (releaseStages m d) else d
    else d) d

/-- Order 3 of Table 5.8 for a section whose command ends outside its own cores' control. -/
def lastRecords (sec : Section) (cores : List Nat) (d : Device) : Device :=
  if sec.state = .running || sec.state = .preempting then writeRecords sec cores d else d

/-- A quadrant's rails go off. -/
def quadrantOff (q : Nat) (d : Device) : Device :=
  let cores := [4 * q, 4 * q + 1, 4 * q + 2, 4 * q + 3]
  let hit := d.sections.filter (fun s => s.state != .preempted && s.cores.any cores.contains)
  let d := hit.foldl (fun d s => unloadSection s.handle (failSection s.handle 0x71
    (lastRecords s (s.cores.filter (fun c => !cores.contains c)) d))) d
  let off := cores.foldl (fun v c => setBit v c true) d.sched.offline
  let d := { d with
    units := d.units.filter (fun e => e.1 / 320 != q)
    cores := d.cores.filter (fun e => e.1 / 4 != q)
    quads := Tab.erase d.quads q
    sched := { d.sched with offline := off } }
  settleJobs (d.updPower (fun p => { p with quadrantOff := setBit p.quadrantOff q true }))

/-- REGULATOR_FAULT: a rail in the order of Table 17.3; a rail that is off already reports nothing. -/
def regulatorFault (rail : Nat) (status : BitVec 16) (outOfRange : Bool) (d : Device) : Device :=
  let q := rail % 4
  if !d.boot.powered || (rail < 11 && !d.boot.firmware) || (rail < 8 && (d.power.tripped || d.power.quadrantOff.getLsbD q)) then d
  else
    let d := log 0x65 rail (status.toNat + (bit01 outOfRange <<< 16)) d
    if rail < 8 then quadrantOff q d else powerDown d

def execRegulatorFault (rail : Fin 14) (status : BitVec 16) (outOfRange : Bool) (s : State) :
    Host.Outcome State Fault Refusal :=
  .next (s.upd (regulatorFault rail.val status outOfRange))

/-! ### The thermal trip (R534, R535) -/

/-- What Meridian does at a trip, if it runs. -/
def reportTrip (source : Nat) (temp : BitVec 16) (d : Device) : Device :=
  let d := irq 1 (irq 0 (failAll 0x70 d))
  sendOwnLoss (log 0x63 source temp.toNat (d.updPower (fun p => { p with tripSource := BitVec.ofNat 4 source, tripTemp := temp })))

/-- THERMAL_TRIP: Tq or the hub die at 115 °C, a far-tier package at 110 °C. -/
def thermalTrip (source : Nat) (temp : BitVec 16) (d : Device) : Device :=
  let level : Int := if source = 5 then 1760 else 1840
  if d.boot.powered && !d.power.tripped && decide (level ≤ temp.toInt) then
    let d := if meridianRuns d then reportTrip source temp d else d
    (loseTiers (loseCores (idleTraining d))).updPower (fun p => { p with tripped := true })
  else d

def execThermalTrip (source : Fin 6) (temp : BitVec 16) (s : State) : Host.Outcome State Fault Refusal :=
  .next (s.upd (thermalTrip source.val temp))

/-! ### Meridian's watchdog (R478) -/

/-- MERIDIAN_WATCHDOG_EXPIRY: cores halt, commands end FAILED with INTERNAL, sections count as unloaded, and Meridian
restarts from its RAM image. -/
def meridianWatchdog (d : Device) : Device :=
  if !meridianRuns d then d
  else
    let d := d.sections.foldl (fun d s => if s.state = .preempted then d else sendHalts s.cores d) d
    let d := d.sections.foldl (fun d s => lastRecords s s.cores d) d
    let d := irq 0 (failAll 0x7F d)
    let d := (d.sections.map (·.handle)).foldl (fun d h => unloadSection h d) d
    let d := idleTraining { d with set := { d.set with bcasts := [] } }
    log 0x57 0 0 (d.updMgmt (fun g => { g with restarts := satAdd g.restarts 1 }))

def execMeridianWatchdogExpiry (s : State) : Host.Outcome State Fault Refusal := .next (s.upd meridianWatchdog)

end Sys2Proof.Machine
end

