-- ==== Sys2Proof/Machine/Timing.lean ====
section
/-!
DEFINITION. Machine/Timing.lean: the passing of time: reference steps of a core's gait monitor (R87, R261, R363, R462,
R530) and microseconds of the module.
-/
namespace Sys2Proof.Machine

/-! ### Stall causes (R261, Table 7.8) -/

/-- Input ports from which a started word takes its next token. -/
def flightPorts (x : Unit) (f : Flight) : List Nat :=
  let c := Tab.getD x.ctxs f.ctx {}
  let op := wOp f.word
  if f.done || f.outbox != [] || f.waits != [] then []
  else if op = 1 || op = 4 || op = 8 || op = 0xA1 then [wSrcA f.word]
  else if op = 5 then [wSrcA f.word, wSrcB f.word]
  else if 0x20 ≤ op && op ≤ 0x68 then
    (if f.takenA < needA c f.word then [wSrcA f.word] else []) ++ (if f.takenB < needB c f.word then [wSrcB f.word] else [])
  else []

/-- Ports at which a unit waits for a token of its active context. -/
def waitedPorts (x : Unit) : List Nat :=
  let next := if x.idle then [] else [0, 1, 2, 3].filter (fun p => bitOf (wWait (nextWord x)) p)
  (x.flight.flatMap (flightPorts x) ++ next).filter (fun p => p < 4 && x.lane p x.active = [])

/-- A channel that a load stream of the core feeds. -/
def loadChannel (d : Device) (c h ctx : Nat) : Bool :=
  (d.core c).streamTab.any (fun e => !sdStore e.2 && (List.range (sdChannels e.2)).any (fun k =>
    (sdChan e.2 k).1 = h && (sdChan e.2 k).2.2 = ctx))

/-- A token presented at a node waits at a FENCED border link. -/
def fencedOut (d : Device) (u : Nat) (x : Unit) : Bool :=
  x.out.any (fun e => match routeOf x e.2 with
    | some r => 4 ≤ r && linkFenced d u ((r - 4) % 4) (decide (8 ≤ r - 4))
    | none => false)

/-- The core's UNITS entry waits for a region load that holds this unit (Table 14.7). -/
def regionHeld (d : Device) (c u : Nat) : Bool :=
  let y := d.core c
  match coreSection d c with
  | some sec => y.seq.walks && ephCode y.seq.now = codeUnits && regionWaits sec c y.seq.now d && bitOf y.cfg.units (u % 80)
  | none => false

/-- A word of a memory unit that waits for a slot to be written, or for room in a region. -/
def muWaits (write : Bool) (x : Unit) : Bool :=
  x.flight.any (fun f =>
    let op := wOp f.word
    let r := x.mu.desc (muDesc f.word)
    !f.done && f.outbox = [] && f.waits = []
      && (if write then (op = 0xA1 || op = 0xA5) && r.count = r.len
          else (op = 0xA4 && r.count = 0) || ((op = 0xA2 || op = 0xA3) && (readWords x f).isNone)))

/-- What a unit waits on: the first cause of Table 7.8 that holds, none when it waits on nothing. -/
def stallCause (d : Device) (c u : Nat) (x : Unit) : Option Nat :=
  let ports := waitedPorts x
  let code := ephCode (d.core c).seq.now
  if x.reload.isSome || (bitOf x.held x.active && ports != []) || fencedOut d u x || regionHeld d c u then some 0
  else if x.switchReq.isSome || (x.idle && x.ctx.yielded && x.ctx.pos != 0) then some 1
  else if x.idle && x.ctx.image.isSome && (d.core c).seq.state = .waiting && (code = 0x03 || code = 0x10 || code = 0x11 || code = 0x12) then some 2
  else if ports.any (fun p => spillHeld d u p x.active != 0) then some 3
  else if ports.any (fun p => loadChannel d c (laneChan x p x.active) x.active)
      || x.flight.any (fun f => !f.done && (wOp f.word = 0xD0 || wOp f.word = 0xD1)) then some 4
  else if ports != [] || muWaits false x then some 5
  else if x.flight.any (fun f => f.waits != [] || f.outbox != []) || muWaits true x then some 6
  else none

/-- ACC_EMIT waits for room in the finished-tile queue (R139, Table 4.10). -/
def ftqFull (x : Unit) : Bool :=
  let w := nextWord x
  !x.idle && x.ctx.image.isSome && wOp w = 0x21 && emitDest w = 2
    && decide (32 < (x.cu.ftq.map (fun e => e.units.length)).sum + (emitTile w).units)

/-! ### Reference steps -/

/-- `n` stall steps of one cause, in the unit's counter and in the core's sum of the telemetry mirror (R443). -/
def countStall (c u cause n : Nat) (d : Device) : Device :=
  let d := d.updUnit u (fun x => { x with stalls := Tab.set x.stalls cause (satNat 48 (Tab.getD x.stalls cause 0) n) })
  let k := 7 * c + cause
  { d with host := { d.host with stallSums := Tab.set d.host.stallSums k (satNat 64 (Tab.getD d.host.stallSums k 0) n) } }

/-- `n` reference steps in a row at one unit: zeroing goes on, a correction write-back takes a step that no writing or
reading word and no spill wants (R203, R216), and stall steps count. -/
def unitSteps (c u n : Nat) (run : Bool) (d : Device) : Device :=
  let x := d.unit u
  let init := min n x.mu.initLeft
  let rest := n - init
  let idle := rest - bit01 (x.moved && init = 0)
  let back := if x.mu.writeBack = [] || arrayWanted d u then 0 else min idle x.mu.writeBack.length
  let full := if isCu u && run && ftqFull x then n else 0
  let y := { x with
    moved := false
    cu := { x.cu with ftqWait := satNat 48 x.cu.ftqWait full }
    mu := { x.mu with initLeft := x.mu.initLeft - init, writeBack := x.mu.writeBack.drop back,
                      bankSteps := satNat 48 x.mu.bankSteps back, scrubWait := x.mu.scrubWait - n } }
  let d1 := if x.moved || init != 0 || back != 0 || full != 0 || x.mu.scrubWait != 0 then d.setUnit u y else d
  if !run then d1
  else
    let waits := !x.idle || x.ctx.image.isSome || x.switchReq.isSome || x.reload.isSome
    let zeroing := if x.moved then init - 1 else init
    let d2 := if 0 < zeroing && waits then countStall c u 0 zeroing d1 else d1
    let left := if x.moved && init = 0 then rest - 1 else rest
    match (if waits then stallCause d c u x else none) with
    | some k => if 0 < left then countStall c u k left d2 else d2
    | none => d2

/-- The core's section runs, or stops for a pre-emption or a loss. -/
def sectionRuns (d : Device) (c : Nat) : Bool :=
  (coreSection d c).any (fun s => s.state = .running || s.state = .preempting || stopsNow d s)

/-- R363, R407: the core counts towards quiescence. -/
def quiesceCounts (d : Device) (c : Nat) : Bool :=
  (coreSection d c).any (fun s => s.state = .preempting || (s.state = .running && s.lossStop))
    && (coreUnits c).any (fun u => !(d.unit u).idle)

/-- VCORE of the core's quadrant is on, so its gait monitor turns (R530). -/
def monitorRuns (d : Device) (c : Nat) : Bool := d.boot.firmware && decide (0 < vcoreMv d (c / 4))

/-- `n` reference steps in a row of one core. -/
def refSteps (c n : Nat) (d : Device) : Device :=
  if !monitorRuns d c then d
  else
    let armed := bit01 ((d.core c).section_.isSome && decide (0 < exhaustedCount d c))
    let quiet := bit01 (quiesceCounts d c)
    let d1 := (coreUnits c).foldl (fun a u => unitSteps c u n (sectionRuns d c) a) d
    let region := bit01 ((d.core c).cfg.ready = 0 && regionStaged d c)
    if armed + quiet + region = 0 then d1
    else
      let d2 := d1.updCore c (fun x => { x with
        fab := { x.fab with idleSteps := min 2000000 (x.fab.idleSteps + n * armed) }
        quiesce := x.quiesce + n * quiet
        regionWait := x.regionWait + n * region })
      if (d.core c).fab.idleSteps < 2000000 && 2000000 ≤ (d2.core c).fab.idleSteps then latchDeadlock c d2 else d2

/-- REFERENCE_STEP. -/
def execReferenceStep (core : Fin 16) (s : State) : Host.Outcome State Fault Refusal := .next (s.upd (refSteps core.val 1))

/-! ### Microseconds -/

/-- Reference steps of a core in one microsecond, by its gait in k steps/s (R530). -/
def stepsPerUs (d : Device) (c : Nat) : Nat := d.power.gait.getD c 0 / 1000

/-- One microsecond passes: every core takes its reference steps (log entry 3). -/
def idleTick (d : Device) : Device :=
  let d := finishMoves ((List.range 16).foldl (fun a c => refSteps c (stepsPerUs d c) a) d)
  { d with now := d.now + 1 }

end Sys2Proof.Machine
end

