-- ==== Sys2Proof/Machine/Vector.lean ====
section
/-!
DEFINITION. Machine/Vector.lean: the words of the vector engine (chapter 4).
-/
namespace Sys2Proof.Machine

/-! ### Sources (R141, R142, R147, R150) -/

/-- A decoded source element: value and counts. -/
abbrev Source := Nat → Nat → Counts → BitVec 32 × Counts

/-- An element of a bank read directly (R142): the bits as FP32, or INT32 rounded; a NaN becomes canonical (R175). -/
def bankSource (tabled isInt : Bool) (bank : Nat → BitVec 32) : Source := fun i j c =>
  let b := bank (32 * i + j)
  if isInt then
    let r := roundF32 (wordNum true b)
    flushF32 tabled r.1 (c.addSat r.2)
  else flushF32 tabled (canonF32 b) c

/-- `n` units of a bank's words in the order of their offsets (R101). -/
def bankUnits (bank : Nat → BitVec 32) (n : Nat) : Array (BitVec 4096) :=
  ((List.range n).map (fun k =>
    BitVec.ofNat 4096 ((List.range 128).foldr (fun e acc => (bank (128 * k + e)).toNat + (acc <<< 32)) 0))).toArray

/-- The units an operand is read from: a region, the head of the finished-tile queue, or a bank.  DESIGN CHOICE
(log entry 68): a record, mask or index table read from a bank is its words in the order of R101; beyond the units of a queue
entry an operand reads 0 (log entry 87). -/
def operandUnits (u : Nat) (x : Unit) (src sel reg n : Nat) : Array (BitVec 4096) :=
  if inBuffer src then Unit.region u x reg n
  else if sel = 1 then ((x.cu.ftq.head?.map (·.units)).getD []).toArray
  else if 2 ≤ sel then bankUnits (Unit.bankAt u x (sel - 2)) n
  else #[]

/-- A source operand of a word. -/
def sourceOf (tabled : Bool) (u : Nat) (x : Unit) (src sel reg : Nat) (t : TileShape) : Source :=
  if !inBuffer src && 2 ≤ sel then bankSource tabled t.fmt.isInt (Unit.bankAt u x (sel - 2))
  else
    let us := operandUnits u x src sel reg t.units
    fun i j c => t.value tabled us i j c

/-- Decode every used element of an operand once. -/
def decodeOnce (src : Source) (rows cols : Nat) (used : Array Bool) (c : Counts) : Array (BitVec 32) × Counts :=
  (positions rows cols).foldl (init := ((#[] : Array (BitVec 32)), c)) fun acc p =>
    if used.getD (p.1 * cols + p.2) false then
      let r := src p.1 p.2 acc.2
      (acc.1.push r.1, r.2)
    else (acc.1.push 0, acc.2)

/-- Mark positions. -/
def markUsed (rows cols : Nat) (ps : List (Nat × Nat)) : Array Bool :=
  ps.foldl (fun a p => if p.1 < rows && p.2 < cols then a.setIfInBounds (p.1 * cols + p.2) true else a)
    (Array.replicate (rows * cols) false)

/-- The effective mask of an element (R149). -/
def vMask (c : Ctx) (f : Flight) (i j : Nat) : Bool :=
  decide (i < f.m) && decide (j < f.n) && maskBit c f.word (32 * i + j)

/-- The unmasked positions of the 64 × W tile. -/
def livePositions (c : Ctx) (f : Flight) : List (Nat × Nat) :=
  (positions 64 (vW f.word)).filter (fun p => vMask c f p.1 p.2)

/-- The element an operand holds at a position. -/
def at2 (a : Array (BitVec 32)) (cols i j : Nat) : BitVec 32 := a.getD (i * cols + j) 0

/-! ### What a vector word forms -/

/-- The result of a word: values of the output tile by position (64 × 32 or smaller, none masked), the counts so
far, words for region D, and a mask token. -/
structure VResult where
  vals : Nat → Nat → Option Num := fun _ _ => none
  counts : Counts := {}
  /-- units written at D, beside an output tile -/
  record : List (BitVec 4096) := []
  token : Option (BitVec 4096) := none
  /-- the running maximum of values written without the output conversion (V_STATS FINAL) -/
  runmax : Nat := 0

/-- The operands of a word, as its meaning reads them. -/
structure VEnv where
  tabled : Bool
  /-- the running firmware's major version (R12) -/
  major : Nat
  ctx : Ctx
  fl : Flight
  srcA : Source
  srcB : Source
  /-- units of operand B taken as bytes: a mask, indexes or a record -/
  rawA : Array (BitVec 4096)
  rawB : Array (BitVec 4096)
  /-- the 2 units at D -/
  rawD : Array (BitVec 4096)

def vEnv (d : Device) (u : Nat) (x : Unit) (f : Flight) : VEnv :=
  let w := f.word
  let c := Tab.getD x.ctxs f.ctx {}
  let tab := tabledIn d (u / 80)
  { tabled := tab, major := d.boot.fwMajor.toNat, ctx := c, fl := f
    srcA := sourceOf tab u x (wSrcA w) (vSelA w) (vRegA w) (vTileA c w)
    srcB := sourceOf tab u x (wSrcB w) (vSelB w) (vRegB w) (vTileB c w)
    rawA := operandUnits u x (wSrcA w) (vSelA w) (vRegA w) (vUnitsA c w)
    rawB := operandUnits u x (wSrcB w) (vSelB w) (vRegB w) (vUnitsB c w)
    rawD := Unit.region u x (vRegD w) 2 }

def VEnv.w (e : VEnv) : BitVec 128 := e.fl.word
def VEnv.v (e : VEnv) : BitVec 32 := vValue e.ctx e.fl.word
def VEnv.live (e : VEnv) : List (Nat × Nat) := livePositions e.ctx e.fl
def VEnv.mask (e : VEnv) (i j : Nat) : Bool := vMask e.ctx e.fl i j

/-- Operand A decoded at the positions of a list. -/
def VEnv.decodeA (e : VEnv) (cols : Nat) (ps : List (Nat × Nat)) (c : Counts) : Array (BitVec 32) × Counts :=
  decodeOnce e.srcA 64 cols (markUsed 64 cols ps) c

def VEnv.decodeB (e : VEnv) (rows cols : Nat) (ps : List (Nat × Nat)) (c : Counts) : Array (BitVec 32) × Counts :=
  decodeOnce e.srcB rows cols (markUsed rows cols ps) c

/-- An FP32 result at every unmasked position. -/
def VEnv.elements (e : VEnv) (val : Nat → Nat → Counts → BitVec 32 × Counts) (c : Counts) : VResult :=
  let W := vW e.w
  let r := gather 64 W e.mask (fun i j k => let r := val i j k; (f32 r.1, r.2)) c
  { vals := fun i j => r.1.getD (i * W + j) none, counts := r.2 }

/-- V_MAP (R152). -/
def formMap (e : VEnv) : VResult :=
  let W := vW e.w
  let a := e.decodeA W e.live {}
  let b := if (vShapeB e.w).isSome then e.decodeB 64 W e.live a.2 else (#[], a.2)
  e.elements (fun i j c => vmap e.tabled (vFunc e.w) (at2 a.1 W i j) (at2 b.1 W i j) e.v c) b.2

/-- V_BCAST (R153). -/
def formBcast (e : VEnv) : VResult :=
  let W := vW e.w
  let byCol := bitOf (vFunc e.w) 5
  let a := e.decodeA W e.live {}
  let b := if byCol then e.decodeB 1 W (e.live.map (fun p => (0, p.2))) a.2
           else e.decodeB 64 1 (e.live.map (fun p => (p.1, 0))) a.2
  e.elements (fun i j c =>
    vmap e.tabled (vFunc e.w % 16) (at2 a.1 W i j) (if byCol then b.1.getD j 0 else b.1.getD i 0) e.v c) b.2

/-- V_FUNC (R160): an FP32 output of the described profile is placed as FP32 first, within one unit in the last place. -/
def funcElement (tabled : Bool) (major : Nat) (fmt : Fmt) (func : Nat) (x : Num) (c : Counts) : Num × Counts :=
  let y := funcVal func x
  if tabled || fmt != .fp32 then (y, c)
  else
    let p := Fmt.convert .fp32 .nearestEven y
    let r := flushF32 false (nudgeUlp major func x (BitVec.ofNat 32 p.bits)) { sat := c.sat + p.sat, flush := c.flush + p.flush }
    (f32 r.1, r.2)

def formFunc (e : VEnv) : VResult :=
  let W := vW e.w
  let a := e.decodeA W e.live {}
  let r := gather 64 W e.mask (fun i j c =>
    funcElement e.tabled e.major (fmtOf (imm e.w 8 4)) (vFunc e.w) ((f32 e.v).mul (f32 (at2 a.1 W i j))) c) a.2
  { vals := fun i j => r.1.getD (i * W + j) none, counts := r.2 }

/-- V_REDUCE (R157, R158). -/
def formReduce (e : VEnv) : VResult :=
  let W := vW e.w
  let op := vFunc e.w % 8
  let a := e.decodeA W e.live {}
  let idn := reduceIdentity op
  if bitOf (vFunc e.w) 5 then
    let r := (List.range W).foldl (init := ((#[] : Array (BitVec 32)), a.2)) fun acc j =>
      let leaves := (List.range 64).foldl (init := (([] : List (BitVec 32)), acc.2)) fun l i =>
        if e.mask i j then
          let q := reduceLeaf e.tabled op (at2 a.1 W i j) l.2
          (l.1 ++ [q.1], q.2)
        else (l.1 ++ [idn], l.2)
      let t := pairTree (reduceOp e.tabled op) 6 leaves.1 leaves.2
      (acc.1.push (t.1.headD idn), t.2)
    { vals := fun _ j => some (f32 (r.1.getD j 0)), counts := r.2 }
  else
    let r := (List.range 64).foldl (init := ((#[] : Array (BitVec 32)), a.2)) fun acc i =>
      let q := (List.range W).foldl (init := (idn, acc.2)) fun z j =>
        if e.mask i j then
          let y := reduceLeaf e.tabled op (at2 a.1 W i j) z.2
          reduceOp e.tabled op z.1 y.1 y.2
        else z
      (acc.1.push q.1, q.2)
    { vals := fun i _ => some (f32 (r.1.getD i 0)), counts := r.2 }

/-- V_PRED (R154): the mask of the elements for which the comparison holds. -/
def formPred (e : VEnv) : VResult :=
  let W := vW e.w
  let a := e.decodeA W e.live {}
  let b := if bitOf (vFunc e.w) 5 then (#[], a.2) else e.decodeB 64 W e.live a.2
  let bits := e.live.foldl (fun acc p =>
    let y := if bitOf (vFunc e.w) 5 then e.v else at2 b.1 W p.1 p.2
    if vcompare (vFunc e.w) (at2 a.1 W p.1 p.2) y then acc + 2 ^ (32 * p.1 + p.2) else acc) 0
  { counts := b.2, token := some (BitVec.ofNat 4096 bits) }

/-! ### Statistics (R164 to R166) -/

/-- Entry `k` of a record; a NaN it holds is read as the canonical one (R175). -/
def statEntry (us : Array (BitVec 4096)) (k : Nat) : StatEntry where
  count := bitsAt us (32 * k) 32
  mean := canonF32 (BitVec.ofNat 32 (bitsAt us (2048 + 32 * k) 32))
  msq := canonF32 (BitVec.ofNat 32 (bitsAt us (4096 + 32 * k) 32))

/-- The 2 units of a record. -/
def statUnits (es : List StatEntry) : List (BitVec 4096) :=
  let pack := fun (g : StatEntry → Nat) => es.foldr (fun e acc => g e + (acc <<< 32)) 0
  [BitVec.ofNat 4096 (pack (·.count) + (pack (fun e => e.mean.toNat) <<< 2048)), BitVec.ofNat 4096 (pack (fun e => e.msq.toNat))]

/-- Run a list of entries through a function that counts. -/
def statMap (f : Nat → Counts → StatEntry × Counts) (c : Counts) : List StatEntry × Counts :=
  (List.range 64).foldl (init := (([] : List StatEntry), c)) fun acc k =>
    let r := f k acc.2
    (acc.1 ++ [r.1], r.2)

/-- A 64 × 1 FP32 tile as one unit, its counts and its largest finite magnitude. -/
def columnUnit (vs : List (BitVec 32)) : Converted :=
  convertTile (tileOf .fp32 0 64 1 false) false (fun i _ => some (f32 (vs.getD i 0))) id (fun _ _ => .nearestEven)

/-- V_STATS (R165, R166). -/
def formStats (e : VEnv) : VResult :=
  let W := vW e.w
  let old := fun k => statEntry e.rawD k
  let leaf := fun (x : BitVec 32) => ({ count := 1, mean := x, msq := 0 } : StatEntry)
  match vFunc e.w with
  | 0 => { record := statUnits (List.replicate 64 { count := 0, mean := 0, msq := 0 }) }
  | 1 =>
    let a := e.decodeA W e.live {}
    let r := statMap (fun i c => (List.range W).foldl (init := (old i, c)) fun z j =>
      if e.mask i j then statMerge e.tabled z.1 (leaf (at2 a.1 W i j)) z.2 else z) a.2
    { record := statUnits r.1, counts := r.2 }
  | 2 =>
    let a := e.decodeA W e.live {}
    let r := statMap (fun j c =>
      if j < W then
        let leaves := (List.range 64).map (fun i =>
          if e.mask i j then leaf (at2 a.1 W i j) else { count := 0, mean := 0, msq := 0 })
        let t := pairTree (statMerge e.tabled) 6 leaves c
        statMerge e.tabled (old j) (t.1.headD { count := 0, mean := 0, msq := 0 }) t.2
      else (old j, c)) a.2
    { record := statUnits r.1, counts := r.2 }
  | 3 =>
    let r := statMap (fun k c => statMerge e.tabled (statEntry e.rawA k) (statEntry e.rawB k) c) {}
    { record := statUnits r.1, counts := r.2 }
  | _ =>
    let r := (List.range 64).foldl (init := (([] : List (BitVec 32)), ({} : Counts))) fun acc k =>
      let q := statRstd e.tabled e.major (old k) e.v acc.2
      (acc.1 ++ [q.1], q.2)
    let mean := columnUnit ((List.range 64).map (fun k => if (old k).count = 0 then 0 else (old k).mean))
    let rstd := columnUnit r.1
    { record := mean.units ++ rstd.units, counts := r.2, runmax := max mean.runmax rstd.runmax }

/-! ### Soft maximum (R167 to R169) -/

/-- MAX, SUM and ALPHA of a row; a NaN is read as the canonical one (R175). -/
def smaxRow (us : Array (BitVec 4096)) (i : Nat) : BitVec 32 × BitVec 32 × BitVec 32 :=
  let at_ := fun off => canonF32 (BitVec.ofNat 32 (bitsAt us (off + 32 * i) 32))
  (at_ 0, at_ 2048, at_ 4096)

def smaxUnits (rs : List (BitVec 32 × BitVec 32 × BitVec 32)) : List (BitVec 4096) :=
  let pack := fun (g : BitVec 32 × BitVec 32 × BitVec 32 → BitVec 32) => rs.foldr (fun e acc => (g e).toNat + (acc <<< 32)) 0
  [BitVec.ofNat 4096 (pack (·.1) + (pack (·.2.1) <<< 2048)), BitVec.ofNat 4096 (pack (·.2.2))]

/-- One row of PASS: the new record, the probabilities by column, and the counts. -/
def smaxPass (tabled : Bool) (major : Nat) (v : BitVec 32) (W : Nat) (live : Nat → Bool) (a : Nat → BitVec 32)
    (r : BitVec 32 × BitVec 32 × BitVec 32) (c : Counts) :
    (BitVec 32 × BitVec 32 × BitVec 32) × List (BitVec 32) × Counts :=
  let mx := (List.range W).foldl (init := (r.1, c)) fun z j =>
    if live j then
      let p := fmul tabled v (a j) z.2
      fmax tabled z.1 p.1 p.2
    else z
  if mx.1 = 0xFF800000#32 then ((mx.1, r.2.1, 0x3F800000#32), List.replicate W 0, mx.2)
  else
    let dm := fsub tabled r.1 mx.1 mx.2
    let al := ffunc tabled major 0x03 (f32 dm.1) dm.2
    let s := fmul tabled r.2.1 al.1 al.2
    let z := (List.range W).foldl (init := (s.1, ([] : List (BitVec 32)), s.2)) fun z j =>
      if live j then
        let p := fmul tabled v (a j) z.2.2
        let q := fsub tabled p.1 mx.1 p.2
        let x := ffunc tabled major 0x03 (f32 q.1) q.2
        let t := fadd tabled z.1 x.1 x.2
        (t.1, z.2.1 ++ [x.1], t.2)
      else (z.1, z.2.1 ++ [0], z.2.2)
    ((mx.1, z.1, al.1), z.2.1, z.2.2)

/-- V_SMAX. -/
def formSmax (e : VEnv) : VResult :=
  let W := vW e.w
  match vFunc e.w with
  | 0 => { record := smaxUnits (List.replicate 64 (0xFF800000#32, 0#32, 0x3F800000#32)) }
  | 1 =>
    let a := e.decodeA W e.live {}
    let r := (List.range 64).foldl
      (init := (([] : List (BitVec 32 × BitVec 32 × BitVec 32)), (#[] : Array (BitVec 32)), a.2)) fun acc i =>
        let q := smaxPass e.tabled e.major e.v W (e.mask i) (at2 a.1 W i) (smaxRow e.rawD i) acc.2.2
        (acc.1 ++ [q.1], acc.2.1 ++ q.2.1.toArray, q.2.2)
    { vals := fun i j => if e.mask i j then some (f32 (at2 r.2.1 W i j)) else none, counts := r.2.2, record := smaxUnits r.1 }
  | _ =>
    let a := e.decodeA W e.live {}
    let r := (List.range 64).foldl (init := ((#[] : Array (BitVec 32)), a.2)) fun acc i =>
      if (List.range W).any (e.mask i) then
        let q := ffunc e.tabled e.major 0x00 (f32 (smaxRow e.rawD i).2.1) acc.2
        (acc.1.push q.1, q.2)
      else (acc.1.push 0, acc.2)
    e.elements (fun i j c => fmul e.tabled (at2 a.1 W i j) (r.1.getD i 0) c) r.2

/-! ### V_MOVE and V_FILL (R144, R155, R156) -/

/-- Where an output element comes from: an element of A or of B, or +0. -/
inductive MoveSrc where
  | fromA (i j : Nat)
  | fromB (i j : Nat)
  | zero
deriving DecidableEq, Repr

/-- A selected element of a compress or expand (R156): the bit of B, and the extents. -/
def selected (e : VEnv) (i j : Nat) : Bool :=
  (e.rawB.getD 0 0).getLsbD (32 * i + j) && decide (i < e.fl.m) && decide (j < e.fl.n)

/-- The `k`th of a list of positions of A, or +0. -/
def nthSrc (ps : List (Nat × Nat)) (k : Nat) : MoveSrc :=
  match ps[k]? with | some p => .fromA p.1 p.2 | none => .zero

/-- Table 4.5: the sources of all output elements, in the order i × W + j. -/
def moveSources (e : VEnv) : List MoveSrc :=
  let W := vW e.w
  let v := e.v.toNat
  let row := fun i => ((List.range W).filter (selected e i)).map (fun j => (i, j))
  let all := (positions 64 W).filter (fun p => selected e p.1 p.2)
  let before := fun (ps : List (Nat × Nat)) (p : Nat × Nat) => (ps.idxOf? p)
  match vFunc e.w with
  | 0 => (positions 64 W).map (fun p => nthSrc (row p.1) p.2)
  | 1 => (List.range (64 * W)).map (nthSrc all)
  | 2 => (positions 64 W).map (fun p => match before (row p.1) p with | some k => .fromA p.1 k | none => .zero)
  | 3 => (positions 64 W).map (fun p => match before all p with | some k => .fromA (k / W) (k % W) | none => .zero)
  | 4 => (positions 64 W).map (fun p => .fromA p.1 (byteOf e.rawB p.2 % W))
  | 5 => (positions 64 W).map (fun p => .fromA (byteOf e.rawB p.1 % 64) p.2)
  | 6 => (positions 64 W).map (fun p => if p.2 % 2 = 0 then .fromA p.1 (p.2 / 2) else .fromB p.1 ((p.2 - 1) / 2))
  | 7 => (positions 64 W).map (fun p => .fromA p.1 (2 * p.2))
  | 8 => (positions 64 W).map (fun p => .fromA p.1 (2 * p.2 + 1))
  | 9 => (positions 64 W).map (fun p => .fromA p.1 ((p.2 + v) % W))
  | 0xA => (positions 64 W).map (fun p => if p.2 < v then .fromA p.1 p.2 else .fromB p.1 (p.2 - v))
  | _ => (positions 64 W).map (fun p => .fromA p.1 (p.2 + v))

/-- V_MOVE: masked output elements are +0; the compress and expand functions take their mask as their selection. -/
def formMove (e : VEnv) : VResult :=
  let W := vW e.w
  let sel := vFunc e.w ≤ 3
  let srcs := ((moveSources e).zip (positions 64 W)).map (fun q => if sel || e.mask q.2.1 q.2.2 then some q.1 else none)
  let colsA := (vColsA e.w).getD W
  let sb := (vShapeB e.w).getD (64, 1)
  let a := e.decodeA colsA (srcs.filterMap (fun q => match q with | some (.fromA i j) => some (i, j) | _ => none)) {}
  let b := e.decodeB sb.1 sb.2 (srcs.filterMap (fun q => match q with | some (.fromB i j) => some (i, j) | _ => none)) a.2
  let vals := (srcs.map (fun q => q.map (fun m => match m with
    | .fromA i j => f32 (at2 a.1 colsA i j)
    | .fromB i j => f32 (at2 b.1 sb.2 i j)
    | .zero => .fin false 0 0))).toArray
  { vals := fun i j => vals.getD (i * W + j) none, counts := b.2 }

/-- V_FILL (Table 4.2). -/
def formFill (e : VEnv) : VResult := { vals := fun i j => if e.mask i j then some (f32 e.v) else none }

/-! ### Output (R148, R151, R187) -/

/-- The stochastic-rounding draw of element (i, j) (Table 5.6). -/
def vDraw (seed : BitVec 64) (step : BitVec 32) (image pos occ i j : Nat) : Nat :=
  srDraw seed step (BitVec.ofNat 64 ((32 * i + j) % 2048 + ((pos % 512) <<< 11) + ((image % 2 ^ 19) <<< 20)
    + ((occ % 2 ^ 25) <<< 39)))

/-- Rounding mode of the output conversion. -/
def vMode (d : Device) (u : Nat) (e : VEnv) (i j : Nat) : RMode :=
  match imm e.w 86 2 with
  | 0 => .nearestEven
  | 1 => .towardZero
  | _ =>
    let m := (coreMbx d (u / 80)).map d.mb
    let arg := fun off n => match m with | some x => x.arg off n | none => 0
    .stochastic (vDraw (BitVec.ofNat 64 (arg 8 8)) (BitVec.ofNat 32 (arg 0x10 4)) (e.ctx.image.getD 0) e.fl.pos e.fl.occ i j)

/-- Steps of a word (Table 4.8). -/
def vSteps (w : BitVec 128) (hard : Nat) : Nat :=
  let W := vW w
  let short := (fmtOf (imm w 8 4)).bits ≤ 16
  let per := fun (a b : Nat) => if short then a else b
  match wOp w with
  | 0x62 =>
    let k := match vFunc w with
      | 0 => per 3 4 | 1 => per 4 5 | 2 => per 5 6 | 3 => per 4 6 | 4 => per 3 5 | 5 => per 4 6 | 6 => per 4 6 | 7 => per 7 10
      | 8 => per 7 10 | 9 => per 6 8 | 0xA => per 7 9 | 0xB => per 8 11 | _ => per 5 7
    W * k + hard
  | 0x63 => if bitOf (vFunc w) 5 then W + 6 else W
  | 0x65 => match vFunc w with | 0 => 2 | 1 => 3 * W | 2 => 2 * W + 12 | 3 => 5 | _ => 8
  | 0x66 => match vFunc w with | 0 => 2 | 1 => W * 8 + 4 + hard | _ => 4 + W
  | 0x67 => if vFunc w = 1 || vFunc w = 3 || vFunc w = 5 then 2 * W else W
  | _ => W

/-- Column passes lengthened by R162 and the steps they add: an extra iteration (log entry 13), and the full argument
reduction of SIN and COS. -/
def hardPasses (u : Nat) (e : VEnv) : Nat × Nat :=
  let w := e.w
  let W := vW w
  let trig := wOp w = 0x62 && (vFunc w = 0xC || vFunc w = 0xD)
  let big := fun j => trig && (List.range 64).any (fun i => e.mask i j &&
    (match (f32 e.v).mul (f32 (e.srcA i j {}).1) with | .fin _ m x => m != 0 && decide (15 ≤ magExp m x) | .inf _ => true | .nan => false))
  let sfu := wOp w = 0x62 || (wOp w = 0x66 && vFunc w = 1)
  (List.range W).foldl (fun acc j =>
    let h := sfu && Config.freeHard u e.fl.pos e.fl.occ j
    let b := big j
    (acc.1 + bit01 (h || b), acc.2 + 2 * bit01 h + 4 * bit01 b)) (0, 0)

/-- Send or store the output of a word and count it; a word without an output tile uses no DEST (log entry 77). -/
def vFinish (d : Device) (u : Nat) (e : VEnv) (r : VResult) (x : Unit) (f : Flight) : Unit × Flight :=
  let w := f.word
  let hard := hardPasses u e
  let x := { x with cu := { x.cu with
    vecSteps := satNat 48 x.cu.vecSteps (vSteps w hard.2), sfuHard := satNat 32 x.cu.sfuHard hard.1 } }
  let x := if r.record = [] then x else x.pokeBuf (vRegD w) r.record
  let f := { f with done := true, sat := r.counts.sat, flush := r.counts.flush, runmax := r.runmax }
  match r.token, vOut w with
  | some p, _ => (x, { f with outbox := [⟨p, mkTag f.ctx (wTileEnd w) 256 1 0⟩] })
  | none, none => (x, f)
  | none, some t =>
    let mag := if wOp w = 0x62 then (fun v : Num => f32 (roundF32 v).1) else id
    let o := convertTile t false r.vals mag (vMode d u e)
    let f := { f with sat := r.counts.sat + o.counts.sat, flush := r.counts.flush + o.counts.flush, runmax := o.runmax }
    let send := { f with outbox := tileTokens f.ctx (wTileEnd w) o.units t.validBytes }
    match vDest w with
    | 0 => (x, send)
    | 1 => (x.pokeBuf (vRegD w) o.units, f)
    | 2 =>
      let es := (positions t.rows t.cols).filterMap (fun p =>
        (r.vals p.1 p.2).map (fun _ => (32 * p.1 + p.2, BitVec.ofNat 32 (bitsAt o.units.toArray (32 * t.pos p.1 p.2) 32))))
      (x.pokeBank (imm w 54 1) es, f)
    | _ => (x.pokeBuf (vRegD w) o.units, send)

/-- A vector word captures its operands, then forms its effect; with `hold` its passes go on. -/
def advVector (form : VEnv → VResult) (hold : Bool) (d : Device) (u : Nat) (x : Unit) (f : Flight) : Unit × Flight :=
  let r := captureOperands (vRegA f.word) (vRegB f.word) x f
  if !hold && captured r.1 r.2 then
    let e := vEnv d u r.1 r.2
    vFinish d u e (form e) r.1 r.2
  else r

def initVector (c : Core) (x : Unit) (f : Flight) : Flight :=
  let w := f.word
  startExtents c x f (imm w 67 7) (imm w 74 6) (imm w 80 3) (imm w 83 3)

/-- One command of a vector word. -/
def vectorWord (op : Nat) (form : VEnv → VResult) (u : UnitRef) (s : State) (hold : Bool := false) : State :=
  s.upd (runWord op (fun _ x w => cuMay x w) initVector (advVector form hold) u.key)

def execVMap (u : UnitRef) (s : State) : Host.Outcome State Fault Refusal := .next (vectorWord 0x60 formMap u s)
def execVBcast (u : UnitRef) (s : State) : Host.Outcome State Fault Refusal := .next (vectorWord 0x61 formBcast u s)
def execVFunc (u : UnitRef) (s : State) (hold : Bool := false) : Host.Outcome State Fault Refusal :=
  .next (vectorWord 0x62 formFunc u s hold)
def execVReduce (u : UnitRef) (s : State) : Host.Outcome State Fault Refusal := .next (vectorWord 0x63 formReduce u s)
def execVPred (u : UnitRef) (s : State) : Host.Outcome State Fault Refusal := .next (vectorWord 0x64 formPred u s)
def execVStats (u : UnitRef) (s : State) : Host.Outcome State Fault Refusal := .next (vectorWord 0x65 formStats u s)
def execVSmax (u : UnitRef) (s : State) (hold : Bool := false) : Host.Outcome State Fault Refusal :=
  .next (vectorWord 0x66 formSmax u s hold)
def execVMove (u : UnitRef) (s : State) : Host.Outcome State Fault Refusal := .next (vectorWord 0x67 formMove u s)
def execVFill (u : UnitRef) (s : State) : Host.Outcome State Fault Refusal := .next (vectorWord 0x68 formFill u s)

end Sys2Proof.Machine
end

