-- ==== Sys2Proof/Machine/Dispatch.lean ====
section
/-! DEFINITION. Machine/Dispatch.lean: one arm per command, each a call of its meaning. -/
namespace Sys2Proof.Machine

def exec (i : Instr) (s : State) : Host.Outcome State Fault Refusal :=
  match i with
  | .deviceInfo m => Sys2Proof.Machine.execDeviceInfo m s
  | .load m err hold => Sys2Proof.Machine.execLoad m err s hold
  | .unload m => Sys2Proof.Machine.execUnload m s
  | .run m => Sys2Proof.Machine.execRun m s
  | .runFused m => Sys2Proof.Machine.execRunFused m s
  | .cancel m => Sys2Proof.Machine.execCancel m s
  | .preempt m err => Sys2Proof.Machine.execPreempt m s err
  | .resume m hold found => Sys2Proof.Machine.execResume m s hold found
  | .epochRequest m => Sys2Proof.Machine.execEpochRequest m s
  | .regionLoad m err => Sys2Proof.Machine.execRegionLoad m err s
  | .xfer m err upto host => Sys2Proof.Machine.execXfer m err s upto host
  | .pageAlloc m => Sys2Proof.Machine.execPageAlloc m s
  | .pageFree m => Sys2Proof.Machine.execPageFree m s
  | .pageMove m => Sys2Proof.Machine.execPageMove m s
  | .pageQuery m => Sys2Proof.Machine.execPageQuery m s
  | .export_ m err upto => Sys2Proof.Machine.execExport m err s upto
  | .import_ m err upto => Sys2Proof.Machine.execImport m err s upto
  | .settings m => Sys2Proof.Machine.execSettings m s
  | .coreOffline m err => Sys2Proof.Machine.execCoreOffline m s err
  | .coreOnline m => Sys2Proof.Machine.execCoreOnline m s
  | .regRead m => Sys2Proof.Machine.execRegRead m s
  | .meterRead m => Sys2Proof.Machine.execMeterRead m s
  | .meterJobs m => Sys2Proof.Machine.execMeterJobs m s
  | .logRead m => Sys2Proof.Machine.execLogRead m s
  | .fwStage m err upto bad => Sys2Proof.Machine.execFwStage m err s upto bad
  | .fwCommit m hold => Sys2Proof.Machine.execFwCommit m s hold
  | .goldenWrite m err upto bad => Sys2Proof.Machine.execGoldenWrite m err s upto bad
  | .debugUnlock m => Sys2Proof.Machine.execDebugUnlock m s
  | .identityRead m => Sys2Proof.Machine.execIdentityRead m s
  | .identityRecertify m err => Sys2Proof.Machine.execIdentityRecertify m err s
  | .attestQuote m => Sys2Proof.Machine.execAttestQuote m s
  | .zeroize m => Sys2Proof.Machine.execZeroize m s
  | .mbxDoorbell m acc v => Sys2Proof.Machine.execMbxDoorbell m acc v s
  | .mbxSeqAck m acc v => Sys2Proof.Machine.execMbxSeqAck m acc v s
  | .registerWrite reg len data => Sys2Proof.Machine.execRegisterWrite reg len data s
  | .rcRead reg len => Sys2Proof.Machine.execRcRead reg len s
  | .bar2Read off len err => Sys2Proof.Machine.execBar2Read off len err s
  | .bar2Write off bytes err => Sys2Proof.Machine.execBar2Write off bytes s err
  | .ingestData win off v => Sys2Proof.Machine.execIngestData win off v s
  | .ingestEnd win v => Sys2Proof.Machine.execIngestEnd win v s
  | .ingestWordRelease win => Sys2Proof.Machine.execIngestWordRelease win s
  | .smbusIdentity addr => Sys2Proof.Machine.execSmbusIdentity s addr
  | .smbusTelemetry addr => Sys2Proof.Machine.execSmbusTelemetry s addr
  | .smbusStraps addr => Sys2Proof.Machine.execSmbusStraps s addr
  | .smbusSchedStatus addr => Sys2Proof.Machine.execSmbusSchedStatus s addr
  | .smbusAlmanac addr => Sys2Proof.Machine.execSmbusAlmanac s addr
  | .smbusAlertResponse => Sys2Proof.Machine.execSmbusAlertResponse s
  | .commandStart => Sys2Proof.Machine.execCommandStart s
  | .presenceWaitExpiry m => Sys2Proof.Machine.execPresenceWaitExpiry m s
  | .powerOn straps farFallback farRemoved gen width mv => Sys2Proof.Machine.execPowerOn straps farFallback farRemoved gen width s mv
  | .bootAttempt bad => Sys2Proof.Machine.execBootAttempt s bad
  | .bootRetry bad => Sys2Proof.Machine.execBootRetry s bad
  | .mailboxServiceReady => Sys2Proof.Machine.execMailboxServiceReady s
  | .perstN => Sys2Proof.Machine.execPerstN s
  | .functionLevelReset => Sys2Proof.Machine.execFunctionLevelReset s
  | .warmRstN => Sys2Proof.Machine.execWarmRstN s
  | .resetInputRelease warm gen width => Sys2Proof.Machine.execResetInputRelease warm s gen width
  | .coreReset core => Sys2Proof.Machine.execCoreReset core s
  | .throttleN low => Sys2Proof.Machine.execThrottleN s low
  | .throttleEnd => Sys2Proof.Machine.execThrottleEnd s
  | .presenceChange active contact => Sys2Proof.Machine.execPresenceChange active s contact
  | .pressEnd => Sys2Proof.Machine.execPressEnd s
  | .pressStuck => Sys2Proof.Machine.execPressStuck s
  | .stuckRelease => Sys2Proof.Machine.execStuckRelease s
  | .presenceWindowClose => Sys2Proof.Machine.execPresenceWindowClose s
  | .maintChange fitted => Sys2Proof.Machine.execMaintChange fitted s
  | .sealLoopChange intact => Sys2Proof.Machine.execSealLoopChange intact s
  | .sealTogglingMinute => Sys2Proof.Machine.execSealTogglingMinute s
  | .inputLowBandEntry mv => Sys2Proof.Machine.execInputLowBandEntry mv s
  | .inputLowBandExit mv => Sys2Proof.Machine.execInputLowBandExit mv s
  | .inputHighBandChange mv => Sys2Proof.Machine.execInputHighBandChange mv s
  | .shutdown high mv => Sys2Proof.Machine.execShutdown high mv s
  | .regulatorFault rail status outOfRange => Sys2Proof.Machine.execRegulatorFault rail status outOfRange s
  | .thermalTrip source temp => Sys2Proof.Machine.execThermalTrip source temp s
  | .hardLimitStart q => Sys2Proof.Machine.execHardLimitStart q s
  | .hardLimitEnd q => Sys2Proof.Machine.execHardLimitEnd q s
  | .thermalLimitUpdate q => Sys2Proof.Machine.execThermalLimitUpdate q s
  | .powerLimitUpdate => Sys2Proof.Machine.execPowerLimitUpdate s
  | .vcoreSetPointUpdate => Sys2Proof.Machine.execVcoreSetPointUpdate s
  | .sensorReadingFrame hub readings => Sys2Proof.Machine.execSensorReadingFrame hub readings s
  | .telemetryRewrite upto => Sys2Proof.Machine.execTelemetryRewrite s upto
  | .meridianWatchdogExpiry => Sys2Proof.Machine.execMeridianWatchdogExpiry s
  | .almanacHourEnd => Sys2Proof.Machine.execAlmanacHourEnd s
  | .almanacDropRecord => Sys2Proof.Machine.execAlmanacDropRecord s
  | .tokenTransfer u src => Sys2Proof.Machine.execTokenTransfer u src s
  | .spillTokenReturn u port lane err word => Sys2Proof.Machine.execSpillTokenReturn u port lane err word s
  | .harnessLinkToken u dir edge => Sys2Proof.Machine.execHarnessLinkToken u dir edge s
  | .packetFlitTurn link arrive credit ends => Sys2Proof.Machine.execPacketFlitTurn link arrive credit s ends
  | .hitchFlitToHub q vc arrive ready => Sys2Proof.Machine.execHitchFlitToHub q vc arrive ready s
  | .hitchFlitToFabric q vc arrive resp credit => Sys2Proof.Machine.execHitchFlitToFabric q vc arrive resp credit s
  | .contextSwitch u => Sys2Proof.Machine.execContextSwitch u s
  | .contextReload u => Sys2Proof.Machine.execContextReload u s
  | .contextWrite u err => Sys2Proof.Machine.execContextWrite u err s
  | .progressWatchdogExpiry core => Sys2Proof.Machine.execProgressWatchdogExpiry core s
  | .nop u => Sys2Proof.Machine.execNop u s
  | .move u => Sys2Proof.Machine.execMove u s
  | .loopBegin u => Sys2Proof.Machine.execLoopBegin u s
  | .loopEnd u => Sys2Proof.Machine.execLoopEnd u s
  | .predLoad u => Sys2Proof.Machine.execPredLoad u s
  | .select_ u => Sys2Proof.Machine.execSelect u s
  | .yield_ u => Sys2Proof.Machine.execYield u s
  | .fence u => Sys2Proof.Machine.execFence u s
  | .discard u => Sys2Proof.Machine.execDiscard u s
  | .mmAcc u hold => Sys2Proof.Machine.execMmAcc u s hold
  | .accEmit u => Sys2Proof.Machine.execAccEmit u s
  | .accLoad u => Sys2Proof.Machine.execAccLoad u s
  | .accClear u => Sys2Proof.Machine.execAccClear u s
  | .bufLoad u => Sys2Proof.Machine.execBufLoad u s
  | .vMap u => Sys2Proof.Machine.execVMap u s
  | .vBcast u => Sys2Proof.Machine.execVBcast u s
  | .vFunc u hold => Sys2Proof.Machine.execVFunc u s hold
  | .vReduce u => Sys2Proof.Machine.execVReduce u s
  | .vPred u => Sys2Proof.Machine.execVPred u s
  | .vStats u => Sys2Proof.Machine.execVStats u s
  | .vSmax u hold => Sys2Proof.Machine.execVSmax u s hold
  | .vMove u => Sys2Proof.Machine.execVMove u s
  | .vFill u => Sys2Proof.Machine.execVFill u s
  | .descSet u => Sys2Proof.Machine.execDescSet u s
  | .push u => Sys2Proof.Machine.execPush u s
  | .read_ u err word => Sys2Proof.Machine.execRead u err word s
  | .colRead u err word => Sys2Proof.Machine.execColRead u err word s
  | .release_ u => Sys2Proof.Machine.execRelease u s
  | .zero u => Sys2Proof.Machine.execZero u s
  | .muScrubRead u err word => Sys2Proof.Machine.execMuScrubRead u err word s
  | .dqWaitFill u => Sys2Proof.Machine.execDqWaitFill u s
  | .dqWaitDrain u => Sys2Proof.Machine.execDqWaitDrain u s
  | .dqOpen u => Sys2Proof.Machine.execDqOpen u s
  | .streamEntryRequest core => Sys2Proof.Machine.execStreamEntryRequest core s
  | .loadEntryFill core queue err => Sys2Proof.Machine.execLoadEntryFill core queue err s
  | .streamTileRelease core slot => Sys2Proof.Machine.execStreamTileRelease core slot s
  | .storeQueueAccept core tap => Sys2Proof.Machine.execStoreQueueAccept core tap s
  | .storeWriteAck core queue err => Sys2Proof.Machine.execStoreWriteAck core queue s err
  | .translationFill core page err => Sys2Proof.Machine.execTranslationFill core page s err
  | .invalidation => Sys2Proof.Machine.execInvalidation s
  | .migrationMoveStart => Sys2Proof.Machine.execMigrationMoveStart s
  | .moveCopyDone page err => Sys2Proof.Machine.execMoveCopyDone page s err
  | .affinityDecaySweep => Sys2Proof.Machine.execAffinityDecaySweep s
  | .patrolScrub core frame entry err => Sys2Proof.Machine.execPatrolScrub core frame entry err s
  | .refresh core channel => Sys2Proof.Machine.execRefresh core channel s
  | .ephemerisNop core => Sys2Proof.Machine.execEphemerisNop core s
  | .units core => Sys2Proof.Machine.execUnits core s
  | .stream core => Sys2Proof.Machine.execStream core s
  | .semAdd core => Sys2Proof.Machine.execSemAdd core s
  | .semSub core => Sys2Proof.Machine.execSemSub core s
  | .semWaitGe core => Sys2Proof.Machine.execSemWaitGe core s
  | .barArrive core => Sys2Proof.Machine.execBarArrive core s
  | .barWait core => Sys2Proof.Machine.execBarWait core s
  | .barArriveWait core => Sys2Proof.Machine.execBarArriveWait core s
  | .chListen core => Sys2Proof.Machine.execChListen core s
  | .chOpen core => Sys2Proof.Machine.execChOpen core s
  | .chClose core => Sys2Proof.Machine.execChClose core s
  | .chunk core => Sys2Proof.Machine.execChunk core s
  | .mark core => Sys2Proof.Machine.execMark core s
  | .tallyOperation q => Sys2Proof.Machine.execTallyOperation q s
  | .barrierArrival level => Sys2Proof.Machine.execBarrierArrival level s
  | .barrierRelease core => Sys2Proof.Machine.execBarrierRelease core s
  | .openRequestReceived core => Sys2Proof.Machine.execOpenRequestReceived core s
  | .grantReceived core err => Sys2Proof.Machine.execGrantReceived core s err
  | .channelTokenEntry core ep => Sys2Proof.Machine.execChannelTokenEntry core ep s
  | .creditReturn core err => Sys2Proof.Machine.execCreditReturn core s err
  | .messageDelivery core ep => Sys2Proof.Machine.execMessageDelivery core ep s
  | .closeMarker core => Sys2Proof.Machine.execCloseMarker core s
  | .endpointClose core ep => Sys2Proof.Machine.execEndpointClose core ep s
  | .commandEnd m err => Sys2Proof.Machine.execCommandEnd m err s
  | .stageHandover m => Sys2Proof.Machine.execStageHandover m s
  | .suspendMessage core => Sys2Proof.Machine.execSuspendMessage core s
  | .haltMessage core => Sys2Proof.Machine.execHaltMessage core s
  | .preemptionSave handle err => Sys2Proof.Machine.execPreemptionSave handle s err
  | .quiescenceLimit core => Sys2Proof.Machine.execQuiescenceLimit core s
  | .autoResumeRetry found => Sys2Proof.Machine.execAutoResumeRetry s found
  | .unitFailure u err => Sys2Proof.Machine.execUnitFailure u s err
  | .deadlineCheck m => Sys2Proof.Machine.execDeadlineCheck m s
  | .cfgBegin core => Sys2Proof.Machine.execCfgBegin core s
  | .cfgFrame core => Sys2Proof.Machine.execCfgFrame core s
  | .cfgCommit core => Sys2Proof.Machine.execCfgCommit core s
  | .cfgAbort core => Sys2Proof.Machine.execCfgAbort core s
  | .regionReady core => Sys2Proof.Machine.execRegionReady core s
  | .regionReadyTimeout core => Sys2Proof.Machine.execRegionReadyTimeout core s
  | .portTraining p width ends => Sys2Proof.Machine.execPortTraining p width s ends
  | .train p protocol node port width fw => Sys2Proof.Machine.execTrain p protocol node port width fw s
  | .portDownRetrain p => Sys2Proof.Machine.execPortDownRetrain p s
  | .linkReset p => Sys2Proof.Machine.execLinkReset p s
  | .data p dir => Sys2Proof.Machine.execData p dir s
  | .nak p dir => Sys2Proof.Machine.execNak p dir s
  | .idle p dir => Sys2Proof.Machine.execIdle p dir s
  | .replayTimeout p => Sys2Proof.Machine.execReplayTimeout p s
  | .nakRepeat p => Sys2Proof.Machine.execNakRepeat p s
  | .packetForward p pool => Sys2Proof.Machine.execPacketForward p pool s
  | .chToken p pool => Sys2Proof.Machine.execChToken p pool s
  | .chOpenPacket p pool => Sys2Proof.Machine.execChOpenPacket p pool s
  | .chGrant p pool => Sys2Proof.Machine.execChGrant p pool s
  | .chRefuse p pool => Sys2Proof.Machine.execChRefuse p pool s
  | .chClosePacket p pool => Sys2Proof.Machine.execChClosePacket p pool s
  | .chCredit p pool => Sys2Proof.Machine.execChCredit p pool s
  | .barArrivePacket p pool => Sys2Proof.Machine.execBarArrivePacket p pool s
  | .barRelease p pool => Sys2Proof.Machine.execBarRelease p pool s
  | .heartbeat p pool => Sys2Proof.Machine.execHeartbeat p pool s
  | .heartbeatSend => Sys2Proof.Machine.execHeartbeatSend s
  | .heartbeatTimeout node => Sys2Proof.Machine.execHeartbeatTimeout node s
  | .lost p pool => Sys2Proof.Machine.execLost p pool s
  | .setHello p pool => Sys2Proof.Machine.execSetHello p pool s
  | .setReady p pool => Sys2Proof.Machine.execSetReady p pool s
  | .formTimeout => Sys2Proof.Machine.execFormTimeout s
  | .digest p pool => Sys2Proof.Machine.execDigest p pool s
  | .repairPage p pool => Sys2Proof.Machine.execRepairPage p pool s
  | .configData p pool => Sys2Proof.Machine.execConfigData p pool s
  | .configAck p pool => Sys2Proof.Machine.execConfigAck p pool s
  | .bcastTimeout => Sys2Proof.Machine.execBcastTimeout s
  | .meterInterval energy mv ma => Sys2Proof.Machine.execMeterInterval energy mv ma s
  | .readRequest crcOk => Sys2Proof.Machine.execReadRequest crcOk s
  | .jobsRequest crcOk => Sys2Proof.Machine.execJobsRequest crcOk s
  | .shares crcOk => Sys2Proof.Machine.execShares crcOk s
  | .sharesSend => Sys2Proof.Machine.execSharesSend s
  | .shareTimeout => Sys2Proof.Machine.execShareTimeout s
  | .meterPoll => Sys2Proof.Machine.execMeterPoll s
  | .meterCheckpoint => Sys2Proof.Machine.execMeterCheckpoint s
  | .meterPowerFail => Sys2Proof.Machine.execMeterPowerFail s
  | .meterStart saveOk sealIntact jumper => Sys2Proof.Machine.execMeterStart saveOk sealIntact jumper s
  | .meterSealChange intact => Sys2Proof.Machine.execMeterSealChange intact s
  | .calibrationWrite const => Sys2Proof.Machine.execCalibrationWrite const s
  | .meterPulse => Sys2Proof.Machine.execMeterPulse s
  | .referenceStep core => Sys2Proof.Machine.execReferenceStep core s
  | .lossOfSignal p => Sys2Proof.Machine.execLossOfSignal p s
  | .haltingStopLimit => Sys2Proof.Machine.execHaltingStopLimit s
  | .meterNoReply => Sys2Proof.Machine.execMeterNoReply s
  | .calibrationJumperChange fitted => Sys2Proof.Machine.execCalibrationJumperChange fitted s
  | .powerStateChange d3 => Sys2Proof.Machine.execPowerStateChange d3 s

end Sys2Proof.Machine
end

