-- ==== Sys2Proof/Safety.lean ====
section
/-!
DEFINITION. Safety.lean: the terms the statements use: what a safe run is, what it means that a command completes, when
an operation word may run, and the parts of the block that a command leaves alone.
-/
namespace Sys2Proof.Safety
open Sys2Proof.Machine

/-- The memories of the module are in canonical form. -/
def memoriesWf (d : Device) : Bool :=
  Ram.wf d.tiers.near && Ram.wf d.tiers.far && Ram.wf d.tiers.table && Ram.wf d.mgmt.store && Ram.wf d.host.mem

/-- Every waiting command is well formed. -/
def queueWf (s : State) : Bool := s.pending.all Instr.wf

/-- The command answers a next state with the same commands waiting, and the block it leaves meets `P`. -/
def Completes (i : Instr) (s : State) (P : Device → Prop) : Prop := ∃ d, exec i s = .next { s with dev := d } ∧ P d

/-- R72: the unit stands before a word with this opcode, no word is in flight, and the word may start. -/
abbrev Ready (d : Device) (u op : Nat) : Prop :=
  (d.unit u).idle = false ∧ (d.unit u).ctx.image.isSome = true ∧ wOp (nextWord (d.unit u)) = op
    ∧ waitsMet (d.unit u) (nextWord (d.unit u)) = true ∧ (d.unit u).mu.initLeft = 0 ∧ (d.unit u).flight = []

/-- Nothing changes but units `us`, and, of the cores, the watchdog (R87) and the quiescence count (R363). -/
def WordFrame (us : List Nat) (d d' : Device) : Prop :=
  d' = { d with units := d'.units, cores := d'.cores }
    ∧ (∀ v, v ∉ us → d'.unit v = d.unit v)
    ∧ (∀ c, d'.core c = { d.core c with fab := { (d.core c).fab with idleSteps := (d'.core c).fab.idleSteps }
                                        quiesce := (d'.core c).quiesce })

/-- R87: the watchdog of a core that has not expired stands at 0. -/
def WatchdogAtZero (c : Nat) (d d' : Device) : Prop := (d.core c).fab.idleSteps < 2000000 → (d'.core c).fab.idleSteps = 0

/-- A word retires in unit `u`: `y` is the unit with the word's own effect, its record counts the run (R188), the
watchdog restarts (R87), and nothing else changes. -/
def RetiresWith (u : Nat) (d d' : Device) (sat flush runmax : Nat) (y : Machine.Unit) : Prop :=
  WordFrame [u] d d' ∧ WatchdogAtZero (u / 80) d d'
    ∧ d'.unit u = bumpUnit u (d.unit u).active (d.unit u).ctx.pos sat flush runmax y

/-- A word that counts nothing retires, and the unit changes as `f` says. -/
def Retires (u : Nat) (d d' : Device) (f : Machine.Unit → Machine.Unit) : Prop := RetiresWith u d d' 0 0 0 (f (d.unit u))

/-- The word before which the unit stands, as it starts: `init` fixes its extents. -/
def startOf (d : Device) (u : Nat) (init : Core → Machine.Unit → Flight → Flight) : Flight :=
  let x := d.unit u
  init (d.core (u / 80)) x { pos := x.ctx.pos, word := nextWord x, ctx := x.active
                             occ := bitsOf (Ram.read x.ctx.records x.ctx.pos).toNat 96 32 }

/-- The unit at the moment its next word starts. -/
def startUnit (d : Device) (u : Nat) (init : Core → Machine.Unit → Flight → Flight) : Machine.Unit :=
  nextPos { d.unit u with flight := [startOf d u init] }

/-- A word stays in flight in unit `u`, having presented token `t` at every port of OUT_MASK: `y` and `f` are the unit
and the word with the word's own effect.  Nothing but the unit changes. -/
def Presents (u : Nat) (d d' : Device) (y : Machine.Unit) (f : Flight) (t : Token) (rest : List Token) : Prop :=
  let x := d'.unit u
  d' = d.setUnit u x
    ∧ x = { y with out := x.out, flight := [{ f with outbox := rest, waits := outPorts f.word }] }
    ∧ ∀ p, Tab.find x.out p = if p ∈ outPorts f.word then some (portToken y f p t) else Tab.find y.out p

/-- The ports of a word's OUT_MASK, of which there is at least one, are free. -/
abbrev PortsFree (x : Machine.Unit) (w : BitVec 128) : Prop := outPorts w ≠ [] ∧ ∀ p ∈ outPorts w, Tab.find x.out p = none

/-- The slots that a region of an MU holds, oldest first (R208). -/
def regionList (m : Mu) (n : Nat) : List (BitVec 4096) :=
  (List.range (m.desc n).count).map (fun p => m.slotData ((m.desc n).slot p))

/-- A residency entry names a frame that exists: of a core's near tier, or of a far-tier package (R225, R232). -/
abbrev FrameExists (e : BitVec 64) : Prop :=
  (resUnit e < 16 ∧ resFrame e < 2 ^ 18) ∨ (0x20 ≤ resUnit e ∧ resUnit e < 0x38)

/-- The residency table as R236 has it: the frames of VALID pages exist and no two pages share one. -/
def ResidencyWf (d : Device) : Prop :=
  ∀ p, resValid (d.res p) = true → FrameExists (d.res p)
    ∧ ∀ q, q ≠ p → resValid (d.res q) = true → (resUnit (d.res q), resFrame (d.res q)) ≠ (resUnit (d.res p), resFrame (d.res p))

/-- Every VALID page's frame is reserved, and the reservations are in canonical form. -/
def FramesReserved (d : Device) : Prop :=
  Ram.wf d.tiers.frames = true
    ∧ ∀ p, resValid (d.res p) = true → Ram.read d.tiers.frames (resUnit (d.res p) * 2 ^ 19 + resFrame (d.res p)) = 1

/-- R44, R352: core `c` of section `sec` stands at an entry with this code, and no control message comes before it. -/
abbrev Stands (d : Device) (c : Nat) (sec : Section) (code : Nat) : Prop :=
  coreSection d c = some sec ∧ (d.core c).seq.walks = true ∧ ephCode (d.core c).seq.now = code
    ∧ ((d.core c).seq.started = true ∨ d.ctrl c = [])

/-- The entry at which core `c` stands retires (R352, R353): `e` is the block with the entry's own effect, and beside it
only the core's sequencer and the quiescence counts of the section (R363) change. -/
def EntryRetires (c : Nat) (e d : Device) : Prop :=
  d = { e with cores := d.cores }
    ∧ (∀ k, d.core k = { e.core k with seq := (d.core k).seq, quiesce := (d.core k).quiesce })
    ∧ (∀ k, k ≠ c → (d.core k).seq = (e.core k).seq)
    ∧ (d.core c).seq = afterEntry (e.core c).trips (e.core c).seq
    ∧ ∀ sec, coreSection e c = some sec → ∀ k ∈ sec.cores, (d.core k).quiesce = 0

/-- The entry at which a core stands. -/
abbrev entryAt (d : Device) (c : Nat) : BitVec 256 := (d.core c).seq.now

/-- R416, R417: a rung mailbox holds a command with this opcode that Meridian can take: the mailbox service answers,
fewer than 64 commands are held, no thermal trip stands, and the firmware is not about to start (R547). -/
abbrev Rung (d : Device) (m op : Nat) : Prop :=
  serviceOn d = true ∧ (d.mb m).rung = true ∧ (d.mb m).state = .idle ∧ (d.mb m).opcode = op ∧ heldCommands d < 64 ∧ d.power.tripped = false
    ∧ d.boot.chosen = false

/-- Table 13.6: the block once the command of mailbox `m` has been accepted, with the next place in the order of
acceptance, and runs. -/
def taken (m : Nat) (d : Device) : Device :=
  let e := d.setMb m { d.mb m with state := .running, error := 0, order := d.host.orders, since := d.now, rung := false
                                   started := d.now, progress := 0, job := .none }
  { e with host := { e.host with orders := d.host.orders + 1 } }

/-- R434, R485: the same of a command gated by presence, with its gated-use record. -/
def takenGated (m : Nat) (d : Device) : Device := taken m (logCmd 0x43 0 (d.mb m).opcode m 0 d)

/-- No other accepted command with one of these opcodes waits. -/
abbrev NoneWaits (d : Device) (m : Nat) (ops : List Nat) : Prop :=
  ∀ k, k ≠ m → (d.mb k).state = .accepted → (d.mb k).rung = false → (d.mb k).opcode ∉ ops

/-- R487: no command that goes one at a time runs, and none waits. -/
abbrev SerialFree (d : Device) (m : Nat) : Prop :=
  NoneWaits d m serialOps ∧ ∀ k < 16, (d.mb k).opcode ∈ serialOps → (d.mb k).between = false

/-- R454: the stream of a command, of `n` bytes, can be staged: it is not in host memory, or the staging area has room for it
and no earlier one waits. -/
abbrev CanStage (d : Device) (m n : Nat) : Prop :=
  hostStream (d.mb m) = false
    ∨ (d.host.d3 = false ∧ n + ((List.range 16).map (fun k => stagedBytes (d.mb k))).sum ≤ 536870912
        ∧ ∀ k, k ≠ m → hostStream (d.mb k) = true → (d.mb k).state = .accepted → (d.mb k).rung = true)

/-- A placement as R288 makes it: no core twice, and no two logical units on one physical unit. -/
abbrev PlacedWell (sec : Section) : Prop :=
  sec.cores.Nodup ∧ (∀ c ∈ sec.cores, c < 16) ∧ sec.l2p.length = 64 * sec.cores.length ∧ (∀ c ∈ sec.l2p, c < 10)
    ∧ ((logicalUnits sec).map (fun e => e.2.2.2)).Nodup

/-- What R222 and R362 save of a context: words, constants, records, registers, position, loops and expected counts. -/
abbrev SavedContext (s y : Ctx) : Prop :=
  y.image = s.image ∧ y.words = s.words ∧ y.consts = s.consts ∧ y.records = s.records ∧ y.pred = s.pred
    ∧ y.predInit = s.predInit ∧ y.caps = s.caps ∧ y.outTab = s.outTab
    ∧ y.pos = s.pos ∧ y.loops = s.loops ∧ y.yielded = s.yielded ∧ y.expect = s.expect

/-- The logical units of `sec` hold in `d` what the save holds of them (R222, R362); the memory of an MU with a spill region
of the section holds that region too. -/
def UnitsRestored (sec : Section) (v : Save) (d : Device) : Prop :=
  ∀ e ∈ logicalUnits sec,
    let s := Tab.getD v.units (64 * e.1 + 8 * e.2.1 + e.2.2.1) {}
    let y := d.unit e.2.2.2
    y.active = s.active ∧ y.idle = s.idle ∧ y.lanes = s.lanes ∧ y.flight = [] ∧ y.out = [] ∧ y.latch = []
      ∧ y.cu.bank0 = s.cu.bank0 ∧ y.cu.bank1 = s.cu.bank1 ∧ y.mu.descs = s.mu.descs
      ∧ ((∀ g ∈ sec.spills, g.mu ≠ e.2.2.2) → y.mu.ram = s.mu.ram)
      ∧ ∀ k, SavedContext (Tab.getD s.ctxs k {}) (Tab.getD y.ctxs k {})

/-- The cores of `sec` hold in `d` what the save holds of them, and go on from their boundary (R362, R366). -/
def CoresRestored (sec : Section) (v : Save) (d : Device) : Prop :=
  ∀ l < sec.cores.length,
    let s := Tab.getD v.cores l {}
    let y := d.core (sec.phys l)
    y.section_ = some sec.handle ∧ y.logical = l ∧ y.lens = s.lens ∧ y.eps = s.eps ∧ y.streamTab = s.streamTab
      ∧ y.loadQ = s.loadQ ∧ y.tapPatterns = s.tapPatterns ∧ y.tapPos = s.tapPos
      ∧ { y.seq with retired := s.seq.retired } = continueSeq s.seq

/-- The tallies of the section's cores stand as saved, at the places of its new cores (R222). -/
def TalliesRestored (sec : Section) (v : Save) (d : Device) : Prop :=
  ∀ l < sec.cores.length, ∀ i < 1024,
    Ram.read (d.quad (sec.phys l / 4)).sems (1024 * (sec.phys l % 4) + i) = Ram.read v.sems (1024 * l + i)

/-- A spill region of the new placement holds the entries of its record in the save (R222). -/
def SpillsRestored (sec : Section) (v : Save) (d : Device) : Prop :=
  ∀ g ∈ sec.spills, ∀ e, v.spills.find? (fun e => e.1 = g.record) = some e →
    (spillDesc d g).head = e.2.1.head ∧ (spillDesc d g).tail = e.2.1.tail ∧ (spillDesc d g).count = e.2.1.count
      ∧ ((∀ x ∈ sec.spills, x ≠ g → x.mu = g.mu → x.base + 17 * x.cap ≤ g.base ∨ g.base + 17 * g.cap ≤ x.base) →
          Ram.slice (d.unit g.mu).mu.ram g.base (17 * g.cap) = e.2.2 % 2 ^ (256 * (17 * g.cap)))

/-- 64-bit words at the start of a reply area. -/
def replyWords (m : Nat) (vs : List Nat) (d : Device) : Device := vs.zipIdx.foldl (fun d e => reply m (8 * e.2) 8 e.1 d) d

end Sys2Proof.Safety
end

