-- ==== Sys2Proof/Certificates/Slice0/Obligations.lean ====
section
/-!
DEFINITION. Certificates/Slice0/Obligations.lean: the statements about the block.  Each docstring names the rules of
spec/ it rests on.
-/
open Sys2Proof Sys2Proof.Machine Sys2Proof.Safety

/-- R70, R72, R74, R78, R125: a NOP goes to the next word; a LOOP_BEGIN opens a loop of its effective trips, or skips
it when they are 0; a LOOP_END repeats its loop or leaves it; a YIELD leaves the unit idle.  Each completes when its
word may run, and nothing else changes. -/
def Obligations.PlainWordsComplete : Prop := ∀ (s : State) (u : UnitRef),
  (Ready s.dev u.key 0 → Completes (.nop u) s fun d => Retires u.key s.dev d fun x =>
    x.updCtx x.active fun c => { c with pos := (c.pos + 1) % 512 })
  ∧ (∀ l : Loop, l.trips = tripsOf (s.dev.core (u.key / 80)) l.lenReg (imm (nextWord (s.dev.unit u.key)) 0 32) →
      l.lenReg = imm (nextWord (s.dev.unit u.key)) 44 4 → l.first = (s.dev.unit u.key).ctx.pos →
      l.last = imm (nextWord (s.dev.unit u.key)) 32 9 → l.trip = 0 →
      Ready s.dev u.key 2 → Completes (.loopBegin u) s fun d => Retires u.key s.dev d fun x =>
        let skipped := imm (nextWord x) 0 32 - l.trips
        let y := x.updCtx x.active fun c =>
          if l.trips = 0 then { c with pos := (l.last + 1) % 512 } else { c with pos := (c.pos + 1) % 512, loops := c.loops ++ [l] }
        if isCu u.key then { y with cu := { y.cu with skippedTrips := satNat 32 y.cu.skippedTrips skipped } } else y)
  ∧ (∀ l : Loop, (s.dev.unit u.key).ctx.loops.getLast? = some l → Ready s.dev u.key 3 →
      Completes (.loopEnd u) s fun d => Retires u.key s.dev d fun x => x.updCtx x.active fun c =>
        if l.trip + 1 < l.trips then
          { c with pos := (l.first + 1) % 512, loops := c.loops.dropLast ++ [{ l with trip := l.trip + 1 }] }
        else { c with pos := (c.pos + 1) % 512, loops := c.loops.dropLast })
  ∧ (Ready s.dev u.key 6 → Completes (.yield_ u) s fun d => Retires u.key s.dev d fun x =>
      { x.updCtx x.active (fun c => { c with pos := (c.pos + 1) % 512, yielded := true }) with idle := true })

/-- R58, R70, R72, R80: with a token in the lane of SRC_A and every port of OUT_MASK free, a MOVE takes the token and
presents it, in its context, at each of those ports; a SELECT takes one token of each operand and presents the mix of
their payloads, with the larger VALID_BYTES and the port's channel.  The word stays in flight until the ports are
acknowledged, and nothing else changes. -/
def Obligations.SendingWordsComplete : Prop := ∀ (s : State) (u : UnitRef) (a b : Token) (ra rb : List Token),
  let x := s.dev.unit u.key
  let w := nextWord x
  let f := startOf s.dev u.key noInit
  PortsFree x w → x.lane (wSrcA w) x.active = a :: ra →
  (Ready s.dev u.key 1 → Completes (.move u) s fun d =>
      Presents u.key s.dev d { nextPos x with lanes := Tab.set x.lanes (4 * wSrcA w + x.active) ra }
        { f with takenA := 1, done := imm w 0 16 ≤ 1 } (a.withCtx x.active) [])
  ∧ (x.lane (wSrcB w) x.active = b :: rb → wSrcA w ≠ wSrcB w → Ready s.dev u.key 5 → Completes (.select_ u) s fun d =>
      Presents u.key s.dev d
        { nextPos x with lanes := Tab.set (Tab.set x.lanes (4 * wSrcA w + x.active) ra) (4 * wSrcB w + x.active) rb }
        { f with done := true }
        ⟨selectPayload (slotMask x.ctx w) a.payload b.payload, mkTag x.active (wTileEnd w) (max a.valid b.valid) 0 0⟩ [])

/-- R70, R80: a PRED_LOAD writes its predicate slot from the oldest token of SRC_A; a FENCE retires when no token of its
context waits at an output port; a DISCARD drops as many tokens as it names, none where it names 0.  Each completes when its word may run and
its tokens are there, retires, and changes nothing else. -/
def Obligations.TakingWordsComplete : Prop := ∀ (s : State) (u : UnitRef),
  let x := s.dev.unit u.key
  let w := nextWord x
  (∀ (t : Token) (rest : List Token), x.lane (wSrcA w) x.active = t :: rest → Ready s.dev u.key 4 →
      Completes (.predLoad u) s fun d => Retires u.key s.dev d fun x =>
        { x.updCtx x.active (fun c => { c with pos := (c.pos + 1) % 512
                                               pred := Ram.write c.pred (imm w 0 2) (t.payload.setWidth 2048) })
          with lanes := Tab.set x.lanes (4 * wSrcA w + x.active) rest })
  ∧ ((∀ e ∈ x.out, e.2.ctx ≠ x.active) → Ready s.dev u.key 7 →
      Completes (.fence u) s fun d => Retires u.key s.dev d nextPos)
  ∧ (∀ n, n = imm w 0 16 → n ≤ (x.lane (wSrcA w) x.active).length → Ready s.dev u.key 8 →
      Completes (.discard u) s fun d =>
        WordFrame [u.key] s.dev d ∧ WatchdogAtZero (u.key / 80) s.dev d
          ∧ (∀ k, Tab.getD (d.unit u.key).lanes k []
              = if k = 4 * wSrcA w + x.active then (Tab.getD x.lanes k []).drop n else Tab.getD x.lanes k [])
          ∧ d.unit u.key = bumpUnit u.key x.active x.ctx.pos 0 0 0 { nextPos x with lanes := (d.unit u.key).lanes })

/-- R81, R112 to R114, R130 to R134, R139: an MM_ACC whose operands are captured adds its products to the lanes of its bank
and counts the steps of Table 3.2; an ACC_EMIT combines the lanes, converts the tile and sends it, stores it in the
operand buffer, or appends it to the finished-tile queue; an ACC_LOAD fills its bank from 16 tokens; an ACC_CLEAR
makes its bank read zero (both only where a PREDICATED word's mask is set, R81); a BUF_LOAD captures its tokens in the operand buffer.  Each completes when its word may run
and its tokens are there, and nothing else changes.  An MM_ACC whose compute phase goes on captures and stays in flight. -/
def Obligations.MatrixWordsComplete : Prop := ∀ (s : State) (u : UnitRef),
  let k := u.key
  let x := s.dev.unit k
  let w := nextWord x
  (let f := startOf s.dev k initMm
   let r := captureOperands (mmRegA w) (mmRegB w) (startUnit s.dev k initMm) f
   let tab := tabledIn s.dev (k / 80)
   let res := mmResult tab s.dev.boot.fwMajor.toNat x.ctx w f (Unit.region k r.1 (mmRegA w) (mmA w).units) (Unit.region k r.1 (mmRegB w) (mmB w).units)
     (Unit.bankAt k x (imm w 20 1))
   let y := { r.1.pokeBank (imm w 20 1) res.1 with flight := [] }
   captured r.1 r.2 = true → Ready s.dev k 0x20 → Completes (.mmAcc u) s fun d =>
     RetiresWith k s.dev d res.2.sat res.2.flush 0
       { y with cu := { y.cu with mmSteps := satNat 48 x.cu.mmSteps (mmSteps tab w f.k) } })
  ∧ (let r := captureOperands (mmRegA w) (mmRegB w) (startUnit s.dev k initMm) (startOf s.dev k initMm)
     Ready s.dev k 0x20 → Completes (.mmAcc u true) s fun d => d = s.dev.setUnit k { r.1 with flight := [r.2] })
  ∧ (let f := startOf s.dev k initEmit
     let b := imm w 10 1
     let t := emitResult x.ctx w f (Unit.bankAt k x b)
     let y := if bitOf (imm w 11 1) 0 then (nextPos x).setBank b { zeroed := true } else nextPos x
     let done := { f with done := true, sat := t.counts.sat, flush := t.counts.flush, runmax := t.runmax }
     Ready s.dev k 0x21 →
     (∀ tk rest, emitDest w = 0 → PortsFree x w → tileTokens x.active (wTileEnd w) t.units (emitTile w).validBytes = tk :: rest →
        Completes (.accEmit u) s fun d => Presents k s.dev d y done tk rest)
     ∧ (emitDest w = 1 → Completes (.accEmit u) s fun d =>
          RetiresWith k s.dev d t.counts.sat t.counts.flush t.runmax (y.pokeBuf (regionAt w 38 45) t.units))
     ∧ (emitDest w = 2 → (x.cu.ftq.map (fun e => e.units.length)).sum + (emitTile w).units ≤ 32 →
          Completes (.accEmit u) s fun d => RetiresWith k s.dev d t.counts.sat t.counts.flush t.runmax
            { y with cu := { y.cu with ftq := x.cu.ftq ++ [⟨imm w 0 4, imm w 4 6, emitNw w, x.active, true, t.units⟩] } }))
  ∧ (16 ≤ (x.lane (wSrcA w) x.active).length → Ready s.dev k 0x22 → Completes (.accLoad u) s fun d =>
      Retires k s.dev d fun x =>
        { (nextPos x).pokeBank (imm w 0 1) ((loadCells (((x.lane (wSrcA w) x.active).take 16).map (·.payload))).filter
            (fun e => maskBit x.ctx w e.1)) with lanes := (takeMany (wSrcA w) x.active 16 x).2.lanes })
  ∧ (Ready s.dev k 0x23 → Completes (.accClear u) s fun d => Retires k s.dev d fun x =>
      if wPredicated w then (nextPos x).pokeBank (imm w 0 1) (((List.range 2048).filter (maskBit x.ctx w)).map (fun e => (e, 0)))
      else (nextPos x).setBank (imm w 0 1) { zeroed := true })
  ∧ (isPort (wSrcA w) = true → imm w 0 8 ≤ (x.lane (wSrcA w) x.active).length → isPort (wSrcB w) = false →
      Ready s.dev k 0x24 → Completes (.bufLoad u) s fun d =>
      Retires k s.dev d fun x =>
        { (nextPos x).pokeBuf (regionAt w 8 15) (((x.lane (wSrcA w) x.active).take (imm w 0 8)).map (·.payload)) with
          lanes := (takeMany (wSrcA w) x.active (imm w 0 8) x).2.lanes })

/-- R144, R152 to R169: every vector word whose operands are captured forms its result, and sends it, stores it, or
both: V_MAP, V_BCAST, V_FUNC, V_REDUCE, V_PRED, V_STATS, V_SMAX, V_MOVE and V_FILL complete when they may run and their
tokens are there.  A word with nothing to send retires; one with tokens presents the first of them; a V_FUNC or V_SMAX whose
passes go on captures and stays in flight. -/
def Obligations.VectorWordsComplete : Prop := ∀ (s : State) (u : UnitRef),
  let hold := captureOperands (vRegA (nextWord (s.dev.unit u.key))) (vRegB (nextWord (s.dev.unit u.key)))
    (startUnit s.dev u.key initVector) (startOf s.dev u.key initVector)
  (∀ row ∈ ([(0x62, .vFunc u true), (0x66, .vSmax u true)] : List (Nat × Instr)), Ready s.dev u.key row.1 →
    (vSelA (nextWord (s.dev.unit u.key)) = 1 ∨ vSelB (nextWord (s.dev.unit u.key)) = 1 →
      ((s.dev.unit u.key).cu.ftq.head?.map (·.ready)) = some true) →
    Completes row.2 s fun d => d = s.dev.setUnit u.key { hold.1 with flight := [hold.2] })
  ∧
  ∀ row ∈ ([(0x60, formMap, .vMap u), (0x61, formBcast, .vBcast u), (0x62, formFunc, .vFunc u), (0x63, formReduce, .vReduce u),
            (0x64, formPred, .vPred u), (0x65, formStats, .vStats u), (0x66, formSmax, .vSmax u), (0x67, formMove, .vMove u),
            (0x68, formFill, .vFill u)] : List (Nat × (VEnv → VResult) × Instr)),
    let k := u.key
    let x := s.dev.unit k
    let w := nextWord x
    let r := captureOperands (vRegA w) (vRegB w) (startUnit s.dev k initVector) (startOf s.dev k initVector)
    let e := vEnv s.dev k r.1 r.2
    let o := vFinish s.dev k e (row.2.1 e) r.1 r.2
    Ready s.dev k row.1 → captured r.1 r.2 = true →
    (vSelA w = 1 ∨ vSelB w = 1 → (x.cu.ftq.head?.map (·.ready)) = some true) →
    (o.2.outbox = [] → Completes row.2.2 s fun d =>
        RetiresWith k s.dev d o.2.sat o.2.flush o.2.runmax (retirePop o.2 { o.1 with flight := [] }))
    ∧ (∀ t rest, o.2.outbox = t :: rest → PortsFree x w → Completes row.2.2 s fun d => Presents k s.dev d o.1 o.2 t rest)

/-- R208: a region of an MU is a queue.  What a push appends stands after what the region held, in order; what a release
takes leaves from the front; no other region and no word outside the slots written changes. -/
def Obligations.RegionIsAQueue : Prop := ∀ (m : Mu) (n : Nat) (vs : List (BitVec 4096)),
  (m.desc n).count + vs.length ≤ (m.desc n).len →
  regionList (Mu.pushSlots n vs m) n = regionList m n ++ vs
  ∧ (∀ j, j ≠ n → (Mu.pushSlots n vs m).desc j = m.desc j)
  ∧ (∀ a, (∀ p, (m.desc n).count ≤ p → p < (m.desc n).count + vs.length →
            a < 16 * (m.desc n).slot p ∨ 16 * (m.desc n).slot p + 16 ≤ a) →
        Ram.read (Mu.pushSlots n vs m).ram a = Ram.read m.ram a)
  ∧ ∀ k ≤ (m.desc n).count, regionList (m.setDesc n ((m.desc n).advance k)) n = (regionList m n).drop k

/-- R206, R209, R210, R213: DESC_SET loads a descriptor from its constant; PUSH appends its tokens and ZERO zero slots
to a region that has room; RELEASE takes slots that the region holds; a READ or COL_READ whose slots are held sends the
token they form.  Each completes when its word may run, and nothing else changes. -/
def Obligations.ScratchpadWordsComplete : Prop := ∀ (s : State) (u : UnitRef) (word : Fin 16),
  let k := u.key
  let x := s.dev.unit k
  let w := nextWord x
  let n := muDesc w
  (Ready s.dev k 0xA0 → Completes (.descSet u) s fun d => Retires k s.dev d fun x =>
    { nextPos x with mu := x.mu.setDesc n { cfg := (Ram.read x.ctx.consts (imm w 43 6)).setWidth 28, valid := true } })
  ∧ (muCount w ≤ (x.lane (wSrcA w) x.active).length → muCount w ≤ x.mu.room n → Ready s.dev k 0xA1 →
      Completes (.push u) s fun d => Retires k s.dev d fun x =>
        { nextPos x with mu := Mu.pushSlots n (((x.lane (wSrcA w) x.active).take (muCount w)).map (·.payload)) x.mu
                         lanes := (takeMany (wSrcA w) x.active (muCount w) x).2.lanes })
  ∧ (muCount w ≤ x.mu.room n → Ready s.dev k 0xA5 → Completes (.zero u) s fun d => Retires k s.dev d fun x =>
      { nextPos x with mu := Mu.pushSlots n (List.replicate (muCount w) 0) x.mu })
  ∧ (muCount w ≤ (x.mu.desc n).count → Ready s.dev k 0xA4 → Completes (.release_ u) s fun d => Retires k s.dev d fun x =>
      { nextPos x with mu := x.mu.setDesc n ((x.mu.desc n).advance (muCount w)) })
  ∧ (∀ row ∈ ([(0xA2, .read_ u .clean word), (0xA3, .colRead u .clean word)] : List (Nat × Instr)), ∀ ws,
      let f := startOf s.dev k noInit
      let v := ws.zipIdx.foldl (fun acc e => acc + ((Ram.read x.mu.ram e.1).toNat <<< (256 * e.2))) 0
      let m := x.mu.setDesc n ((x.mu.desc n).advance (readFree w 0))
      PortsFree x w → readWords x f = some ws → Ready s.dev k row.1 → Completes row.2 s fun d =>
        Presents k s.dev d { nextPos x with mu := { m with bankSteps := satNat 48 m.bankSteps (accessSteps ws) } }
          { f with takenA := 1, takenB := readFree w 0, done := readTotal w = 1 }
          ⟨BitVec.ofNat 4096 v, mkTag x.active (wTileEnd w && decide (1 = readTotal w)) 512 0 0⟩ [])

/-- R51, R53, R61, R62, R83, R84: a token routed to an input port of its unit is accepted at the end of its lane while
the lane has room and nothing of it is spilled, else at the end of its spill region; the oldest spilled token returns to
a lane that has room; a token due on a harness link crosses to the latch at the far node, which must be free. -/
def Obligations.TokensMove : Prop := ∀ (s : State) (u : UnitRef) (t : Token),
  let x := s.dev.unit u.key
  (∀ (src : Fin 12) (r : Nat), sourceToken x src.val = some t → routeOf x t = some r → r < 4 → bitOf x.held t.ctx = false →
    ((x.lane r t.ctx).length < x.laneCap r t.ctx → spillHeld s.dev u.key r t.ctx = 0 →
      Completes (.tokenTransfer u src) s fun d =>
        (d.unit u.key).lane r t.ctx = x.lane r t.ctx ++ [t] ∧ (d.unit u.key).moved = true
          ∧ (src.val < 8 → d = s.dev.setUnit u.key { x with
              moved := true, latch := Tab.erase x.latch src.val, lanes := Tab.set x.lanes (4 * r + t.ctx) (x.lane r t.ctx ++ [t]) }))
    ∧ (∀ sp, (x.laneCap r t.ctx ≤ (x.lane r t.ctx).length ∨ spillHeld s.dev u.key r t.ctx ≠ 0) → spillOf s.dev u.key r t.ctx = some sp →
        (spillDesc s.dev sp).count < sp.cap → (spillDesc s.dev sp).cap = sp.cap → src.val < 8 → sp.mu ≠ u.key →
        Completes (.tokenTransfer u src) s fun d =>
          (spillDesc d sp).count = (spillDesc s.dev sp).count + 1
            ∧ (d.unit u.key).lane r t.ctx = x.lane r t.ctx ∧ Tab.find (d.unit u.key).latch src.val = none
            ∧ Ram.slice (d.unit sp.mu).mu.ram ((spillDesc s.dev sp).base + 17 * (spillDesc s.dev sp).tail) 17
                = t.payload.toNat + (t.tag.toNat <<< 4096)
            ∧ (d.core u.core.val).fab.spillTokens = satNat 48 (s.dev.core u.core.val).fab.spillTokens 1))
  ∧ (∀ (port lane : Fin 4) (word : Fin 17) (sp : SpillRegion), spillOf s.dev u.key port.val lane.val = some sp →
      0 < (spillDesc s.dev sp).count → (spillDesc s.dev sp).failed = false → (x.lane port.val lane.val).length < x.laneCap port.val lane.val →
      Ram.slice (s.dev.unit sp.mu).mu.ram ((spillDesc s.dev sp).base + 17 * (spillDesc s.dev sp).head) 17
        = t.payload.toNat + (t.tag.toNat <<< 4096) →
      Completes (.spillTokenReturn u port lane .clean word) s fun d =>
        (d.unit u.key).lane port.val lane.val = x.lane port.val lane.val ++ [t]
          ∧ (spillDesc d sp).count + 1 = (spillDesc s.dev sp).count)
  ∧ (∀ (dir : Fin 4) (edge : Bool) (src v : Nat), farNode u.key dir.val edge = some v → v ≠ u.key →
      dueSource x dir.val edge = some (src, t) → linkFenced s.dev u.key dir.val edge = false →
      Tab.find (s.dev.unit v).latch (linkKey (opposite dir.val) edge) = none →
      Completes (.harnessLinkToken u dir edge) s fun d =>
        Tab.find (d.unit v).latch (linkKey (opposite dir.val) edge) = some t
          ∧ (src < 8 → Tab.find (d.unit u.key).latch src = none)
          ∧ Tab.getD (d.unit u.key).ctx.linkPos (linkSlot dir.val edge) (0, 0)
              = stepPattern (patternAt x.ctx (linkSlot dir.val edge)) (Tab.getD x.ctx.linkPos (linkSlot dir.val edge) (0, 0)))

/-- R39, R40, R87, R94 to R96: a turn of a packet-network link carries the oldest flit of the turn's channel when it may,
and else of the first channel that may; a flit waits in the queue of its class's channel.  A hitch stores what comes while
its buffer of 32 has room, remembers a request for a far-tier entry, passes flits to the hub in order of arrival, and gives
the fabric the rest of a packet begun, or else the oldest flit; a far-tier response only when its entry is the next asked
for of its queue.  A token that leaves so returns its core's watchdog to 0.  Each turn completes, and changes only its link
or its hitch.  A link supplied from a quadrant that is turned off stands still; a flit between quadrants joins a link only
where its route leads, which goes through the hub die where it would cross such a quadrant (R538). -/
def Obligations.PacketNetworkTurns : Prop := ∀ (s : State),
  (∀ (link : Fin 64) (arrive : Option (Traffic × BitVec 512)) (credit : BitVec 4),
    let n := Tab.getD s.dev.netLinks link.val {}
    linkDark s.dev.power.quadrantOff link.val = false → Completes (.packetFlitTurn link arrive credit) s fun d =>
      let m := Tab.getD d.netLinks link.val {}
      d = { s.dev with netLinks := Tab.set s.dev.netLinks link.val m } ∧ m.turn = (n.turn + 1) % 8
        ∧ (arrive = none → credit = 0 → ∀ (vc : Nat) (f : BitVec 512) (rest : List (BitVec 512)), vc < 4 →
            Tab.getD n.queues vc [] = f :: rest → 0 < Tab.getD n.credits vc 0 →
            (vc = turnOwner n.turn ∨ (netReady n (turnOwner n.turn) = false ∧ ∀ k < vc, netReady n k = false)) →
            m.last = some (vc, f) ∧ Tab.getD m.queues vc [] = rest ∧ Tab.getD m.credits vc 0 + 1 = Tab.getD n.credits vc 0
              ∧ ∀ k, k ≠ vc → Tab.getD m.queues k [] = Tab.getD n.queues k [] ∧ Tab.getD m.credits k 0 = Tab.getD n.credits k 0)
        ∧ (∀ t f, arrive = some (t, f) → credit = 0 → (∀ vc < 4, Tab.getD n.credits vc 0 = 0) →
            m = { n with turn := m.turn, queues := Tab.set n.queues (trafficChannel t) (Tab.getD n.queues (trafficChannel t) [] ++ [f]) }))
  ∧ (∀ (link : Fin 64) (arrive : Option (Traffic × BitVec 512)) (credit : BitVec 4) (a b : Fin 4),
      (linkDark s.dev.power.quadrantOff link.val = true →
        Completes (.packetFlitTurn link arrive credit (some (a, b))) s fun d => d = s.dev)
      ∧ (linkDark s.dev.power.quadrantOff link.val = false →
          onRoute (routeQuads s.dev.power.quadrantOff a.val b.val) link.val = false →
          ∀ d, exec (.packetFlitTurn link none credit) s = .next { s with dev := d } →
            Completes (.packetFlitTurn link arrive credit (some (a, b))) s fun e => e = d)
      ∧ (∀ q ∈ routeQuads s.dev.power.quadrantOff a.val b.val, q ≠ a.val → q ≠ b.val → q = 4 ∨ s.dev.power.quadrantOff.getLsbD q = false))
  ∧ (∀ (q vc : Fin 4) (f : HubFlit) (ready : Bool),
      let h := Tab.getD s.dev.hitches (4 * q.val + vc.val) {}
      trafficChannel f.cls = vc.val → h.toHub.length < 32 → Completes (.hitchFlitToHub q vc (some f) ready) s fun d =>
        let g := Tab.getD d.hitches (4 * q.val + vc.val) {}
        d = { s.dev with hitches := Tab.set s.dev.hitches (4 * q.val + vc.val) g, cores := d.cores }
          ∧ (f.token = none → d.cores = s.dev.cores) ∧ (∀ c, f.token = some c → WatchdogAtZero (4 * q.val + c.val) s.dev d)
          ∧ (f.req = none → g.asked = h.asked)
          ∧ (∀ k e, f.req = some (k, e) → g.asked = Tab.set h.asked k.val (Tab.getD h.asked k.val [] ++ [e]))
          ∧ (ready = false → g.toHub = h.toHub ++ [f.bits] ∧ g.toHubCount = h.toHubCount)
          ∧ (ready = true → g.lastHub = (h.toHub ++ [f.bits]).head? ∧ g.toHub = (h.toHub ++ [f.bits]).tail
              ∧ g.toHubCount = h.toHubCount + 1))
  ∧ (∀ (q vc : Fin 4),
      let h := Tab.getD s.dev.hitches (4 * q.val + vc.val) {}
      let becomes (d : Device) (g : Hitch) : Prop := d = { s.dev with hitches := Tab.set s.dev.hitches (4 * q.val + vc.val) g }
      (∀ f : FabricFlit, trafficChannel f.cls = vc.val → h.toFabric.length < 32 →
        Completes (.hitchFlitToFabric q vc (some f.toPlainFlit) f.resp false) s fun d => becomes d { h with toFabric := h.toFabric ++ [f] })
      ∧ (∀ pre f post, h.toFabric = pre ++ f :: post → (∀ g ∈ pre, g.resp ≠ f.resp) →
          (h.packet = some f.resp
            ∨ (h.packet = none ∧ ((pre = [] ∧ f.resp = none)
                ∨ ∃ k e old more, (pre ++ [f]).head?.map (·.resp) = some (some (k, old)) ∧ Tab.getD h.asked k.val [] = e :: more
                    ∧ f.resp = some (k, e)))) →
          Completes (.hitchFlitToFabric q vc none none true) s fun d =>
            let g := Tab.getD d.hitches (4 * q.val + vc.val) {}
            becomes d { h with toFabric := pre ++ post, lastFabric := some f, toFabricCount := h.toFabricCount + 1
                               packet := if f.last then none else some f.resp, asked := g.asked }
              ∧ (∀ k e more, f.resp = some (k, e) → Tab.getD h.asked k.val [] = e :: more →
                  Tab.getD g.asked k.val [] = if f.last then more else e :: more))
      ∧ (∀ f rest k old e more, h.toFabric = f :: rest → f.resp = some (k, old) → h.packet = none →
          Tab.getD h.asked k.val [] = e :: more → (∀ g ∈ h.toFabric, g.resp ≠ some (k, e)) →
          Completes (.hitchFlitToFabric q vc none none true) s fun d => becomes d h))

/-- R73, R74, R76, R78: CONTEXT_SWITCH, CONTEXT_RELOAD and CONTEXT_WRITE answer a next state: a unit that is idle, with
nothing in flight and no reload, switches to the context it was asked for, and is idle again if no image is loaded there; a
reload begins by holding its lane once the lane is empty and its row's bus is free; each write takes the next 16 bytes of
the image from the frame store, and a write that meets an invalid or poisoned page halts the section (R229, R456); after 1,024 writes, whatever the context held before, the new one takes effect, at position
0 and with its initial predicates, and the lane is free. -/
def Obligations.ContextsComplete : Prop := ∀ (s : State) (u : UnitRef) (err : TierErr),
  let x := s.dev.unit u.key
  (∀ k, x.switchReq = some k → x.idle = true → x.flight = [] → x.reload = none →
      ∃ y, exec (.contextSwitch u) s = .next { s with dev := s.dev.setUnit u.key y }
        ∧ y = { x with active := k, switchReq := none, idle := y.idle, ctxs := y.ctxs }
        ∧ y.idle = (Tab.getD x.ctxs k {}).image.isNone ∧ (∀ j, j ≠ k → Tab.getD y.ctxs j {} = Tab.getD x.ctxs j {})
        ∧ Tab.getD y.ctxs k {} = { Tab.getD x.ctxs k {} with yielded := (Tab.getD x.ctxs k {}).yielded && y.idle })
  ∧ (∀ r, x.reload = some r → r.begun = false → laneEmpty s.dev u.key r.ctx = true → rowBusy s.dev u.key = false →
      (r.ctx ≠ x.active ∨ (x.idle = true ∧ x.flight = [])) →
      let y := { x with reload := some { r with begun := true }, held := x.held ||| 2 ^ r.ctx }
      exec (.contextReload u) s = .next { s with dev := s.dev.setUnit u.key y })
  ∧ (∀ r sec, x.reload = some r → r.begun = true → coreSection s.dev (u.key / 80) = some sec →
      (let e := match reloadReads s.dev u.key with
         | some a => tierFound (liveMbx s.dev sec) err a.1 a.2 s.dev
         | none => s.dev
       r.count < 1024 →
        (storeFault e sec u.key r.image (r.count / 256) = none →
          exec (.contextWrite u err) s = .next { s with dev := countReloadFrame u.key r.image (r.count + 1) (e.setUnit u.key
            { x with reload := some { r with
                count := r.count + 1
                writes := Ram.write r.writes r.count
                  (BitVec.ofNat 128 (storePart e sec u.key r.image (r.count / 256) >>> (128 * (r.count % 256)))) } }) })
        ∧ ∀ a code, storeFault e sec u.key r.image (r.count / 256) = some (a, code) →
            exec (.contextWrite u err) s = .next { s with dev := streamFault sec.handle a 0xFFFFFFFF code e })
      ∧ (r.count = 1024 → Ram.wf r.writes = true → err = none →
          (∀ n, (Tab.getD x.ctxs r.ctx {}).image = some n ∨ (n = r.image ∧ n < 2 ^ 20) → statsPoison s.dev sec n = none) →
          ∃ d, exec (.contextWrite u err) s = .next { s with dev := d }
            ∧ let c := Tab.getD (d.unit u.key).ctxs r.ctx {}
              (d.unit u.key).reload = none ∧ bitOf (d.unit u.key).held r.ctx = false
                ∧ c.image = (if 2 ^ 20 ≤ r.image then none else some r.image) ∧ c.pos = 0 ∧ c.loops = [] ∧ c.pred = c.predInit
                ∧ (∀ p < 256, Ram.read c.words p = Ram.read r.writes p)
                ∧ (isCu u.key = false → d = resetTaps u.key r.ctx (s.dev.setUnit u.key (d.unit u.key)))))

/-- R87, R88, R98, R217, R218: 2,000,000 reference steps without progress while a command runs halt the section: its command
ends FAILED with ERROR 0x30, the core's watchdog stands expired, and FAB_DEADLOCK_QUEUE names the first exhausted queue of the
section.  A scrubber's read, 256 steps after its last and in a step that words and
spill leave idle, takes one bank step, goes on to the next weight-class slot, and counts a corrected error; an uncorrected one in a running section latches its word,
class and source, and ends the command FAILED with 0x40 and the place in its reply. -/
def Obligations.WatchdogAndScrubber : Prop := ∀ (s : State),
  (∀ (c : Fin 16) (sec : Section) (m : Nat), coreSection s.dev c.val = some sec → liveMbx s.dev sec = some m → m < 16 →
    2000000 ≤ (s.dev.core c.val).fab.idleSteps → regionLoading s.dev sec.handle = false →
    (s.dev.set.state = 3 → s.dev.set.handle ≠ sec.handle) →
    (∀ k e, (s.dev.mb k).job ≠ .offline e) → Completes (.progressWatchdogExpiry c) s fun d =>
      (d.mb m).state = .failed ∧ (d.mb m).error = 0x30#8 ∧ (d.core c.val).fab.deadlock = true
        ∧ (d.core c.val).fab.deadlockQueue = BitVec.ofNat 32 ((sectionExhausted s.dev sec).headD 0xFFFFFFFF)
        ∧ (d.section? sec.handle).map (·.state) = some .halted)
  ∧ (∀ (u : UnitRef) (k : Nat) (err : Ecc) (word : Fin 16), (err = .clean ∨ err = .corrected) →
      let m := (s.dev.unit u.key).mu
      nextWeightSlot m m.scrubPos = some k → m.initLeft = 0 → m.scrubWait = 0 → arrayWanted s.dev u.key = false →
      Completes (.muScrubRead u err word) s fun d =>
        let y := (d.unit u.key).mu
        y.bankSteps = satNat 48 m.bankSteps 1 ∧ y.scrubWait = 256
          ∧ (∀ n, nextWeightSlot m (k + 1) = some n → y.scrubPos = n ∧ y.scrubPasses = m.scrubPasses)
          ∧ (nextWeightSlot m (k + 1) = none → y.scrubPasses = m.scrubPasses + 1)
          ∧ (err = .clean → d = s.dev.setUnit u.key (d.unit u.key))
          ∧ (err = .corrected → y.corrWgt = satNat 48 m.corrWgt 1))
  ∧ (∀ (u : UnitRef) (k : Nat) (word : Fin 16) (sec : Section) (j : Nat),
      let m := (s.dev.unit u.key).mu
      coreSection s.dev u.core.val = some sec → sec.state = .running → liveMbx s.dev sec = some j → j < 16 →
      (∀ i e, (s.dev.mb i).job ≠ .offline e) → nextWeightSlot m m.scrubPos = some k → m.initLeft = 0 → m.scrubWait = 0 →
      arrayWanted s.dev u.key = false → m.fatalValid = false →
      Completes (.muScrubRead u .uncorrected word) s fun d =>
        let y := (d.unit u.key).mu
        y.eccFatal = true ∧ y.fatalWord = 16 * k + word.val ∧ y.fatalClass = true ∧ y.fatalScrub = true ∧ y.fatalValid = true
          ∧ (d.mb j).state = .failed ∧ (d.mb j).error = 0x40#8
          ∧ Ram.slice (d.mb j).reply 0 8 = unitId u.key + (1 <<< 16) + ((16 * k + word.val) <<< 32)
          ∧ (d.section? sec.handle).map (·.state) = some .halted)

/-- R251, R252, R20: a DQ_WAIT_FILL or DQ_WAIT_DRAIN raises its EXPECT by COUNT and retires when DONE has reached it; a DQ_OPEN
adds COUNT to the GATE of its stream, a counter that stays at its maximum, and retires. -/
def Obligations.DecouplingWordsComplete : Prop := ∀ (s : State) (u : UnitRef),
  let k := u.key
  let x := s.dev.unit k
  let w := nextWord x
  let n := dqStream w
  let expect := Ram.read x.ctx.expect n + BitVec.ofNat 32 (dqCount w)
  (∀ row ∈ ([(0xD0, .dqWaitFill u), (0xD1, .dqWaitDrain u)] : List (Nat × Instr)),
    dqMet (s.dev.slot (k / 80) n).done expect = true → Ready s.dev k row.1 → Completes row.2 s fun d =>
      Retires k s.dev d fun x => (nextPos x).updCtx x.active fun c => { c with expect := Ram.write c.expect n expect })
  ∧ (Ready s.dev k 0xD2 → Completes (.dqOpen u) s fun d =>
      (d.slot (k / 80) n).gate.toNat = min ((s.dev.slot (k / 80) n).gate.toNat + dqCount w) (2 ^ 32 - 1)
        ∧ Retires k (s.dev.updSlot (k / 80) n (fun q => { q with gate := (d.slot (k / 80) n).gate })) d nextPos)

/-- R240 to R242, R245: the end of a walk caches the entry of a VALID page as the most recently used of its set of four,
raises the page's AFFINITY and names the core as its last reader; an invalidation takes its page out of every translation
cache, and no other page.  The move and the command that waited for its acknowledgement alone then end: the move frees its
old frame, and the command is DONE; a frame that a freed page left is free once no invalidation of its page waits. -/
def Obligations.TranslationsComplete : Prop := ∀ (s : State),
  (∀ (c : Fin 16) (page : Page), let p := page.toNat
    (s.dev.core c.val).walks.contains p = true → resValid (s.dev.res p) = true → Completes (.translationFill c page) s fun d =>
      tcSet (d.core c.val) p = ⟨p, d.res p, 0⟩ :: (tcSet (s.dev.core c.val) p).take 3
        ∧ (d.core c.val).walks = (s.dev.core c.val).walks.erase p
        ∧ resAffinity (d.res p) = min 255 (resAffinity (s.dev.res p) + 1) ∧ resLast (d.res p) = c.val
        ∧ (∀ q, q ≠ p → d.res q = s.dev.res q) ∧ d.units = s.dev.units ∧ d.host = s.dev.host)
  ∧ (∀ (p : Nat) (rest : List Nat), s.dev.tiers.invals = p :: rest → Completes .invalidation s fun d =>
      let unmoved : Prop := ∀ m < 16, ∀ t todo fl a b, (s.dev.mb m).job = .moving t todo fl a b → todo = []
      (s.dev.tiers.moves = [] → s.dev.tiers.freeing = [] → (∀ m < 16, ∀ ps, (s.dev.mb m).job ≠ .changing ps) →
          (∀ m < 16, ∀ t todo fl a b, (s.dev.mb m).job ≠ .moving t todo fl a b) →
          d = { s.dev with tiers := { s.dev.tiers with invals := rest }, cores := d.cores })
        ∧ (s.dev.tiers.moves = [] → unmoved → Ram.wf s.dev.tiers.frames = true → ∀ e ∈ s.dev.tiers.freeing, e.1 ∉ rest →
            Ram.read d.tiers.frames (e.2.1 * 2 ^ 19 + e.2.2) = 0 ∧ e ∉ d.tiers.freeing)
        ∧ d.tiers.invals = rest
        ∧ (∀ c < 16, tcHas (d.core c) p = false ∧ ∀ q, q ≠ p → tcHas (d.core c) q = tcHas (s.dev.core c) q)
        ∧ (∀ mv, s.dev.tiers.moves = [mv] → mv.switched = true → mv.page = p → p ∉ rest → pageReads s.dev p = false →
            s.dev.tiers.freeing = [] → unmoved → d.tiers.moves = [] ∧ d.tiers.frames = Ram.write s.dev.tiers.frames (mv.oldUnit * 2 ^ 19 + mv.oldFrame) 0)
        ∧ ∀ m < 16, ∀ ps, (s.dev.mb m).job = .changing ps → (s.dev.mb m).state.started = true → (∀ q ∈ ps, q ∉ rest) →
            (d.mb m).state = .done)

/-- R233, R237, R248, R258, R259: a stream that may go on requests its next entry at the emptiest queue of its gang; the
answer fills the oldest unfilled entry of the queue with the 512 bytes of its address; an entry of a wholly filled tile
whose channel is due enters its tap as a token, and leaves its queue. -/
def Obligations.LoadsComplete : Prop := ∀ (s : State) (c : Fin 16),
  let x := s.dev.core c.val
  (∀ n q, nextStream x = some n → let sl := s.dev.slot c.val n
    sdStore sl.words = false → pickQueue (loadCount x) sl.gang = some q →
    accessFault s.dev (sl.addr sl.reqTile sl.reqIdx) = none →
    nextStream ((requestLoad c.val n sl s.dev).core c.val) = none → Completes (.streamEntryRequest c) s fun d =>
      Tab.getD (d.core c.val).loadQ q [] = Tab.getD x.loadQ q [] ++ [⟨n, sl.reqTile, sl.reqIdx, sl.addr sl.reqTile sl.reqIdx, none⟩]
        ∧ (d.slot c.val n).pending = sl.pending + 1
        ∧ (d.slot c.val n).reqTile * sdTile sl.words + (d.slot c.val n).reqIdx
            = sl.reqTile * sdTile sl.words + (if sl.reqIdx + 1 = sdTile sl.words then sdTile sl.words else sl.reqIdx + 1)
        ∧ d = s.dev.setCore c.val (d.core c.val))
  ∧ (∀ (q : Fin 16) (e : LoadEntry), oldestUnfilled x q.val = some e → accessFault s.dev e.addr = none →
      tcHas x (e.addr / 65536) = true → Completes (.loadEntryFill c q .clean) s fun d =>
        Tab.getD (d.core c.val).loadQ q.val []
            = fillFirst (BitVec.ofNat 4096 (readLogical s.dev e.addr 512)) (Tab.getD x.loadQ q.val [])
          ∧ (∀ k, k ≠ q.val → Tab.getD (d.core c.val).loadQ k [] = Tab.getD x.loadQ k [])
          ∧ (d.slot c.val e.slot).bytes = satNat 48 (s.dev.slot c.val e.slot).bytes 512
          ∧ d.tiers.near = s.dev.tiers.near ∧ d.tiers.far = s.dev.tiers.far)
  ∧ (∀ (n : Fin 16) (t : Nat) (e : LoadEntry), let sl := s.dev.slot c.val n.val
      sl.active = true → sdStore sl.words = false → sendable s.dev c.val n.val = some t →
      (tileEntries x n.val t).find? (fun y => y.idx = sl.sentOf t) = some e → Completes (.streamTileRelease c n) s fun d =>
        let tap := (sl.chan t).2.1
        Tab.find (d.unit (tapUnit c.val tap)).latch (tapNode tap).2.2
            = some ⟨e.data.getD 0, mkTag (sl.chan t).2.2 (decide (sl.sentOf t + 1 = sdTile sl.words)) 512 0 (sl.chan t).1⟩
          ∧ (∀ q, e ∉ Tab.getD (d.core c.val).loadQ q []) ∧ d.slot c.val n.val = sl.countSent t)

/-- R237, R238, R249, R258: a store stream's free queue entry takes the token that its tap presents, with the address of
the entry; when the tier acknowledges, the 512 bytes are in the memory, every other byte of a page that had been written
reads as before, and the entry is gone. -/
def Obligations.StoresComplete : Prop := ∀ (s : State) (c : Fin 16),
  let x := s.dev.core c.val
  (∀ (tap : Fin 36) (src : Nat) (t : Token) (n q : Nat), tapToken s.dev c.val tap.val = some (src, t) →
    storeSlot x tap.val t = some n → let sl := s.dev.slot c.val n
    pickQueue (storeCount x) sl.gang = some q → Completes (.storeQueueAccept c tap) s fun d =>
      Tab.getD (d.core c.val).storeQ q []
          = Tab.getD x.storeQ q [] ++ [⟨n, sl.reqTile, sl.addr sl.reqTile sl.reqIdx, t.payload, false⟩]
        ∧ (d.slot c.val n).pending = sl.pending + 1
        ∧ (src < 8 → Tab.find (d.unit (tapUnit c.val tap.val)).latch src = none))
  ∧ (∀ (q : Fin 8) (e : StoreEntry), (Tab.getD x.storeQ q.val []).find? (·.issued) = some e → e.addr % 512 = 0 →
      e.addr < 2 ^ 40 → accessFault s.dev e.addr = none → tcHas x (e.addr / 65536) = true →
      gradOwner s.dev (e.addr / 65536) = none → ResidencyWf s.dev → ∀ err, Completes (.storeWriteAck c q err) s fun d =>
        readLogical d e.addr 512 = e.data.toNat
          ∧ (∀ a, (a < e.addr ∨ e.addr + 512 ≤ a) → (a / 65536 = e.addr / 65536 → resTier (s.dev.res (a / 65536)) ≠ 0) →
              readLogical d a 1 = readLogical s.dev a 1)
          ∧ Tab.getD (d.core c.val).storeQ q.val [] = (Tab.getD x.storeQ q.val []).erase e
          ∧ resTier (d.res (e.addr / 65536))
              = (if resTier (s.dev.res (e.addr / 65536)) = 0 then tierOf (resUnit (s.dev.res (e.addr / 65536)))
                 else resTier (s.dev.res (e.addr / 65536))))

/-- R227, R230, R242 to R245: the first queued promotion that may be made starts and marks its page MOVING; the end of its
copy names the new frame in the page's entry, clears MOVING, sends an invalidation, and leaves every byte of the page as
it read; a copy that meets an uncorrected error poisons the page, which stays (R229; that the move is given up is the model's
choice, log entry 66); the sweep halves the AFFINITY of every page; a patrol read counts a corrected error and poisons the page of an
uncorrected one, and a clean read and a refresh change nothing. -/
def Obligations.MigrationAndPatrolComplete : Prop := ∀ (s : State),
  (∀ (q : Promo) (rest : List Promo), s.dev.tiers.promoQ = q :: rest → s.dev.tiers.moves.length < 4 →
    (q.asked = true ∨ resTier (s.dev.res q.page) = 2) → s.dev.tiers.demoteLow.toNat < offerCount s.dev q.core →
    resValid (s.dev.res q.page) = true → resPin (s.dev.res q.page) = false → resMoving (s.dev.res q.page) = false →
    (∀ mv ∈ s.dev.tiers.moves, mv.switched = true → mv.page ∈ s.dev.tiers.invals ∨ pageReads s.dev mv.page = true) →
    resUnit (s.dev.res q.page) ≠ q.core → lowestGap 0 (usedFrames s.dev q.core) < frameLimit s.dev q.core →
    Completes .migrationMoveStart s fun d =>
      d.tiers.promoQ = rest ∧ resMoving (d.res q.page) = true ∧ (∀ p, p ≠ q.page → d.res p = s.dev.res p)
        ∧ d.tiers.moves = s.dev.tiers.moves ++ [⟨q.page, resUnit (s.dev.res q.page), resFrame (s.dev.res q.page), q.core,
                                                 lowestGap 0 (usedFrames s.dev q.core), 0, 0, false⟩])
  ∧ (∀ (page : Page) (mv : Move), let p := page.toNat
      s.dev.tiers.moves.find? (fun m => m.page = p && !m.switched) = some mv → mv.kind < 2 →
      memoriesWf s.dev = true → mv.oldUnit = resUnit (s.dev.res p) → mv.oldFrame = resFrame (s.dev.res p) → resValid (s.dev.res p) = true →
      ((mv.newUnit < 16 ∧ mv.newFrame < 2 ^ 18) ∨ (0x20 ≤ mv.newUnit ∧ mv.newUnit < 0x38 ∧ mv.newFrame < 2 ^ 19)) →
      ∀ err : TierErr,
      ((∀ e ∈ err, e.2 ≠ .uncorrected) → Completes (.moveCopyDone page err) s fun d =>
        resUnit (d.res p) = mv.newUnit ∧ resFrame (d.res p) = mv.newFrame ∧ resMoving (d.res p) = false
          ∧ d.tiers.invals = s.dev.tiers.invals ++ [p]
          ∧ ∀ off n, off + n ≤ 65536 → readPage d p off n = readPage s.dev p off n)
      ∧ (∀ y, err = some (y, .uncorrected) → tierMeets err (65536 * p) 65536 s.dev = true →
          Completes (.moveCopyDone page err) s fun d =>
            resPoison (d.res p) = true ∧ resMoving (d.res p) = false ∧ d.tiers.invals = s.dev.tiers.invals
              ∧ resUnit (d.res p) = mv.oldUnit ∧ resFrame (d.res p) = mv.oldFrame))
  ∧ (0 < s.dev.tiers.decayS.toNat → s.dev.tiers.decayAt + 1000000 * s.dev.tiers.decayS.toNat ≤ s.dev.now →
      meridianRuns s.dev = true → Ram.wf s.dev.tiers.table = true → Completes .affinityDecaySweep s fun d =>
        d.tiers.decayAt = s.dev.now ∧ ∀ p, resAffinity (d.res p) = resAffinity (s.dev.res p) / 2
          ∧ resUnit (d.res p) = resUnit (s.dev.res p) ∧ resFrame (d.res p) = resFrame (s.dev.res p)
          ∧ resValid (d.res p) = resValid (s.dev.res p))
  ∧ ∀ (c : Fin 16) (frame : BitVec 18) (entry : Fin 128),
      Completes (.patrolScrub c frame entry .clean) s (fun d => d = s.dev)
      ∧ Completes (.patrolScrub c frame entry .corrected) s (fun d =>
          d = { s.dev with tiers := { s.dev.tiers with ntCorr := satAdd s.dev.tiers.ntCorr 1 } })
      ∧ (∀ p, pageAt s.dev c.val frame.toNat = some p → p < 2 ^ 24 → Completes (.patrolScrub c frame entry .uncorrected) s fun d =>
          resPoison (d.res p) = true ∧ (∀ q, q ≠ p → d.res q = s.dev.res q) ∧ d.tiers.near = s.dev.tiers.near)
      ∧ ∀ channel, Completes (.refresh c channel) s (fun d => d = s.dev)

/-- R236, R272: an allocation reserves a frame that no page has: the table stays well formed. -/
def Obligations.AllocationKeepsResidency : Prop := ∀ (d e : Device) (p : Nat) (cls pin : Bool) (unit : Nat),
  ResidencyWf d → FramesReserved d → resValid (d.res p) = false → allocPage p cls pin unit d = some e →
  ResidencyWf e ∧ FramesReserved e ∧ resValid (e.res p) = true ∧ ∀ q, q ≠ p → e.res q = d.res q

/-- R254, R349, R350, R352, R353, R357: an Ephemeris NOP retires; a MARK reports its milestone once; a STREAM starts its
descriptor in a slot whose stream has ended, with the counts that the length registers leave; a CHUNK, once the store
streams have ended, adds to the chunks of its core and commits to PROGRESS what every core has reached; a UNITS entry
asks the units it names to switch or to reload, and retires when they have. -/
def Obligations.EphemerisEntriesComplete : Prop := ∀ (s : State) (c : Fin 16) (sec : Section),
  let x := s.dev.core c.val
  let v := entryAt s.dev c.val
  (Stands s.dev c.val sec codeNop → Completes (.ephemerisNop c) s fun d => EntryRetires c.val s.dev d)
  ∧ (∀ m, Stands s.dev c.val sec codeMark → liveMbx s.dev sec = some m → Completes (.mark c) s fun d =>
      EntryRetires c.val (s.dev.updMb m (fun y => if y.milestones.contains (ephBits v 0 16) then y
        else { y with milestones := y.milestones ++ [ephBits v 0 16] })) d)
  ∧ (Stands s.dev c.val sec codeStream → (s.dev.slot c.val (ephBits v 8 4)).active = false → Completes (.stream c) s fun d =>
      let sl := d.slot c.val (ephBits v 8 4)
      let w := Ram.read x.streamTab (ephBits v 0 8)
      EntryRetires c.val (startStream c.val (ephBits v 0 8) (ephBits v 8 4) s.dev) d
        ∧ sl.desc = ephBits v 0 8 ∧ sl.words = w ∧ (sl.c0, sl.c1, sl.c2) = sdCounts x.lens w ∧ sl.tile = 0 ∧ sl.pending = 0
        ∧ sl.active = decide (0 < sl.total))
  ∧ (∀ m, Stands s.dev c.val sec codeChunk → drained s.dev c.val = true → liveMbx s.dev sec = some m →
      let e := s.dev.updSeq c.val (fun q => { q with chunks := satNat 32 q.chunks 1 })
      let more := chunkCount e sec - chunkCount s.dev sec
      Completes (.chunk c) s fun d =>
        (more = 0 → EntryRetires c.val e d)
        ∧ (0 < more → EntryRetires c.val (e.updMb m (fun y => { y with
            progress := satAdd y.progress more, state := if y.state = .running then .partial_ else y.state })) d))
  ∧ (Stands s.dev c.val sec codeUnits →
      (x.seq.acted = false → regionWaits sec c.val v s.dev = false → portsBusy sec c.val v s.dev = false →
        namedUnits sec x.logical (ephBits v 0 64) (ephBits v 68 19) ≠ [] →
        Completes (.units c) s fun d =>
          (d.core c.val).seq.state = .waiting ∧ (d.core c.val).seq.acted = true
          ∧ (ephBits v 66 2 = 0 → ∀ e ∈ namedUnits sec x.logical (ephBits v 0 64) (ephBits v 68 19),
              (d.unit e.1).switchReq = some (ephBits v 64 2))
          ∧ (ephBits v 66 2 = 1 ∨ ephBits v 66 2 = 2 → ∀ e ∈ namedUnits sec x.logical (ephBits v 0 64) (ephBits v 68 19),
              ∃ image, (d.unit e.1).reload = some ⟨ephBits v 64 2, image, false, 0, []⟩))
      ∧ (x.seq.acted = true → (∀ k ∈ x.seq.unitsLeft, bitOf k 1 = false ∧ (s.dev.unit (k / 4)).switchReq = none) →
          Completes (.units c) s fun d => EntryRetires c.val s.dev d))

/-- R299 to R303: SEM_ADD and SEM_SUB, once DRAIN is met, send their operation to the tally of the semaphore's home and
retire; SEM_WAIT_GE sends its wait once, waits, and retires when it has been released; a tally carries out its oldest
operation, adds modulo 2^32, and releases every wait of that semaphore that is met, and no other. -/
def Obligations.SemaphoresComplete : Prop := ∀ (s : State) (c : Fin 16) (sec : Section),
  let x := s.dev.core c.val
  let v := entryAt s.dev c.val
  let home := sec.phys (ephBits v 8 4)
  let op := fun k : Nat => (⟨c.val, 1024 * (home % 4) + ephBits v 12 10, k, BitVec.ofNat 32 (ephBits v 32 32)⟩ : TallyOp)
  (∀ row ∈ ([(0x01, 1, .semAdd c), (0x02, 2, .semSub c)] : List (Nat × Nat × Instr)),
    Stands s.dev c.val sec row.1 → drainMet s.dev c.val v = true → Completes row.2.2 s fun d =>
      EntryRetires c.val (sendTally sec c.val row.2.1 v s.dev) d
        ∧ (d.quad (home / 4)).ops = (s.dev.quad (home / 4)).ops ++ [op row.2.1])
  ∧ (Stands s.dev c.val sec 0x03 →
      (x.seq.waitDone = false → x.seq.acted = false → Completes (.semWaitGe c) s fun d =>
        (d.quad (home / 4)).ops = (s.dev.quad (home / 4)).ops ++ [op 3] ∧ (d.core c.val).seq.state = .waiting
          ∧ (d.core c.val).seq.acted = true ∧ (d.core c.val).seq.entry = x.seq.entry)
      ∧ (x.seq.waitDone = true → Completes (.semWaitGe c) s fun d => EntryRetires c.val s.dev d))
  ∧ (∀ (k : Fin 4) (t : TallyOp) (rest : List TallyOp), (s.dev.quad k.val).ops = t :: rest → Completes (.tallyOperation k) s fun d =>
      let old := Ram.read (s.dev.quad k.val).sems t.sem
      let new := Ram.read (d.quad k.val).sems t.sem
      (t.op = 1 → new = old + t.n) ∧ (t.op = 2 → new = old - t.n) ∧ (t.op = 3 → new = old)
        ∧ (∀ i, i ≠ t.sem → Ram.read (d.quad k.val).sems i = Ram.read (s.dev.quad k.val).sems i)
        ∧ (d.quad k.val).ops = rest ∧ (d.quad k.val).opCount = satNat 48 (s.dev.quad k.val).opCount 1
        ∧ (∀ w, (w ∈ (s.dev.quad k.val).waits ∨ (t.op = 3 ∧ w = t)) →
            (w.sem = t.sem ∧ w.n.toInt ≤ new.toInt → (d.core w.src).seq.waitDone = true ∧ w ∉ (d.quad k.val).waits)
            ∧ (¬ (w.sem = t.sem ∧ w.n.toInt ≤ new.toInt) → w ∈ (d.quad k.val).waits)))

/-- R304 to R307: BAR_ARRIVE sends the core's arrival for its next round and retires; BAR_WAIT retires when the round of
the core's latest arrival has been released; BAR_ARRIVE_WAIT does both; a supervisor that has counted all its
participants sends one arrival to the device root; the root, when every quadrant has arrived, releases the round to
every participating core; for a SYSTEM barrier it sends one arrival to the parent node, and, where it has none, releases the round
to its child nodes and its cores; a count that is short of complete is kept, and nothing is sent; a release that reaches a core counts a round. -/
def Obligations.BarriersComplete : Prop := ∀ (s : State) (c : Fin 16) (sec : Section),
  let q := (s.dev.core c.val).seq
  let v := entryAt s.dev c.val
  let b := ephBits v 8 8
  let m : BarMsg := ⟨sec.handle, b, q.arrived b, c.val, false, false⟩
  (Stands s.dev c.val sec 0x10 → stopsForLoss s.dev c.val 0x10 = false → q.acted = false → drainMet s.dev c.val v = true →
    mayArrive q b = true → Completes (.barArrive c) s fun d =>
      EntryRetires c.val (arrive sec c.val b s.dev) d ∧ (d.core c.val).seq.arrived b = q.arrived b + 1
        ∧ Tab.getD d.sync.arrivals (c.val / 4) [] = Tab.getD s.dev.sync.arrivals (c.val / 4) [] ++ [m])
  ∧ (Stands s.dev c.val sec 0x11 → stopsForLoss s.dev c.val 0x11 = false → q.arrived b ≤ q.released b → q.stopAt = none →
      Completes (.barWait c) s fun d => EntryRetires c.val s.dev d)
  ∧ (Stands s.dev c.val sec 0x12 → stopsForLoss s.dev c.val 0x12 = false → q.stopAt = none →
      (q.acted = false → drainMet s.dev c.val v = true → mayArrive q b = true → q.released b ≤ q.arrived b →
        Completes (.barArriveWait c) s fun d =>
          (d.core c.val).seq.arrived b = q.arrived b + 1 ∧ (d.core c.val).seq.state = .waiting
          ∧ (d.core c.val).seq.entry = q.entry
          ∧ Tab.getD d.sync.arrivals (c.val / 4) [] = Tab.getD s.dev.sync.arrivals (c.val / 4) [] ++ [m])
      ∧ (q.acted = true → q.arrived b ≤ q.released b → Completes (.barArriveWait c) s fun d => EntryRetires c.val s.dev d))
  ∧ (∀ (level : Fin 5) (a : BarMsg) (rest : List BarMsg), Tab.getD s.dev.sync.arrivals level.val [] = a :: rest →
      s.dev.section? a.handle = some sec →
      let old := (Tab.getD s.dev.sync.counts (barKey level.val a.handle a.barrier a.round) {}).arrived
      let all := if old.contains a.end_ then old else old ++ [a.end_]
      let key := barKey level.val a.handle a.barrier a.round
      let epoch := (Tab.getD s.dev.sync.counts key {}).epoch || a.epoch
      let done := if level.val < 4 then supDone sec level.val a.barrier all else rootDone s.dev sec a.barrier all
      (done = false → Completes (.barrierArrival level) s fun d =>
        (Tab.getD d.sync.counts key {}).arrived = all ∧ (Tab.getD d.sync.counts key {}).epoch = epoch
          ∧ (∀ l, Tab.getD d.sync.arrivals l [] = if l = level.val then rest else Tab.getD s.dev.sync.arrivals l [])
          ∧ d.sync.releases = s.dev.sync.releases ∧ d.cores = s.dev.cores ∧ d.ports = s.dev.ports)
      ∧
      (level.val < 4 → supDone sec level.val a.barrier all = true → Completes (.barrierArrival level) s fun d =>
        (Tab.getD d.sync.arrivals 4 []).getLast?.map (fun r => (r.handle, r.barrier, r.round, r.end_))
            = some (a.handle, a.barrier, a.round, level.val)
          ∧ Tab.getD d.sync.arrivals level.val [] = rest ∧ d.cores = s.dev.cores)
      ∧ (level.val = 4 → barSystem sec a.barrier = false → sec.save = none → rootDone s.dev sec a.barrier all = true →
          Completes (.barrierArrival level) s fun d => ∀ k ∈ barCores sec a.barrier,
            ∃ r ∈ Tab.getD d.sync.releases k [], r.handle = sec.handle ∧ r.barrier = a.barrier ∧ r.round = a.round ∧ r.end_ = k)
      ∧ (level.val = 4 → barSystem sec a.barrier = true → rootDone s.dev sec a.barrier all = true →
          let ends := decide (a.barrier = linkEpochBarrier sec.pkg) && (epoch || decide (s.dev.set.epochReq = 1))
          let sent := (Tab.find s.dev.sync.counts (barKey 5 sec.handle a.barrier a.round)).isSome
          (∀ p, s.dev.set.parent = some p → Completes (.barrierArrival level) s fun d =>
            d.cores = s.dev.cores ∧ d.sync.releases = s.dev.sync.releases
              ∧ (Tab.find d.sync.counts (barKey 5 sec.handle a.barrier a.round)).isSome = true
              ∧ d.ports = (if sent then s.dev else sendPacket (setPacket s.dev 0x10 p (barArg a.barrier a.round ends) 0 0) s.dev).ports)
          ∧ (s.dev.set.parent = none → sec.save = none → Completes (.barrierArrival level) s fun d =>
              d.ports = (s.dev.set.children.foldl (fun d n =>
                  sendPacket (setPacket d 0x11 n (barArg a.barrier a.round ends) 0 0) d) s.dev).ports
                ∧ ∀ k ∈ barCores sec a.barrier, ∃ r ∈ Tab.getD d.sync.releases k [],
                    r.handle = sec.handle ∧ r.barrier = a.barrier ∧ r.round = a.round ∧ r.end_ = k ∧ r.epoch = ends)))
  ∧ (∀ (r : BarMsg) (rest : List BarMsg), Tab.getD s.dev.sync.releases c.val [] = r :: rest →
      Completes (.barrierRelease c) s fun d =>
        (d.core c.val).seq.released r.barrier = q.released r.barrier + 1
          ∧ (∀ k, k ≠ r.barrier → (d.core c.val).seq.released k = q.released k ∧ (d.core c.val).seq.arrived k = q.arrived k)
          ∧ Tab.getD d.sync.releases c.val [] = rest ∧ d.units = s.dev.units)

/-- R308, R311 to R313, R317: CH_LISTEN makes its endpoint a listening receiver; CH_OPEN makes its endpoint a pending sender
and sends the request, over Morwyn Link where it names another node; CH_CLOSE starts the close of either side; a receiver holds, grants or refuses a request; a
grant opens the sender with its credits, and a refusal closes it.  What `popChan` takes off the queue is its oldest message,
and behind it only tokens and closes arrive by themselves (R42). -/
def Obligations.ChannelsOpen : Prop := ∀ (s : State) (c : Fin 16) (sec : Section),
  let v := entryAt s.dev c.val
  let e := ephBits v 8 6
  let old := s.dev.ep c.val e
  (Stands s.dev c.val sec 0x20 → old.held = [] → Completes (.chListen c) s fun d =>
    let y := d.ep c.val e
    y.role = 1 ∧ y.state = .listen ∧ y.gen = ephBits v 14 8 ∧ y.slot = ephBits v 22 3 ∧ y.rxEntries = ephBits v 25 6 + 1
      ∧ y.hchan = ephBits v 31 12 ∧ y.tap = ephBits v 43 6 ∧ y.ctx = ephBits v 49 2 ∧ y.granted = [] ∧ y.dropped = old.dropped
      ∧ (d.core c.val).seq = afterEntry (s.dev.core c.val).trips (s.dev.core c.val).seq)
  ∧ (Stands s.dev c.val sec 0x21 → Completes (.chOpen c) s fun d =>
      let y := d.ep c.val e
      let src : EpName := ⟨ownNode s.dev, (s.dev.core c.val).logical, e⟩
      let dst : EpName := ⟨if v.getLsbD 25 then ownNode s.dev else ephBits v 26 10, ephBits v 36 4, ephBits v 40 6⟩
      let open_ : ChMsg := .open_ src dst (ephBits v 22 3) (ephBits v 14 8)
      let e0 := closeDue sec c.val e s.dev
      y.role = 2 ∧ y.state = .pending ∧ y.gen = ephBits v 14 8 ∧ y.dest = dst ∧ y.ringCap = ephBits v 66 14 ∧ y.ringHeld = 0
        ∧ y.credits = 0
        ∧ (old.due = false → e0 = s.dev)
        ∧ (dst.node = ownNode s.dev → d.ports = e0.ports
            ∧ Tab.getD d.sync.chan (sec.phys dst.core) [] = Tab.getD e0.sync.chan (sec.phys dst.core) [] ++ [open_])
        ∧ (dst.node ≠ ownNode s.dev → d.sync.chan = e0.sync.chan ∧ d.ports = (sendPacket (chanPacket e0 open_) e0).ports)
        ∧ (d.core c.val).seq = afterEntry (s.dev.core c.val).trips (s.dev.core c.val).seq)
  ∧ (Stands s.dev c.val sec 0x22 → Completes (.chClose c) s fun d =>
      (v.getLsbD 14 = false → old.role = 2 → old.state = .pending ∨ old.state = .open_ → (d.ep c.val e).state = .closing)
        ∧ (v.getLsbD 14 = true → old.role = 1 → old.state = .listen → (d.ep c.val e).due = true ∧ (d.ep c.val e).state = .listen)
        ∧ (d.core c.val).seq = afterEntry (s.dev.core c.val).trips (s.dev.core c.val).seq)
  ∧ (coreSection s.dev c.val = some sec → (∀ m ∈ (Tab.getD s.dev.sync.chan c.val []).tail, m.actsAtOnce = false) →
      popChan c.val s.dev = setChan c.val (Tab.getD s.dev.sync.chan c.val []).tail s.dev)
  ∧ (∀ src dst slot gen, (Tab.getD s.dev.sync.chan c.val []).head? = some (.open_ src dst slot gen) →
      coreSection s.dev c.val = some sec → src.node = ownNode s.dev → Completes (.openRequestReceived c) s fun d =>
        let d0 := popChan c.val s.dev
        let x := d0.ep c.val dst.ep
        let y := d.ep c.val dst.ep
        (answerOpen x slot gen = .hold → y = { x with held := Tab.set x.held slot (src, gen) })
        ∧ (answerOpen x slot gen = .grant → y = { x with granted := Tab.set x.granted slot src }
            ∧ (Tab.getD d.sync.chan (sec.phys src.core) []).getLast? = some (.grant src dst slot x.rxEntries))
        ∧ (answerOpen x slot gen = .refuse → y = x
            ∧ (d.core c.val).fab.chRefused = satNat 32 (d0.core c.val).fab.chRefused 1
            ∧ (Tab.getD d.sync.chan (sec.phys src.core) []).getLast? = some (.refuse src dst slot)))
  ∧ (∀ src dst slot n, coreSection s.dev c.val = some sec → ∀ err,
      let x := (popChan c.val s.dev).ep c.val src.ep
      (x.state = .pending → x.ringHeld = 0 → x.sendsTo dst slot = true →
        (Tab.getD s.dev.sync.chan c.val []).head? = some (.grant src dst slot n) → Completes (.grantReceived c err) s fun d =>
          (d.ep c.val src.ep).state = .open_ ∧ (d.ep c.val src.ep).credits = n)
      ∧ ((s.dev.ep c.val src.ep).sendsTo dst slot = true →
          (Tab.getD s.dev.sync.chan c.val []).head? = some (.refuse src dst slot) → Completes (.grantReceived c err) s fun d =>
            (d.ep c.val src.ep).state = .closed))

/-- R310, R312, R314, R315, R317, R318: a token at the tap of an open connection with credit goes to its receiver and takes
a credit, but not past an earlier message of its sender (R42); with no credit, or behind a ring that holds tokens, it goes to the
overflow ring; on a closed connection it is dropped; credits that return add up;
a receiver delivers a whole message token by token and returns a credit for each; a closing connection that has sent all
its messages closes and marks the receiver; an endpoint whose close is due closes. -/
def Obligations.ChannelsCarryTokens : Prop := ∀ (s : State) (c : Fin 16) (sec : Section) (e : Fin 64),
  let x := s.dev.ep c.val e.val
  coreSection s.dev c.val = some sec →
  (∀ (src : Nat) (t : Token), tapToken s.dev c.val x.tap = some (src, t) → x.role = 2 → t.chan = x.hchan → t.ctx = x.ctx →
    (x.state = .open_ ∨ x.state = .closing → 0 < x.credits → x.ringHeld = 0 →
      let k := sec.phys x.dest.core
      let q := Tab.getD s.dev.sync.chan k []
      let y := s.dev.ep k x.dest.ep
      let msg : ChMsg := .token (epName s.dev c.val e.val) x.dest x.slot t
      (x.dest.node = ownNode s.dev → takeArrival [] q = none → y.role = 1 → y.state = .listen →
        Completes (.channelTokenEntry c e) s fun d =>
          (d.ep c.val e.val).credits + 1 = x.credits
            ∧ (d.ep c.val e.val).msgTokens = (if endsMessage x.msgTokens t then 0 else x.msgTokens + 1)
            ∧ ((∀ m ∈ q, m.sender ≠ msg.sender) →
                Tab.getD (d.ep k x.dest.ep).rx x.slot [] = Tab.getD y.rx x.slot [] ++ [t] ∧ Tab.getD d.sync.chan k [] = q)
            ∧ ((∃ m ∈ q, m.sender = msg.sender) →
                (d.ep k x.dest.ep).rx = y.rx ∧ Tab.getD d.sync.chan k [] = q ++ [msg]))
      ∧ (x.dest.node ≠ ownNode s.dev → Completes (.channelTokenEntry c e) s fun d =>
          (d.ep c.val e.val).credits + 1 = x.credits ∧ d.sync = s.dev.sync
            ∧ d.ports = (sendPacket (chanPacket s.dev msg) s.dev).ports))
    ∧ (x.state = .pending ∨ ((x.state = .open_ ∨ x.state = .closing) ∧ (x.credits = 0 ∨ 0 < x.ringHeld)) →
        x.ringHeld < x.ringCap → accessFault s.dev (x.ringAddr x.ringHeld) = none →
        Completes (.channelTokenEntry c e) s fun d =>
          (d.ep c.val e.val).ringHeld = x.ringHeld + 1 ∧ (d.ep c.val e.val).credits = x.credits ∧ d.sync = s.dev.sync
            ∧ (d.core c.val).fab.chOverflow = satNat 48 (s.dev.core c.val).fab.chOverflow 1)
    ∧ (x.state = .closed → Completes (.channelTokenEntry c e) s fun d =>
        (d.ep c.val e.val).dropped = (if endsMessage x.msgTokens t then satNat 32 x.dropped 1 else x.dropped)))
  ∧ (∀ src dst slot n, (Tab.getD s.dev.sync.chan c.val []).head? = some (.credit src dst slot n) → src.ep = e.val →
      let y := (popChan c.val s.dev).ep c.val e.val
      y.state = .open_ → y.ringHeld = 0 → y.sendsTo dst slot = true → ∀ err, Completes (.creditReturn c err) s fun d =>
        (d.ep c.val e.val).credits = y.credits + n ∧ (d.ep c.val e.val).state = .open_)
  ∧ (∀ (k : Nat) (t : Token) (rest : List Token) (src : EpName), x.nextSlot = some k → Tab.getD x.rx k [] = t :: rest →
      Tab.find x.granted k = some src → x.role = 1 → x.state = .listen → wholeMessage 0 (t :: rest) = true →
      src.node = ownNode s.dev → tapReady s.dev c.val x.tap x.hchan x.ctx = true → Completes (.messageDelivery c e) s fun d =>
        Tab.getD (d.ep c.val e.val).rx k [] = rest
          ∧ Tab.find (d.unit (tapUnit c.val x.tap)).latch (tapNode x.tap).2.2 = some ((t.withChan x.hchan).withCtx x.ctx)
          ∧ (Tab.getD d.sync.chan (sec.phys src.core) []).getLast? = some (.credit src (epName s.dev c.val e.val) k 1))
  ∧ ((s.dev.core c.val).eps.find? (fun y => y.2.role = 2 && y.2.state = .closing && y.2.opened && y.2.msgTokens = 0 && y.2.ringHeld = 0)
        = some (e.val, x) → x.dest.node = ownNode s.dev →
      let k := sec.phys x.dest.core
      let q := Tab.getD s.dev.sync.chan k []
      let y := s.dev.ep k x.dest.ep
      let msg : ChMsg := .close (epName s.dev c.val e.val) x.dest x.slot 0
      takeArrival [] q = none → y.role = 1 → y.state = .listen → Completes (.closeMarker c) s fun d =>
        (d.ep c.val e.val).state = .closed
          ∧ ((∀ m ∈ q, m.sender ≠ msg.sender) →
              (d.ep k x.dest.ep).marked = y.marked ++ [x.slot] ∧ Tab.getD d.sync.chan k [] = q)
          ∧ ((∃ m ∈ q, m.sender = msg.sender) →
              (d.ep k x.dest.ep).marked = y.marked ∧ Tab.getD d.sync.chan k [] = q ++ [msg]))
  ∧ (x.due = true → x.role = 1 → x.state = .listen → Completes (.endpointClose c e) s fun d =>
      (d.ep c.val e.val).state = .closed ∧ (d.ep c.val e.val).rx = [] ∧ (d.ep c.val e.val).granted = [])

/-- R44, R45, R300, R352, R427: a core at an entry boundary acts on a suspend message by stopping there, and on a halt
message, before which it passes over suspends and resumes not yet acted on, by stopping for good with its streams; each takes its
message off the queue. -/
def Obligations.CoresStop : Prop := ∀ (s : State) (c : Fin 16) (rest : List CtrlMsg),
  let x := s.dev.core c.val
  (s.dev.ctrl c.val = .suspend :: rest → rest.head? ≠ some .resume → atBoundary x.seq = true → x.seq.walks = true → Completes (.suspendMessage c) s fun d =>
    (d.core c.val).seq.state = .suspended ∧ (d.core c.val).seq.entry = x.seq.entry ∧ d.ctrl c.val = rest
      ∧ (d.core c.val).slots = x.slots ∧ d.units = s.dev.units)
  ∧ (s.dev.ctrl c.val = .suspend :: .resume :: rest → atBoundary x.seq = true → x.seq.walks = true → x.seq.epochStop = false →
      Completes (.suspendMessage c) s fun d =>
        (d.core c.val).seq.state = (if x.seq.entry < x.seq.count then .issuing else .finished)
          ∧ (d.core c.val).seq.entry = x.seq.entry ∧ d.ctrl c.val = rest)
  ∧ (∀ ms, (∀ m ∈ ms, m.overtaken = true) → s.dev.ctrl c.val = ms ++ .halt :: rest → atBoundary x.seq = true ∨ x.seq.state = .waiting → Completes (.haltMessage c) s fun d =>
      (d.core c.val).seq.state = .halted ∧ d.ctrl c.val = rest ∧ (∀ n, (d.slot c.val n).active = false)
        ∧ (d.core c.val).loadQ = [])

/-- R526, R531, R528, R534, R532: the set points follow the lowest of their limits, in whole steps of 5 mV; the power limit
moves by one step of R528 for a reading; a quadrant's thermal limit moves by one step of Table 17.7; the hard limit, which acts
on the sensor hub's own Tq, and the throttle start and end.  A change of a target leaves VCORE where it stands, and it falls
by 5 mV or rises by 1 mV per µs towards it.  An entry and an exit write their Almanac record and set IRQ_CAUSE.THERMAL where
Meridian runs; nothing else changes. -/
def Obligations.ThrottlingCompletes : Prop := ∀ (s : State) (q : Fin 4),
  let p := s.dev.power
  let t := p.tq.getD q.val 0
  let data := (BitVec.ofInt 16 t).toNat + (p.setMv.getD q.val 0 <<< 16)
  let hubData := (BitVec.ofInt 16 (p.hubTq.getD q.val 0)).toNat + (p.setMv.getD q.val 0 <<< 16)
  let slews (d : Device) : Prop := ∀ k < 4, targetMv d k ≠ 0 →
    let v := vcoreMv s.dev k
    vcoreMv d k = v ∧ (targetMv d k ≠ targetMv s.dev k → ∀ us, vcoreMv { d with now := d.now + us } k
      = if targetMv d k ≤ v then max (targetMv d k) (v - 5 * us) else min (targetMv d k) (v + us))
  let recorded (e : Device) (f : Device → Device) : Device := if meridianRuns s.dev = true then irq 1 (f e) else e
  (Completes .vcoreSetPointUpdate s fun d =>
    d = { s.dev with power := { p with setMv := d.power.setMv, slewFrom := d.power.slewFrom, slewAt := d.power.slewAt } }
      ∧ d.power.setMv.length = 4 ∧ slews d
      ∧ ∀ k < 4, d.power.setMv.getD k 0
          = (let v := min (min 700 p.pMv) (p.thermalMv.getD k 700); (if p.inputLow then min 550 v else v) / 5 * 5))
  ∧ (∀ last rest, p.window = last :: rest → Completes .powerLimitUpdate s fun d =>
      let mean := ((p.window.sum : Int) : Int)
      let n := (p.window.length : Int) * (budgetW s.dev * 1000 : Nat)
      let v : Int := if peakW s.dev * 1000 < last then (p.pMv : Int) - 20 else if n < mean then p.pMv - 5
        else if 100 * mean < 97 * n then p.pMv + 1 else p.pMv
      (d.power.pMv : Int) = max 550 (min 700 v)
        ∧ d = { s.dev with power := { p with
            pMv := d.power.pMv
            limitedMs := if d.power.pMv < 700 then satAdd p.limitedMs 1 else p.limitedMs
            hourLimited := if d.power.pMv < 700 then p.hourLimited + 1 else p.hourLimited
            hourLowP := if d.power.pMv < 700 then min p.hourLowP d.power.pMv else p.hourLowP } })
  ∧ (p.thermalMv.length = 4 → Completes (.thermalLimitUpdate q) s fun d =>
      let old := p.thermalMv.getD q.val 0
      let v := if 1600 ≤ t then max 550 (old - 10) else if t < 1568 then min 700 (old + 2) else old
      let e := { s.dev with power := { p with thermalMv := p.thermalMv.set q.val v
                                              thermalQ := setBit p.thermalQ q.val (decide (v < 700)) } }
      (p.thermalQ.getLsbD q.val = false → v < 700 → d = irq 1 (log 0x60 (0x100 + q.val) data
          { e with power := { e.power with thermalEntries := satAdd p.thermalEntries 1 } }))
        ∧ (p.thermalQ.getLsbD q.val = true → 700 ≤ v → d = irq 1 (log 0x60 q.val data e))
        ∧ (p.thermalQ.getLsbD q.val = decide (v < 700) → d = e))
  ∧ (p.hardQ.getLsbD q.val = false → 1680 ≤ p.hubTq.getD q.val 0 → Completes (.hardLimitStart q) s fun d =>
      slews d ∧ d = recorded { s.dev with power := { p with
          hardQ := setBit p.hardQ q.val true, slewFrom := d.power.slewFrom, slewAt := d.power.slewAt } }
        (log 0x60 (0x300 + q.val) hubData))
  ∧ (p.hardQ.getLsbD q.val = true → p.hubTq.getD q.val 0 < 1648 → Completes (.hardLimitEnd q) s fun d =>
      slews d ∧ d = recorded { s.dev with power := { p with
          hardQ := setBit p.hardQ q.val false, slewFrom := d.power.slewFrom, slewAt := d.power.slewAt } }
        (log 0x60 (0x200 + q.val) hubData))
  ∧ (p.throttle = false → Completes .throttleN s fun d =>
      slews d ∧ d = recorded { s.dev with power := { p with
          throttle := true, throttleAt := some s.dev.now, throttleHours := 0, throttleAsserts := satAdd p.throttleAsserts 1
          slewFrom := d.power.slewFrom, slewAt := d.power.slewAt } } (log 0x61 1 0))
  ∧ (p.throttle = true → Completes .throttleN s fun d =>
      d = { s.dev with power := { p with throttleAt := some s.dev.now, throttleHours := 0 } })
  ∧ (Completes (.throttleN false) s fun d => d = { s.dev with power := { p with throttleAt := none } })
  ∧ (p.throttle = true → Completes .throttleEnd s fun d =>
      slews d ∧ d = recorded { s.dev with power := { p with
          throttle := false, throttleAt := none, slewFrom := d.power.slewFrom, slewAt := d.power.slewAt } }
        (log 0x61 0 p.throttleHours))

/-- R523, R477, R479, R551, R443: an entry into and an exit from an input band writes one record of type 0x0064, the low band
holding every set point at no more than 0.55 V; a reading frame of a quadrant sets its Tq to the highest of its junction and
near-tier readings, each within its sensor's range (what a reading beyond it reads as is the model's choice, log entry 98), also
in the sensor hub while Meridian is held in reset; a frame of the hub die sets the input readings; a rewrite of the telemetry
mirror makes GEN odd while it goes on, and ends with an even one.  Nothing else changes. -/
def Obligations.SensorsAndBandsComplete : Prop := ∀ (s : State) (mv : BitVec 32) (rs : List (BitVec 32)),
  let p := s.dev.power
  let v := mv.toNat
  (p.inputLow = false → 47000 ≤ v → v < 50000 → Completes (.inputLowBandEntry mv) s fun d =>
    let e := log 0x64 0x101 v { s.dev with power := { p with inputLow := true, inputMv := mv } }
    d = { e with power := { e.power with setMv := d.power.setMv, slewFrom := d.power.slewFrom, slewAt := d.power.slewAt } }
      ∧ ∀ k < 4, d.power.setMv.getD k 0 ≤ 550)
  ∧ (p.inputLow = true → 50000 < v → Completes (.inputLowBandExit mv) s fun d =>
      let e := log 0x64 1 v { s.dev with power := { p with inputLow := false, inputMv := mv } }
      d = { e with power := { e.power with setMv := d.power.setMv, slewFrom := d.power.slewFrom, slewAt := d.power.slewAt } }
        ∧ ∀ k < 4, d.power.setMv.getD k 0 = min (min 700 p.pMv) (p.thermalMv.getD k 700) / 5 * 5)
  ∧ (p.inputHigh = false → 59500 < v → Completes (.inputHighBandChange mv) s fun d =>
      d = log 0x64 0x102 v { s.dev with power := { p with inputHigh := true, inputMv := mv } })
  ∧ (p.inputHigh = true → v ≤ 59500 → Completes (.inputHighBandChange mv) s fun d =>
      d = log 0x64 2 v { s.dev with power := { p with inputHigh := false, inputMv := mv } })
  ∧ (∀ hub : Fin 5, hub.val < 4 → rs.length = 25 ∨ rs.length = 26 → p.tq.length = 4 → p.hubTq.length = 4 →
      s.dev.boot.powered = true → Completes (.sensorReadingFrame hub rs) s fun d =>
        let t := d.power.hubTq.getD hub.val 0
        (∀ r ∈ rs.take 20, max (-320) (min 2080 r.toInt) ≤ t) ∧ (∃ r ∈ rs.take 20, max (-320) (min 2080 r.toInt) = t)
          ∧ (∀ k, k ≠ hub.val → d.power.hubTq.getD k 0 = p.hubTq.getD k 0)
          ∧ (meridianRuns s.dev = false → d = { s.dev with power := { p with hubTq := d.power.hubTq } })
          ∧ (meridianRuns s.dev = true → d.power.tq.getD hub.val 0 = t
              ∧ (∀ k, k ≠ hub.val → d.power.tq.getD k 0 = p.tq.getD k 0)
              ∧ d = { s.dev with power := { p with
                  hubTq := d.power.hubTq, tq := d.power.tq, nearQ := d.power.nearQ, gait := d.power.gait
                  vcore := d.power.vcore, vcoreMa := d.power.vcoreMa, temps := d.power.temps } }))
  ∧ (rs.length = 32 ∨ rs.length = 53 → meridianRuns s.dev = true → Completes (.sensorReadingFrame 4 rs) s fun d =>
      d.power.inputMv.toNat = min 70000 (rs.getD 30 0).toNat ∧ d.power.inputMw = rs.getD 31 0
        ∧ d.power.window = ((rs.getD 31 0).toNat :: p.window).take 10
        ∧ d.power.inputMa = (if rs.length = 53 then min 80000 (rs.getD 32 0).toNat else p.inputMa)
        ∧ d = { s.dev with power := { p with
            temps := d.power.temps, outlet := d.power.outlet, inputMv := d.power.inputMv, inputMw := d.power.inputMw
            inputMa := d.power.inputMa, railMv := d.power.railMv, railMa := d.power.railMa
            window := d.power.window, hourInlet := d.power.hourInlet } })
  ∧ (meridianRuns s.dev = true → ∀ upto : Option Nat, Completes (.telemetryRewrite upto) s fun d =>
      let gen := Ram.slice s.dev.host.mirror 0 8 / 2 * 2
      d = { s.dev with host := { s.dev.host with mirror := d.host.mirror } }
        ∧ (upto = none → Ram.slice d.host.mirror 0 8 = (gen + 2) % 2 ^ 64 ∧ Ram.slice d.host.mirror 8 8 = s.dev.now % 2 ^ 64)
        ∧ (upto.isSome = true → Ram.slice d.host.mirror 0 8 = (gen + 1) % 2 ^ 64)
        ∧ (Ram.wf s.dev.host.mirror = true → Ram.wf d.host.mirror = true
            ∧ ∀ a, (0x410 ≤ a ∨ ∃ k, upto = some k ∧ 8 ≤ a ∧ k ≤ a) → Ram.read d.host.mirror a = Ram.read s.dev.host.mirror a))

/-- R480 to R483, Table 13.6: a confirmed change of the presence input, which the button and the contact share and which counts
once it and the level before it have held for 20 ms, starts or releases a press, a bounce withdraws the release, and a press
that has ended before counts; a press that ends within 10 s opens the window for 120 s, with its record and interrupt unless it
was open, and accepts the commands that wait (under MAINT it is only logged, R485, log entry 99); a press that goes on past 10 s
is stuck until the input has been inactive for 2 s; the window closes at its end; a command that has waited its
PRESENCE_WAIT_S ends REFUSED with 0x05. -/
def Obligations.PresenceCompletes : Prop := ∀ (s : State) (p r : Nat) (m : Fin 16),
  let x := s.dev.presence
  let now := s.dev.now
  let y := { x with changedAt := some now }
  let becomes (z : Presence) (d : Device) : Prop := d = { s.dev with presence := z }
  (∀ b : Bool, exec (.presenceChange b true) s = exec (.presenceChange true) s)
  ∧ (∀ b : Bool, b ≠ x.active →
      (inputsSampled s.dev = false → Completes (.presenceChange b) s (becomes { x with active := b }))
      ∧ (inputsSampled s.dev = true → confirmed x.changedAt s.dev = false → Completes (.presenceChange b) s fun d => d = s.dev))
  ∧ (inputsSampled s.dev = true → (∀ t, x.changedAt = some t → t + 20000 ≤ now) →
      (x.active = false → x.stuck = false → x.pressAt = none →
        Completes (.presenceChange true) s (becomes { y with active := true, pressAt := some now, releasedAt := none }))
      ∧ (x.active = false → x.stuck = false → x.pressAt = some p → x.releasedAt = some r → pressTooLong s.dev = false →
          (now < r + 250000 → Completes (.presenceChange true) s (becomes { y with active := true, releasedAt := none }))
          ∧ (r + 250000 ≤ now → Completes (.presenceChange true) s fun d =>
              let e := endPress p r { s.dev with presence := { y with active := true } }
              d = { e with presence := { e.presence with pressAt := some now } }))
      ∧ (x.active = false → x.stuck = true → (∀ t, x.releasedAt = some t → now < t + 2000000) →
          Completes (.presenceChange true) s (becomes { y with active := true, releasedAt := none }))
      ∧ (x.active = true → pressTooLong s.dev = false →
          Completes (.presenceChange false) s (becomes { y with active := false, releasedAt := some now }))
      ∧ (x.active = true → pressTooLong s.dev = true → Completes (.presenceChange false) s fun d =>
          let e := pressStuck s.dev
          d = { e with presence := { e.presence with changedAt := some now, active := false, releasedAt := some now } }))
  ∧ (x.pressAt = some p → x.releasedAt = some r → r + 250000 ≤ now → r + 250000 ≤ p + 10000000 → x.active = false →
      x.stuck = false → Completes .pressEnd s fun d =>
        let z := { x with pressAt := none, releasedAt := none, presses := satAdd x.presses 1 }
        let open_ := { s.dev with presence := { z with windowEnd := some (r + 250000 + 120000000) } }
        (x.maint = true → d = log 0x40 1 1 { s.dev with presence := z })
          ∧ (x.maint = false → windowOpen s.dev = true → d = open_)
          ∧ (x.maint = false → windowOpen s.dev = false → d = acceptWaiting (irq 3 (log 0x40 1 1 open_))))
  ∧ (x.pressAt = some p → p + 10000000 ≤ now → x.stuck = false → (∀ t, x.releasedAt = some t → p + 10000000 < t + 250000) →
      Completes .pressStuck s fun d => d = irq 3 (log 0x41 1 0 { s.dev with
        presence := { x with stuck := true, pressAt := none, stuckCount := satAdd x.stuckCount 1 } }))
  ∧ (x.stuck = true → x.active = false → x.releasedAt = some r → r + 2000000 ≤ now → Completes .stuckRelease s fun d =>
      d = log 0x41 0 0 { s.dev with presence := { x with stuck := false, releasedAt := none } })
  ∧ (x.windowEnd = some r → r ≤ now → Completes .presenceWindowClose s fun d =>
      let e := { s.dev with presence := { x with windowEnd := none } }
      d = if x.maint then e else irq 3 (log 0x40 0 1 e))
  ∧ ((s.dev.mb m.val).state = .waitingPresence →
      (s.dev.mb m.val).since + 1000000 * Ram.slice (s.dev.mb m.val).copy 6 1 ≤ now →
      Completes (.presenceWaitExpiry m) s fun d => d = s.dev.setMb m.val { s.dev.mb m.val with
        state := .refused, error := 0x05, job := .none, rung := false, progress := 0 })

/-- R434, R484 to R486, Table 13.6: a confirmed change of the MAINT jumper writes record 0x42 with its interrupt, unless a press
holds the window open, and opens or closes the window; every command that waits when the window opens becomes ACCEPTED and no
other command changes state; a confirmed change of the seal loop sets METER_SEAL and writes record 0x44 until the ninth change
in a minute starts toggling, whose minutes write record 0x45 with their count.  While Meridian does not sample its inputs, or
within 20 ms of the last change, none of this happens. -/
def Obligations.JumperAndSealComplete : Prop := ∀ (s : State) (b : Bool),
  let x := s.dev.presence
  let now := s.dev.now
  (∀ (e : Device) (m : Nat), m < 16 →
    ((acceptWaiting e).mb m).state = if (e.mb m).state = .waitingPresence then .accepted else (e.mb m).state)
  ∧ (b ≠ x.maint →
      (inputsSampled s.dev = false → Completes (.maintChange b) s fun d => d = { s.dev with presence := { x with maint := b } })
      ∧ (inputsSampled s.dev = true → confirmed x.maintAt s.dev = false → Completes (.maintChange b) s fun d => d = s.dev)
      ∧ (inputsSampled s.dev = true → (∀ t, x.maintAt = some t → t + 20000 ≤ now) → Completes (.maintChange b) s fun d =>
          let e := { s.dev with presence := { x with maint := b, maintAt := some now } }
          ((∃ t, x.windowEnd = some t ∧ now < t) → d = e)
            ∧ ((∀ t, x.windowEnd = some t → t ≤ now) →
                d = (if b then acceptWaiting (irq 3 (log 0x42 1 0 e)) else irq 3 (log 0x42 0 0 e)))))
  ∧ (b ≠ x.sealIntact →
      (inputsSampled s.dev = false →
        Completes (.sealLoopChange b) s fun d => d = { s.dev with presence := { x with sealIntact := b } })
      ∧ (inputsSampled s.dev = true → confirmed x.sealAt s.dev = false → Completes (.sealLoopChange b) s fun d => d = s.dev)
      ∧ (inputsSampled s.dev = true → (∀ t, x.sealAt = some t → t + 20000 ≤ now) → Completes (.sealLoopChange b) s fun d =>
          let times := now :: x.sealTimes.filter (fun t => decide (now < t + 60000000))
          let y := { x with sealIntact := b, sealAt := some now, sealChanges := satAdd x.sealChanges 1, sealTimes := times }
          let e := irq 2 { s.dev with presence := y }
          (x.toggling = false → times.length ≤ 8 → d = log 0x44 (bit01 b) 0 e)
            ∧ (x.toggling = false → 8 < times.length →
                d = { e with presence := { y with toggling := true, toggles := 1, toggleFrom := now } })
            ∧ (x.toggling = true → d = { e with presence := { y with toggles := x.toggles + 1 } })))
  ∧ (x.toggling = true → x.toggleFrom + 60000000 ≤ now → Completes .sealTogglingMinute s fun d =>
      (0 < x.toggles → d = log 0x45 0 x.toggles
          { s.dev with presence := { x with toggles := 0, toggleFrom := x.toggleFrom + 60000000 } })
        ∧ (x.toggles = 0 → d = { s.dev with presence := { x with toggling := false } }))

/-- R503, Table 15.6, R500, R558: while the firmware runs each SMBus read of the port's address answers the block of its code
with its packet error code (its polynomial is taken from SMBus 3.1, log entry 101) and an alert response the port's address,
changing nothing else; a read of another address is not for the port, and the boot ROM service acknowledges no code above 1;
the end of an hour writes that hour's records in the order of the
events of R558 and starts the next hour's counts; the count of dropped records is written once its second has ended. -/
def Obligations.ManagementPortCompletes : Prop := ∀ (s : State),
  let g := s.dev.mgmt
  let p := s.dev.power
  let sends (bytes crced : List (BitVec 8)) (d : Device) : Prop :=
    d = { s.dev with mgmt := { g with smbReply := some bytes, smbPec := some (pecOf crced) } }
  let answers (code : Nat) (bytes : List (BitVec 8)) (d : Device) : Prop :=
    sends bytes ([BitVec.ofNat 8 (2 * smbAddr s.dev), BitVec.ofNat 8 code, BitVec.ofNat 8 (2 * smbAddr s.dev + 1),
      BitVec.ofNat 8 bytes.length] ++ bytes) d
  (meridianRuns s.dev = true →
    Completes .smbusIdentity s (answers 0 (natToBytes 16
      (0x9100 + (s.dev.boot.fwMajor.toNat <<< 32) + (s.dev.boot.fwMinor.toNat <<< 48) + (g.serial.toNat <<< 64))))
    ∧ Completes .smbusTelemetry s (answers 1 (natToBytes 24
        (Ram.slice s.dev.host.mirror 0x58 16 + (Ram.slice s.dev.host.mirror 0x68 8 <<< 128))))
    ∧ Completes .smbusStraps s (answers 2 (natToBytes 16 (s.dev.host.straps.toNat + (presenceWord s.dev <<< 64))))
    ∧ Completes .smbusSchedStatus s (answers 3 (natToBytes 8 (schedWord s.dev)))
    ∧ Completes .smbusAlmanac s (answers 4 (natToBytes 32 (Ram.slice g.store (almanacAt (g.almanacNext.toNat - 1)) 32)))
    ∧ (s.dev.host.irqCause.getLsbD 0 = true ∨ s.dev.host.irqCause.getLsbD 1 = true → Completes .smbusAlertResponse s
        (sends [BitVec.ofNat 8 (2 * (0x58 + bitsOf s.dev.host.straps.toNat 16 3))]
          [0x19, BitVec.ofNat 8 (2 * (0x58 + bitsOf s.dev.host.straps.toNat 16 3))])))
  ∧ (∀ a : BitVec 7, ∀ row ∈ ([(.smbusIdentity (some a), .smbusIdentity), (.smbusTelemetry (some a), .smbusTelemetry),
        (.smbusStraps (some a), .smbusStraps), (.smbusSchedStatus (some a), .smbusSchedStatus),
        (.smbusAlmanac (some a), .smbusAlmanac)] : List (Instr × Instr)),
      (a.toNat = 0x58 + bitsOf s.dev.host.straps.toNat 16 3 → exec row.1 s = exec row.2 s)
      ∧ (a.toNat ≠ 0x58 + bitsOf s.dev.host.straps.toNat 16 3 → Completes row.1 s fun d => d = s.dev))
  ∧ (s.dev.boot.powered = true → s.dev.boot.firmware = false → ∀ row ∈ ([.smbusStraps, .smbusSchedStatus, .smbusAlmanac] : List Instr),
      Completes row s fun d => d = { s.dev with mgmt := { g with smbReply := none, smbPec := none } })
  ∧ ((g.hour + 1) * 3600000000 ≤ s.dev.now → Completes .almanacHourEnd s fun d =>
      let held := p.throttleAt.any (fun t => decide (t ≤ g.hour * 3600000000))
      let records : List (Nat × Nat × Nat) :=
        g.hourCorr.map (fun e => (0x21, unitId e.1, e.2.1 % 2 ^ 32 + ((e.2.2 % 2 ^ 32) <<< 32)))
          ++ g.hourSelf.map (fun q => (0x30, q, 0))
          ++ (if p.hourLimited = 0 then [] else [(0x62, budgetW s.dev, p.hourLimited % 2 ^ 32 + (p.hourLowP <<< 32))])
          ++ (match p.hourInlet with | some t => [(0x66, 0, (BitVec.ofInt 16 t).toNat)] | none => [])
          ++ (if held then [(0x61, 2, p.throttleHours + 1)] else [])
      let e := records.foldl (fun d v => log v.1 v.2.1 v.2.2 d) s.dev
      d = { e with power := { p with hourLimited := 0, hourLowP := 700, hourInlet := none
                                     throttleHours := if held then p.throttleHours + 1 else p.throttleHours }
                   mgmt := { e.mgmt with hour := g.hour + 1, hourCorr := [], hourSelf := [] } })
  ∧ (0 < g.logDropped → g.logFrom + 1000000 ≤ s.dev.now → Completes .almanacDropRecord s fun d =>
      d = log 0xFF 0 g.logDropped { s.dev with mgmt := { g with logDropped := 0 } })

/-- R411, R412, R416, R417, R419: a doorbell on an idle mailbox copies header and arguments, clears the reply area and, when
the header's check passes, leaves the command rung; a failed check ends it REFUSED with 0x01; a doorbell on a busy
mailbox, and an acknowledge that does not match, is counted; an acknowledge of a final command makes the mailbox idle.  An access that covers the high half alone
does nothing.  D3hot stops the decoding of the BARs. -/
def Obligations.MailboxesAnswer : Prop := ∀ (s : State) (m : Fin 16) (acc : MbxAccess) (v : BitVec 64),
  let x := s.dev.mb m.val
  let n := min (Ram.slice x.area 4 2) 4080
  let rungMb := { x with
    seq := BitVec.ofNat 16 (Ram.slice x.area 2 2), reply := [], rung := true, job := .none, note := 0, milestones := []
    atRisk := false, applying := false, bcast := none, progress := 0
    copy := Ram.blit ([] : Memory) 0 (16 + n) (Ram.slice x.area 0 (16 + n)) }
  (barsOpen s.dev = true → s.dev.boot.service ≠ 0 → acc ≠ .high →
    (x.state = .idle → x.rung = false → Completes (.mbxDoorbell m acc v) s fun d =>
        let ok := argSize (Ram.slice rungMb.copy 0 2) = some (Ram.slice rungMb.copy 4 2)
          ∧ Ram.slice rungMb.copy 2 2 = v.toNat % 65536 ∧ Ram.slice rungMb.copy 7 9 = 0
          ∧ (s.dev.boot.service ≠ 1 ∨ Ram.slice rungMb.copy 0 2 ∈ [0x43, 0x60, 0x70, 0x71, 0x72])
        (ok → d = s.dev.setMb m.val rungMb)
          ∧ (¬ ok → d = s.dev.setMb m.val { rungMb with state := .refused, error := 0x01, rung := false }))
    ∧ (x.state ≠ .idle ∨ x.rung = true → Completes (.mbxDoorbell m acc v) s fun d =>
        d = s.dev.setMb m.val { x with ignored := satAdd x.ignored 1 })
    ∧ (x.seq = v.setWidth 16 → x.state = .done ∨ x.state = .failed ∨ x.state = .refused → Completes (.mbxSeqAck m acc v) s fun d =>
        d = s.dev.setMb m.val { x with state := .idle, error := 0, fallback := false, digestMismatch := false
                                       degraded := false, staleDiscard := false, progress := 0 })
    ∧ (x.seq ≠ v.setWidth 16 ∨ (x.state ≠ .done ∧ x.state ≠ .failed ∧ x.state ≠ .refused) →
        Completes (.mbxSeqAck m acc v) s fun d => d = s.dev.setMb m.val { x with ignored := satAdd x.ignored 1 }))
  ∧ Completes (.mbxDoorbell m .high v) s (fun d => d = s.dev) ∧ Completes (.mbxSeqAck m .high v) s (fun d => d = s.dev)
  ∧ ∀ d3, s.dev.boot.powered = true → Completes (.powerStateChange d3) s fun d =>
      d.host.d3 = d3 ∧ d = { s.dev with host := { s.dev.host with d3 := d3, msixPending := d.host.msixPending, sent := d.host.sent } }

/-- R14, R18, R19, R411 to R415, R439, R442, R553, Tables 13.2, 13.11, 13.13 and 18.8: a read of one 64-bit BAR0 word answers it, the
words of the strap block and the ingest status among them; where the word is a clearing counter, an ingest window's too, it also
clears what it covers, and nothing else changes.  A 1 written to OVERRUN of INGEST_STATUS clears it, a 0 leaves it, and
INGEST_CFG takes its THRESHOLD.  A write to a command area
stores its bytes there; IRQ_CAUSE bits clear by writing 1; BAR2_BASE takes a multiple of the window's size; a write of
the MSI-X table stores its bytes and sends the vectors it unmasks.  Configuration space answers its words, also in D3hot, and
takes the size of BAR2, the MSI-X enable and mask, the memory enable that opens the BARs, and the payload and read request sizes
up to those of Table 13.1 (R411, R412, R546; their layout is the model's choice, log entry 43).  An
access outside R14 is no command. -/
def Obligations.RegistersAnswer : Prop := ∀ (s : State) (off : BitVec 26) (len : Nat) (v : BitVec 512),
  let a := off.toNat
  let h := s.dev.host
  let answered (w : Nat) (d : Device) : Device := { d with host := { d.host with lastRead := natToBytes 8 w, poisoned := false } }
  (barsOpen s.dev = true →
    (len = 8 → a % 8 = 0 →
      (∀ m : Fin 16, a = 0x10000 * m.val + 0x1018 → Completes (.rcRead (.bar0 off) 8) s fun d =>
        d = answered (s.dev.mb m.val).ignored.toNat (s.dev.setMb m.val { s.dev.mb m.val with ignored := 0 }))
      ∧ (a = 0x300028 → Completes (.rcRead (.bar0 off) 8) s fun d =>
          d = answered (h.bar2Reads.toNat + (h.bar2Writes.toNat <<< 32))
            { s.dev with host := { h with bar2Reads := 0, bar2Writes := 0 } })
      ∧ (a = 0x300030 → Completes (.rcRead (.bar0 off) 8) s fun d =>
          d = answered (resetWord s.dev) { s.dev with boot := { s.dev.boot with perstCount := 0, flrCount := 0, warmCount := 0 } })
      ∧ (∀ row ∈ ([(0x00, h.straps.toNat), (0x08, h.linkSpeed.toNat + (h.linkWidth.toNat <<< 4) + (bit01 h.linkFlit <<< 9)),
            (0x10, presenceWord s.dev), (0x18, h.irqCause.toNat), (0x20, h.bar2Base.toNat)] : List (Nat × Nat)),
          a = 0x300000 + row.1 → Completes (.rcRead (.bar0 off) 8) s fun d => d = answered row.2 s.dev)
      ∧ (∀ n : Fin 8, let w := Tab.getD h.ingest n.val {}
          let become (y : Ingest) : Device := { s.dev with host := { h with ingest := Tab.set h.ingest n.val y } }
          (a = 0x210000 + 0x20000 * n.val → Completes (.rcRead (.bar0 off) 8) s fun d => d = answered (ingestStatus w) s.dev)
          ∧ (a = 0x210010 + 0x20000 * n.val → Completes (.rcRead (.bar0 off) 8) s fun d => d = answered w.threshold.toNat s.dev)
          ∧ (a = 0x210018 + 0x20000 * n.val → Completes (.rcRead (.bar0 off) 8) s fun d =>
              d = answered w.packets.toNat (become { w with packets := 0 }))
          ∧ (a = 0x210020 + 0x20000 * n.val → Completes (.rcRead (.bar0 off) 8) s fun d =>
              d = answered w.late.toNat (become { w with late := 0 }))
          ∧ (a = 0x210000 + 0x20000 * n.val → Completes (.registerWrite (.bar0 off) 8 v) s fun d =>
              d = if v.getLsbD 2 then become { w with overrun := false } else s.dev)
          ∧ (a = 0x210010 + 0x20000 * n.val → Completes (.registerWrite (.bar0 off) 8 v) s fun d =>
              d = become { w with threshold := v.setWidth 8 }))
      ∧ (a < 0x110000 → a % 0x10000 ≠ 0x1018 → Completes (.rcRead (.bar0 off) 8) s fun d => d = answered (bar0Word s.dev a % 2 ^ 64) s.dev))
    ∧ (len = 4 → a = 0x300028 → Completes (.rcRead (.bar0 off) 4) s fun d => d = { s.dev with host := { h with
        bar2Reads := 0, poisoned := false, lastRead := natToBytes 4 h.bar2Reads.toNat } })
    ∧ ((Instr.registerWrite (.bar0 off) len v).wf = true → a < 0x100000 → a % 0x10000 < 0x1000 → Completes (.registerWrite (.bar0 off) len v) s fun d =>
        d = s.dev.setMb (a / 0x10000) { s.dev.mb (a / 0x10000) with
          area := Ram.blit (s.dev.mb (a / 0x10000)).area (a % 0x10000) len (v.toNat % 2 ^ (8 * len)) })
    ∧ (a = 0x300018 → Completes (.registerWrite (.bar0 off) 8 v) s fun d =>
        d = { s.dev with host := { h with irqCause := h.irqCause &&& ~~~ v.setWidth 4 } })
    ∧ (a = 0x300020 → 0 < h.bar2Pages → Completes (.registerWrite (.bar0 off) 8 v) s fun d =>
        d = { s.dev with host := { h with bar2Base := d.host.bar2Base } } ∧ d.host.bar2Base.toNat % h.bar2Pages = 0
          ∧ d.host.bar2Base.toNat ≤ v.toNat % 2 ^ 24 ∧ v.toNat % 2 ^ 24 < d.host.bar2Base.toNat + h.bar2Pages)
    ∧ ((Instr.registerWrite (.bar0 off) len v).wf = true → 0x310000 ≤ a → a < 0x310040 → a + len ≤ 0x310040 →
        Completes (.registerWrite (.bar0 off) len v) s fun d =>
          d = { s.dev with host := { h with msixTable := Ram.blit h.msixTable (a - 0x310000) len (v.toNat % 2 ^ (8 * len))
                                            msixPending := d.host.msixPending, sent := d.host.sent } }
            ∧ ∀ k < 4, d.host.msixPending.getLsbD k = (h.msixPending.getLsbD k && vectorMasked d.host k)))
  ∧ (configOpen s.dev = true → ∀ r : ConfigReg,
      Completes (.rcRead (.config r) 4) s (fun d =>
        d = { s.dev with host := { h with lastRead := natToBytes 4 (configWord s.dev r), poisoned := false } })
      ∧ (10 ≤ v.toNat % 2 ^ 32 → v.toNat % 2 ^ 32 ≤ 20 → Completes (.registerWrite (.config .bar2Size) 4 v) s fun d =>
          d = { s.dev with host := { h with bar2Pages := 2 ^ (v.toNat % 2 ^ 32 + 4), bar2Base := d.host.bar2Base } }
            ∧ d.host.bar2Base.toNat % 2 ^ (v.toNat % 2 ^ 32 + 4) = 0)
      ∧ Completes (.registerWrite (.config .msixControl) 4 v) s (fun d =>
          d.host.msixEnabled = v.getLsbD 15 ∧ d.host.msixMask = v.getLsbD 14
            ∧ ∀ k < 4, d.host.msixPending.getLsbD k = (h.msixPending.getLsbD k && vectorMasked d.host k))
      ∧ Completes (.registerWrite (.config .command) 4 v) s (fun d => d = { s.dev with host := { h with memEnabled := v.getLsbD 1 } }
          ∧ (h.d3 = false → barsOpen d = v.getLsbD 1))
      ∧ Completes (.registerWrite (.config .deviceControl) 4 v) s (fun d =>
          let p := v.toNat / 2 ^ 5 % 8
          let q := v.toNat / 2 ^ 12 % 8
          d = { s.dev with host := { h with payloadSize := if p ≤ 2 then p else h.payloadSize
                                            readSize := if q ≤ 5 then q else h.readSize } })
      ∧ Completes (.registerWrite (.config .identity) 4 v) s (fun d => d = s.dev))
  ∧ ∀ reg : HostReg, ((Instr.registerWrite reg len v).wf = false → exec (.registerWrite reg len v) s = .fault .illFormed)
      ∧ ((Instr.rcRead reg len).wf = false → exec (.rcRead reg len) s = .fault .illFormed)

/-- R435, R436: a BAR2 read answers the bytes of the logical space behind the window, 0xFF for a byte of an unallocated
page, marks the answer poisoned when a page is, and counts the accesses that met an unallocated page; a BAR2 write
stores its bytes there and no others, and a write whose page is unallocated or poisoned is dropped and counted.  An error
that the read finds in its tier, or the read of an entry that a write covers only in part, takes effect first (R229, R233):
the access then meets the poisoned page. -/
def Obligations.WindowAccessesComplete : Prop := ∀ (s : State) (off : BitVec 40) (len : Nat) (bytes : List Byte) (err : TierErr),
  let base := 65536 * s.dev.host.bar2Base.toNat + off.toNat
  let inside (n : Nat) : Prop := barsOpen s.dev = true ∧ 1 ≤ n ∧ n ≤ 4096 ∧ off.toNat + n ≤ 2 ^ 40
    ∧ off.toNat + n ≤ 65536 * s.dev.host.bar2Pages
  let good (p : Nat) : Prop := resValid (s.dev.res p) = true ∧ resPoison (s.dev.res p) = false
  (inside len → memoriesWf s.dev = true → Completes (.bar2Read off len none) s fun d =>
    d = { s.dev with host := { s.dev.host with
        lastRead := d.host.lastRead, poisoned := d.host.poisoned, bar2Reads := d.host.bar2Reads } }
      ∧ d.host.lastRead.length = len
      ∧ (∀ i < len, good ((base + i) / 65536) →
          d.host.lastRead.getD i 0 = BitVec.ofNat 8 (readPage s.dev ((base + i) / 65536) ((base + i) % 65536) 1))
      ∧ (∀ i < len, resValid (s.dev.res ((base + i) / 65536)) = false → d.host.lastRead.getD i 0 = 0xFF)
      ∧ (d.host.poisoned = true ↔ ∃ i < len, resPoison (s.dev.res ((base + i) / 65536)) = true)
      ∧ d.host.bar2Reads = (if ∀ i < len, resValid (s.dev.res ((base + i) / 65536)) = true then s.dev.host.bar2Reads
                            else satAdd s.dev.host.bar2Reads 1))
  ∧ (inside len → exec (.bar2Read off len err) s = exec (.bar2Read off len none) (s.upd (tierFound none err base len))
      ∧ ∀ y, err = some (y, .uncorrected) → tierMeets err base len s.dev = true → Completes (.bar2Read off len err) s fun d =>
          d.host.poisoned = true ∧ resPoison (d.res (y.toNat / 65536)) = true
            ∧ ∀ q, q ≠ y.toNat / 65536 → d.res q = s.dev.res q)
  ∧ (inside bytes.length → memoriesWf s.dev = true → ResidencyWf s.dev →
      (∀ i < bytes.length, good ((base + i) / 65536)) → partEntry err base bytes.length = none →
      Completes (.bar2Write off bytes err) s fun d =>
        (∀ i < bytes.length, readPage d ((base + i) / 65536) ((base + i) % 65536) 1 = (bytes.getD i 0).toNat)
          ∧ (∀ a, (a < base ∨ base + bytes.length ≤ a) →
              ((∃ i < bytes.length, a / 65536 = (base + i) / 65536) → resTier (s.dev.res (a / 65536)) ≠ 0) →
              readPage d (a / 65536) (a % 65536) 1 = readPage s.dev (a / 65536) (a % 65536) 1)
          ∧ d.units = s.dev.units ∧ d.cores = s.dev.cores ∧ d.host.bar2Writes = s.dev.host.bar2Writes)
  ∧ (inside bytes.length → base % 65536 + bytes.length ≤ 65536 → ¬ good (base / 65536) → Completes (.bar2Write off bytes err) s fun d =>
      d = { s.dev with host := { s.dev.host with bar2Writes := satAdd s.dev.host.bar2Writes 1 } })
  ∧ (∀ y e, inside bytes.length → base % 65536 + bytes.length ≤ 65536 → err = some (y, .uncorrected) →
      partEntry err base bytes.length = some e → tierMeets err e 512 s.dev = true → Completes (.bar2Write off bytes err) s fun d =>
        resPoison (d.res (base / 65536)) = true ∧ d.host.bar2Writes = satAdd s.dev.host.bar2Writes 1
          ∧ d.tiers.near = s.dev.tiers.near ∧ d.tiers.far = s.dev.tiers.far)
  ∧ ((Instr.bar2Read off len err).wf = false → exec (.bar2Read off len err) s = .fault .illFormed)
  ∧ ((Instr.bar2Write off bytes err).wf = false → exec (.bar2Write off bytes err) s = .fault .illFormed)

/-- R437 to R439, Table 13.11: a granule goes to the filling bank of a bound window, and counts as late when its word has
been released; on a window that is not bound it sets OVERRUN; the end of a packet fixes its length, counts its missing
granules and turns to the other bank when that is empty; a ready word goes to its tap as a token, the last word of a
packet freeing its bank.  A granule off the 16-byte grid is no command. -/
def Obligations.IngestCompletes : Prop := ∀ (s : State) (win : Fin 8),
  let n := win.val
  let w := Tab.getD s.dev.host.ingest n {}
  let become (y : Ingest) (d : Device) : Device := { d with host := { d.host with ingest := Tab.set d.host.ingest n y } }
  (∀ (off : BitVec 16) (v : BitVec 128), let g := off.toNat / 16
    (off.toNat % 16 ≠ 0 → exec (.ingestData win off v) s = .fault .illFormed)
    ∧ (off.toNat % 16 = 0 → barsOpen s.dev = true →
      (∀ k, w.filling = some k → w.bound.isSome = true → 32 * (w.bank k).released ≤ g → Completes (.ingestData win off v) s fun d =>
        let b := w.bank k
        d = become (w.setBank k { b with granules := Ram.write b.granules g v
                                         present := if g ∈ b.present then b.present else g :: b.present }) s.dev)
      ∧ (∀ k, w.filling = some k → w.bound.isSome = true → g < 32 * (w.bank k).released → Completes (.ingestData win off v) s fun d =>
          d = become { w with late := satAdd w.late 1 } s.dev)
      ∧ (w.bound = none → Completes (.ingestData win off v) s fun d => d = become { w with overrun := true } s.dev)))
  ∧ (∀ (v : BitVec 64) (k : Bool), let len := v.toNat % 2 ^ 17
      barsOpen s.dev = true → w.filling = some k → w.bound.isSome = true → 1 ≤ len → len ≤ 65536 → 512 * (w.bank k).released < len →
      Completes (.ingestEnd win v) s fun d =>
        let y := Tab.getD d.host.ingest n {}
        let last := (len + 15) / 16
        d = become y s.dev ∧ (y.bank k).length = some len ∧ (y.bank k).released = (w.bank k).released
          ∧ y.bank (!k) = w.bank (!k) ∧ y.bound = w.bound ∧ y.packets = w.packets
          ∧ y.filling = (if w.bank (!k) = {} then some (!k) else none)
          ∧ y.late = satAdd w.late (((List.range last).filter (fun g => !(w.bank k).present.contains g)).length
                                    + ((w.bank k).present.filter (fun g => decide (last ≤ g))).length))
  ∧ (∀ (bd : IngestBind) (len : Nat), w.bound = some bd → let k := drainBank w
      let b := w.bank k
      b.length = some len → 512 * b.released < len → (s.dev.core bd.core).section_ = some bd.handle →
      tapReady s.dev bd.core bd.tap bd.hchan bd.ctx = true → Completes (.ingestWordRelease win) s fun d =>
        let left := len - 512 * b.released
        Tab.find (d.unit (tapUnit bd.core bd.tap)).latch (tapNode bd.tap).2.2
            = some ⟨BitVec.ofNat 4096 (Ram.slice b.granules (32 * b.released) 32),
                    mkTag bd.ctx (decide (left ≤ 512)) (min 512 left) 2 bd.hchan⟩
          ∧ (512 < left → d.host = (become (w.setBank k { b with released := b.released + 1 }) s.dev).host)
          ∧ (left ≤ 512 → let y := Tab.getD d.host.ingest n {}
              y.packets = satAdd w.packets 1 ∧ y.bank k = {} ∧ y.bank (!k) = w.bank (!k)
                ∧ y.filling = (if w.filling = none then some k else w.filling)))

/-- R431, R432, R443, R493, R495, R502, R518, R519, Tables 13.8 and 13.12: the commands that answer what the module holds
complete DONE with their reply and change nothing but their mailbox: DEVICE_INFO, LOG_READ, PAGE_QUERY, IDENTITY_READ,
ATTEST_QUOTE; REG_READ also clears the registers it reads when asked to; SETTINGS sets the masked bits of its register
and answers the old and the new value; METER_READ and METER_JOBS send their request and wait. -/
def Obligations.QueriesComplete : Prop := ∀ (s : State) (m : Fin 16),
  let x := s.dev.mb m.val
  let e := taken m.val s.dev
  let b := s.dev.boot
  (Rung s.dev m.val 0x01 → Completes (.deviceInfo m) s fun d => d = endDone m.val (reply m.val 0 32
      (0x9100 + (b.fwMajor.toNat <<< 32) + (b.fwMinor.toNat <<< 48) + (s.dev.mgmt.serial.toNat <<< 64) + (reducedMask s.dev <<< 128)
        + (s.dev.sched.offline.toNat <<< 144) + (s.dev.tiers.ftRemoved.toNat <<< 160) + (b.image.toNat <<< 192)) e))
  ∧ (Rung s.dev m.val 0x43 → checkRegs s.dev x = 0 → Completes (.regRead m) s fun d =>
      let n := x.arg 6 2
      ∃ vs e', vs.length = n ∧ d = endDone m.val (replyWords m.val vs e')
        ∧ (bitOf (x.arg 1 1) 0 = false → e' = e ∧ ∀ k < n, vs.getD k 0 = regWord e (x.arg 0 1) (x.arg 2 2) (x.arg 4 2 + 8 * k))
        ∧ (bitOf (x.arg 1 1) 0 = true → n = 1 → vs = [regWord e (x.arg 0 1) (x.arg 2 2) (x.arg 4 2)]
            ∧ e' = regClear (x.arg 0 1) (x.arg 2 2) (x.arg 4 2) e))
  ∧ (Rung s.dev m.val 0x60 → between (x.arg 8 4) 1 128 = true → x.arg 12 4 = 0 → Completes (.logRead m) s fun d =>
      let first := max (max 1 (x.arg 0 8)) (s.dev.mgmt.almanacNext.toNat - 1048576)
      let kept := (List.range (s.dev.mgmt.almanacNext.toNat - first)).filterMap (fun k => almanacRecord s.dev (first + k))
      d = endDone m.val ((kept.take (x.arg 8 4)).zipIdx.foldl (fun d r => reply m.val (64 * r.2) 64 r.1 d) e))
  ∧ (Rung s.dev m.val 0x24 → 1 ≤ x.arg 4 4 → x.arg 4 4 ≤ 1024 → x.arg 0 4 + x.arg 4 4 ≤ 2 ^ 24 → Completes (.pageQuery m) s fun d =>
      d = endDone m.val (replyWords m.val ((List.range (x.arg 4 4)).map (fun k => (s.dev.res (x.arg 0 4 + k)).toNat)) e))
  ∧ (Rung s.dev m.val 0x74 → Completes (.identityRead m) s fun d =>
      let cs := [certBytes s.dev.mgmt 0 2720, certBytes s.dev.mgmt 1 2720, certBytes s.dev.mgmt 2 2720]
      let l := cs.map List.length
      d = endDone m.val (reply m.val 10 cs.flatten.length (bytesToNat cs.flatten)
        (reply m.val 0 10 (3 + (l.getD 0 0 <<< 32) + (l.getD 1 0 <<< 48) + (l.getD 2 0 <<< 64)) e)))
  ∧ (Rung s.dev m.val 0x76 → x.arg 36 12 = 0 →
      (x.arg 32 4 = 0 ∨ ∃ sec, s.dev.section? (x.arg 32 4) = some sec ∧ sec.state ≠ .halted) → Completes (.attestQuote m) s fun d =>
        let v := quoteBody s.dev x
        d = endDone m.val (reply m.val 0x110 96 (signBytes (2 + s.dev.mgmt.attestKey) 0x110 v) (reply m.val 0 0x110 v e)))
  ∧ (∀ w, settingMask (x.arg 0 2) = some w → Rung s.dev m.val 0x40 → checkSettings s.dev x = 0 → Completes (.settings m) s fun d =>
      let old := settingNow s.dev (x.arg 0 2)
      let new := settingNow d (x.arg 0 2)
      (∀ k < 64, new.testBit k = if (x.arg 16 8).testBit k then (x.arg 8 8).testBit k else old.testBit k)
        ∧ (d.mb m.val).state = .done ∧ Ram.slice (d.mb m.val).reply 0 8 = old % 2 ^ 64 ∧ Ram.slice (d.mb m.val).reply 8 8 = new % 2 ^ 64
        ∧ d = { s.dev with host := d.host, tiers := d.tiers, training := d.training, sched := d.sched, set := d.set }
        ∧ ∀ i, i ≠ x.arg 0 2 → (settingMask i).isSome = true → settingNow d i = settingNow s.dev i)
  ∧ (let asked (f : MeterFrame) (d : Device) : Prop :=
       d = { e.setMb m.val { e.mb m.val with job := .meter s.dev.now } with
         meter := { s.dev.meter with bus := s.dev.meter.bus ++ [f], waiting := s.dev.meter.waiting ++ [(some m.val, s.dev.now)] } }
     (Rung s.dev m.val 0x50 → Completes (.meterRead m) s (asked (.readRequest (some m.val))))
     ∧ (Rung s.dev m.val 0x51 → between (x.arg 4 2) 1 128 = true → x.arg 6 2 = 0 →
          Completes (.meterJobs m) s (asked (.jobsRequest m.val (x.arg 0 4) (x.arg 4 2)))))

/-- R229, R241, R427, R430, R440, Table 7.4: PAGE_ALLOC allocates its pages with the CLASS and PIN asked for, reading zero, and runs until
their invalidations are acknowledged, or fails with 0x12 and allocates none; PAGE_FREE makes its pages unallocated, and is
done once no invalidation of them is on its way; PAGE_MOVE starts the move of a page that can move and skips those that
cannot, but ends FAILED with its class's code and its address at a poisoned one (R229); an XFER that may start copies its bytes between the host's memory and the logical space, to its end or, where it goes
on later, up to a block of 4 KiB.  An uncorrected error met in a tier poisons its page and ends the transfer FAILED before
that page's 512-byte entry; an error completion of the host ends it FAILED with 0x02 at its byte.  No other page and no other
byte changes. -/
def Obligations.PageCommandsComplete : Prop := ∀ (s : State) (m : Fin 16),
  let x := s.dev.mb m.val
  let e := taken m.val s.dev
  let p := x.arg 0 4
  let n := x.arg 4 4
  (∀ base, Rung s.dev m.val 0x21 → checkAlloc s.dev x = 0 →
    (p ≠ 0xFFFFFFFF ∧ base = p ∧ ∀ k < n, resValid (s.dev.res (p + k)) = false)
      ∨ (p = 0xFFFFFFFF ∧ lowestRun e (fun _ => true) n = some base) →
    (∀ e', allocRange x base e = some e' → Completes (.pageAlloc m) s fun d =>
      let ps := (List.range n).map (· + base)
      d = (reply m.val 0 4 base e').updMb m.val (fun y => { y with job := .changing ps })
        ∧ d.tiers.invals = s.dev.tiers.invals ++ ps
        ∧ (∀ k < n, resValid (d.res (base + k)) = true ∧ resClass (d.res (base + k)) = bitOf (x.arg 8 2) 0
            ∧ resPin (d.res (base + k)) = bitOf (x.arg 8 2) 1 ∧ ∀ off l, readPage d (base + k) off l = 0)
        ∧ ∀ q, (q < base ∨ base + n ≤ q) → d.res q = s.dev.res q)
    ∧ (allocRange x base e = none → Completes (.pageAlloc m) s fun d => d = endFailed m.val 0x12 e))
  ∧ (Rung s.dev m.val 0x22 → checkFree s.dev x = 0 → Completes (.pageFree m) s fun d =>
      (d.mb m.val).state = (if ∃ k < n, p + k ∈ d.tiers.invals then .running else .done)
        ∧ (∀ k < n, resValid (d.res (p + k)) = false ∧ ∀ off l, readPage d (p + k) off l = 0)
        ∧ (∀ k < n, resValid (s.dev.res (p + k)) = true → p + k ∈ d.tiers.invals)
        ∧ (∀ q, (q < p ∨ p + n ≤ q) → d.res q = s.dev.res q)
        ∧ d.tiers.near = s.dev.tiers.near ∧ d.tiers.far = s.dev.tiers.far)
  ∧ (∀ t, t = x.arg 8 1 → Rung s.dev m.val 0x23 → checkMove s.dev x = 0 →
      ((∀ k < n, startMove (p + k) t 2 m.val e = none) → s.dev.tiers.moves.length < 4 → Completes (.pageMove m) s fun d =>
        (d.mb m.val).state = .done ∧ Ram.slice (d.mb m.val).reply 0 4 = 0 ∧ Ram.slice (d.mb m.val).reply 4 4 = n
          ∧ d.tiers = s.dev.tiers)
      ∧ (n = 1 → resValid (s.dev.res p) = true → resPin (s.dev.res p) = false → resMoving (s.dev.res p) = false →
          resPoison (s.dev.res p) = false → resUnit (s.dev.res p) ≠ t → s.dev.tiers.moves.length < 4 → 0 < offerCount s.dev t →
          lowestGap 0 (usedFrames s.dev t) < frameLimit s.dev t → Completes (.pageMove m) s fun d =>
            resMoving (d.res p) = true ∧ (∀ q, q ≠ p → d.res q = s.dev.res q)
              ∧ d.tiers.moves = s.dev.tiers.moves ++ [⟨p, resUnit (s.dev.res p), resFrame (s.dev.res p), t,
                                                       lowestGap 0 (usedFrames s.dev t), 2, m.val, false⟩]
              ∧ (d.mb m.val).state = .running ∧ (d.mb m.val).job = .moving t [] [p] 0 0)
      ∧ (n = 1 → resPoison (s.dev.res p) = true → (startMove p t 2 m.val e).isSome = true → s.dev.tiers.moves.length < 4 →
          Completes (.pageMove m) s fun d =>
            (d.mb m.val).state = .failed ∧ (d.mb m.val).error = classCode (s.dev.res p)
              ∧ Ram.slice (d.mb m.val).reply 0 8 = 65536 * p ∧ d.tiers = s.dev.tiers))
  ∧ (∀ (err : TierErr) (ps : List (Nat × Nat)),
      let a := x.arg 0x10 8
      let n := (ps.map (·.2)).sum
      Rung s.dev m.val 0x20 → checkXfer s.dev x = 0 → s.dev.host.d3 = false → NoneWaits s.dev m.val [0x20] →
      ((List.range 16).filter (fun k => (s.dev.mb k).opcode = 0x20 && (s.dev.mb k).between)).length < 4 →
      hostPieces e x = some ps → a + n ≤ 2 ^ 40 → memoriesWf s.dev = true → ResidencyWf s.dev →
      (∀ i < n, resValid (s.dev.res ((a + i) / 65536)) = true ∧ resPoison (s.dev.res ((a + i) / 65536)) = false) →
      (∀ b < n, Completes (.xfer m none none (some b)) s fun d =>
          (d.mb m.val).state = .failed ∧ (d.mb m.val).error = 0x02#8 ∧ Ram.slice (d.mb m.val).reply 0 8 = b)
      ∧ (∀ j, 4096 * j < n → Completes (.xfer m none (some j)) s fun d =>
          (d.mb m.val).state = .running ∧ (d.mb m.val).job = .working none (4096 * j) (4096 * j))
      ∧ (x.arg 0 1 = 0 →
          (partEntry err a n = none → Completes (.xfer m err) s fun d =>
            (d.mb m.val).state = .done ∧ Ram.slice (d.mb m.val).reply 0 8 = n
              ∧ (∀ i < n, readPage d ((a + i) / 65536) ((a + i) % 65536) 1 = bitsOf (gatherHost s.dev ps) (8 * i) 8)
              ∧ ∀ b, (b < a ∨ a + n ≤ b) → ((∃ i < n, b / 65536 = (a + i) / 65536) → resTier (s.dev.res (b / 65536)) ≠ 0) →
                  readPage d (b / 65536) (b % 65536) 1 = readPage s.dev (b / 65536) (b % 65536) 1)
          ∧ (∀ y b, err = some (y, .uncorrected) → partEntry err a n = some b → tierMeets err b 512 s.dev = true →
              Completes (.xfer m err) s fun d =>
                (d.mb m.val).state = .failed ∧ (d.mb m.val).error = classCode (s.dev.res (b / 65536))
                  ∧ Ram.slice (d.mb m.val).reply 0 8 = b - a ∧ resPoison (d.res (b / 65536)) = true))
      ∧ (∀ h k, ps = [(h, k)] → x.arg 0 1 = 1 →
          let copied (n : Nat) (d : Device) : Prop := Ram.slice (d.mb m.val).reply 0 8 = n
            ∧ (∀ i < n, (Ram.read d.host.mem (h + i)).toNat = readPage s.dev ((a + i) / 65536) ((a + i) % 65536) 1)
            ∧ ∀ b, (b < h ∨ h + n ≤ b) → Ram.read d.host.mem b = Ram.read s.dev.host.mem b
          ((∀ y c, err = some (y, c) → c ≠ .uncorrected) → Completes (.xfer m err) s fun d =>
            (d.mb m.val).state = .done ∧ d.tiers = (tierFound (some m.val) err a k e).tiers ∧ copied k d)
          ∧ (∀ y, err = some (y, .uncorrected) → tierMeets err a k e = true → Completes (.xfer m err) s fun d =>
              (d.mb m.val).state = .failed ∧ (d.mb m.val).error = classCode (s.dev.res (y.toNat / 65536))
                ∧ resPoison (d.res (y.toNat / 65536)) = true ∧ (∀ q, q ≠ y.toNat / 65536 → d.res q = s.dev.res q)
                ∧ copied (y.toNat / 512 * 512 - a) d)))

/-- R229, R345, R346, R433: EXPORT and IMPORT answer a next state: an EXPORT whose areas are allocated and sound and whose
destination has room writes the groups asked for, one after the other in the form asked for, and answers their length; an
IMPORT of a stream that holds exactly those groups writes every part of it to its place, and clears POISON of the pages it
covers whole.  An error that the reads of a tier find takes effect first, and an EXPORT of a poisoned area ends FAILED with
its class's code.  The EXPORT leaves the logical space unchanged when it writes to the host's memory. -/
def Obligations.StateCommandsComplete : Prop := ∀ (s : State) (m : Fin 16) (err : TierErr) (sec : Section),
  let x := s.dev.mb m.val
  let e := taken m.val s.dev
  let gs := takenGroups sec x
  let a := x.arg 8 8
  let len := x.arg 0x10 8
  s.dev.section? (x.arg 0 4) = some sec → checkState s.dev x = 0 → s.dev.host.d3 = false →
  (let e := (gs.flatMap (groupAreas sec)).foldl (fun d r => tierFound (some m.val) err r.1 r.2 d) e
   let out := joinBytes (exportParts e sec x)
   Rung s.dev m.val 0x30 →
   (∀ c, areaFault e (gs.flatMap (groupAreas sec)) = some c →
      exec (.export_ m err) s = .next { s with dev := finishXfer m.val 0 (some c) e })
   ∧ (areaFault e (gs.flatMap (groupAreas sec)) = none → out.1 ≤ len →
      (x.arg 5 1 = 0 → ∃ d, exec (.export_ m err) s = .next { s with dev := d }
        ∧ (d.mb m.val).state = .done ∧ Ram.slice (d.mb m.val).reply 0 8 = out.1 % 2 ^ 64
        ∧ Ram.slice d.host.mem a out.1 = out.2 % 2 ^ (8 * out.1) ∧ d.tiers = e.tiers
        ∧ ∀ b, (b < a ∨ a + out.1 ≤ b) → Ram.read d.host.mem b = Ram.read s.dev.host.mem b)
      ∧ (x.arg 5 1 = 1 → a + out.1 ≤ 2 ^ 40 → anyInvalid e (pagesOf a out.1) = false → partEntry err a out.1 = none →
          rewriteFault e [(a, out.1)] = none → exec (.export_ m err) s
            = .next { s with dev := finishXfer m.val out.1 none (writeArea (wholePages [(a, out.1)]) a out.1 out.2 e) })))
  ∧ (let e := if x.arg 5 1 = 1 then tierFound (some m.val) err a len e else e
     ∀ st, Rung s.dev m.val 0x31 → stageBytes e (x.arg 5 1 = 1) a len = .ok st →
      (∀ r ∈ gs.flatMap (groupAreas sec), partEntry err r.1 r.2 = none) →
      let v := Ram.slice st 0 len
      let lands (areas : List (Nat × Nat)) (parts : List ImportPart) : Prop :=
        areas.any (fun r => anyInvalid e (pagesOf r.1 r.2)) = false → rewriteFault e areas = none →
          exec (.import_ m err) s = .next { s with dev := finishXfer m.val len none (clearPoison (wholePages areas) (parts.foldl (fun d p => p.2 d) e)) }
      (x.arg 4 1 = 0 → storedOk sec gs len v = true → lands (gs.flatMap (groupAreas sec)) (storedImport sec gs v))
      ∧ (∀ recs, x.arg 4 1 = 1 → shardRecords sec.pkg gs v len (len / 64 + 1) 0 = some recs →
          lands (recs.flatMap (recordAreas sec)) (recs.map (fun r => (recordBytes sec.pkg r, importShard sec v r)))))

/-- R434, R473, R489 to R491, R494, R496, R497: FW_STAGE checks the image it names and stores it in the slot that is not
active, which is then staged; FW_COMMIT checks the staged slot again and names it in the older slot record; GOLDEN_WRITE
stores a checked image in the golden region and raises GOLDEN_FLOOR to its version; DEBUG_UNLOCK adds to the debug
scope; IDENTITY_RECERTIFY makes a new attestation key, or replaces or removes a package root; ZEROIZE clears the
memories, the roots and the key that its SCOPE names, pre-empted sections losing their saves (R366).  FW_STAGE and GOLDEN_WRITE may
wait with their staged image after its checks and after their region is erased, and end FAILED when what they read back differs
(R428, R454, R473); FW_STAGE drops the mark of an earlier one.  FW_COMMIT may wait with the copy that it replaces torn: the
other copy then stays in force (R488).  A gated command that is carried out leaves its gated-use record;
one that meets a closed window waits, or is refused with 0x04 when its wait is 0. -/
def Obligations.SecurityCommandsComplete : Prop := ∀ (s : State) (m : Fin 16) (upto : Option (Fin 2)) (bad : Bool) (err : TierErr),
  let k := m.val
  let x := s.dev.mb k
  let e := takenGated k s.dev
  let alone := SerialFree s.dev k
  let staged := CanStage s.dev k (imageLength (cutMem s.dev.host.mem (x.arg 8 8) 64))
  let v := x.arg 0 1
  let rejected (c : BitVec 8) (t : Device) : Device := endFailed k c (if c = 0x20 then countReject t else t)
  let waits (region : Nat) (im : Memory) (t done : Device) : Device := match upto with
    | some 0 => t.setMb k { t.mb k with job := .programming im false }
    | some _ => let t := eraseRegion region t
      t.setMb k { t.mb k with job := .programming im true }
    | none => if bad then endInternal k (eraseRegion region t) else done
  (Rung s.dev k 0x70 → alone → staged → v ≤ 1 → x.arg 1 7 = 0 → Completes (.fwStage m err upto bad) s fun d =>
    let t := imageRead k err x { taken k s.dev with mgmt := { s.dev.mgmt with staged := 0 } }
    let slot := inactiveSlot s.dev
    d = match fetchImage t (v = 1) (x.arg 8 8) with
      | .error c => rejected c t
      | .ok im => match imageFault t im s.dev.mgmt.rollbackFloor.toNat with
        | (t', some c) => endFailed k c t'
        | (t', none) => waits slot im t' (let p := programRegion slot im t'
          endDone k (reply k 0 1 slot (logCmd 0x50 0 slot k (imageVersion im)
            { p with mgmt := { p.mgmt with staged := BitVec.ofNat 2 (slot + 1) } }))))
  ∧ (windowOpen s.dev = true →
    (Rung s.dev k 0x71 → alone → x.arg 1 7 = 0 → s.dev.mgmt.staged.toNat = v + 1 → Completes (.fwCommit m) s fun d =>
      d = match imageFault e (storedImage e v) s.dev.mgmt.rollbackFloor.toNat with
        | (t, some c) => endFailed k c t
        | (t, none) => endDone k (logCmd 0x51 0 v k (imageVersion (storedImage e v)) { t with mgmt := writeSlotRecord v t.mgmt }))
    ∧ (∀ t, Rung s.dev k 0x71 → alone → x.arg 1 7 = 0 → s.dev.mgmt.staged.toNat = v + 1 →
        imageFault e (storedImage e v) s.dev.mgmt.rollbackFloor.toNat = (t, none) → Completes (.fwCommit m true) s fun d =>
          d = { t with mgmt := d.mgmt }.setMb k { t.mb k with job := .committing v }
            ∧ (slotRecordOk d.mgmt.recordA = false ∨ slotRecordOk d.mgmt.recordB = false)
            ∧ (s.dev.mgmt.recordA.sequence ≠ s.dev.mgmt.recordB.sequence → activeSlot d.mgmt = activeSlot s.dev.mgmt))
    ∧ (Rung s.dev k 0x72 → alone → staged → v ≤ 1 → x.arg 1 7 = 0 → Completes (.goldenWrite m err upto bad) s fun d =>
        let e := imageRead k err x e
        d = match fetchImage e (v = 1) (x.arg 8 8) with
          | .error c => rejected c e
          | .ok im => match imageFault e im s.dev.mgmt.goldenFloor.toNat with
            | (t, some c) => endFailed k c t
            | (t, none) => waits 2 im t (endDone k (raiseGolden k (imageVersion im) (logCmd 0x52 0 0 k (imageVersion im) (programRegion 2 im t)))))
    ∧ (Rung s.dev k 0x73 → alone → v ≤ 3 → x.arg 1 7 = 0 → Completes (.debugUnlock m) s fun d =>
        d = endDone k (logCmd 0x53 0 v k 0 { e with mgmt := { e.mgmt with debugScope := s.dev.mgmt.debugScope ||| BitVec.ofNat 2 v } }))
    ∧ (Rung s.dev k 0x75 → alone → x.arg 1 1 ≤ 1 → (v = 1 ∨ x.arg 2 1 ≤ 15) → x.arg 3 5 = 0 →
        (s.dev.host.d3 = false ∨ x.arg 1 1 = 1 ∨ v ≠ 2) →
        let finish (op : Nat) (e : Device) (g : Mgmt) : Device :=
          endDone k (logCmd 0x54 0 op k (x.arg 2 1 + (g.recert.toNat <<< 8)) { e with mgmt := g })
        (v = 1 → Completes (.identityRecertify m err) s fun d => 
          d = finish 1 e { e.mgmt with recert := satAdd s.dev.mgmt.recert 1, attestKey := s.dev.mgmt.attestKey + 1 })
        ∧ (let e := if x.arg 1 1 = 1 then tierFound (some k) err (x.arg 8 8) 97 e else e
           ∀ b, v = 2 → stageBytes e (x.arg 1 1 = 1) (x.arg 8 8) 97 = .ok b → let p := bigEndian b 0 97
            (bitsOf p 768 8 = 4 → onCurve (bitsOf p 384 384) (bitsOf p 0 384) = true → Completes (.identityRecertify m err) s fun d =>
              d = finish 2 e { e.mgmt with roots := Tab.set s.dev.mgmt.roots (x.arg 2 1) (BitVec.ofNat 776 p) })
            ∧ (bitsOf p 768 8 ≠ 4 ∨ onCurve (bitsOf p 384 384) (bitsOf p 0 384) = false → Completes (.identityRecertify m err) s fun d =>
                d = endFailed k 0x02 e))
        ∧ (v = 3 → Completes (.identityRecertify m err) s fun d => d = finish 3 e { e.mgmt with roots := Tab.erase s.dev.mgmt.roots (x.arg 2 1) }))
    ∧ (Rung s.dev k 0x77 → alone → v ≤ 3 → x.arg 1 7 = 0 → (∀ sec ∈ s.dev.sections, sec.state = .preempted) →
        xferRuns s.dev = false → Completes (.zeroize m) s fun d =>
        (d.mb k).state = .done
          ∧ (bitOf v 0 = true → (∀ p, resValid (d.res p) = false) ∧ d.tiers.near = [] ∧ d.tiers.far = []
              ∧ (∀ sec ∈ d.sections, sec.save = none) ∧ ∀ u, isCu u = false → (d.unit u).mu.ram = [])
          ∧ (bitOf v 0 = false → d.tiers = s.dev.tiers ∧ d.units = s.dev.units ∧ d.sections = s.dev.sections)
          ∧ d.mgmt.roots = (if bitOf v 1 then [] else s.dev.mgmt.roots)
          ∧ d.mgmt.recert = (if bitOf v 1 then satAdd s.dev.mgmt.recert 1 else s.dev.mgmt.recert)
          ∧ d.mgmt.attestKey = (if bitOf v 1 then s.dev.mgmt.attestKey + 1 else s.dev.mgmt.attestKey)))
  ∧ (windowOpen s.dev = false →
      ∀ row ∈ [(Instr.fwCommit m, 0x71, checkCommit), (.goldenWrite m err upto bad, 0x72, checkSource), (.debugUnlock m, 0x73, checkScope),
               (.identityRecertify m err, 0x75, checkRecertify), (.zeroize m, 0x77, checkZeroize)],
        Rung s.dev k row.2.1 → row.2.2 s.dev x = 0 → Completes row.1 s fun d =>
          (Ram.slice x.copy 6 1 = 0 → d = endRefused k 0x04 s.dev)
            ∧ (0 < Ram.slice x.copy 6 1 → d = s.dev.setMb k
                { x with state := .waitingPresence, error := 0x04, since := s.dev.now, rung := false, progress := 0 }))

/-- R358, R407, R426 to R429, Table 13.6: RUN and RUN_FUSED with sound arguments are ACCEPTED; CANCEL ends its target, or
stops it and waits for its cores, and answers OUTCOME 1, whatever its job is, or answers 0 where there is nothing to cancel and 2
where it comes too late; UNLOAD takes its section away, and ends DONE once the invalidations of its pages are acknowledged; EPOCH_REQUEST asks for an epoch's end where its section can have one; the waiting command that
R358 puts first and whose sections are idle starts at entry 0 of its first stage. -/
def Obligations.RunCommandsComplete : Prop := ∀ (s : State) (m : Fin 16),
  let k := m.val
  let x := s.dev.mb k
  let e := taken k s.dev
  let accepted : Device :=
    let a := s.dev.setMb k { x with state := .accepted, error := 0, order := s.dev.host.orders, since := s.dev.now, rung := false }
    { a with host := { a.host with orders := s.dev.host.orders + 1 } }
  (Rung s.dev k 0x12 → runArgsOk s.dev x = true → Completes (.run m) s fun d => d = accepted)
  ∧ (Rung s.dev k 0x13 → checkFused s.dev x = 0 → Completes (.runFused m) s fun d => d = accepted)
  ∧ (∀ t, t = x.arg 0 1 → Rung s.dev k 0x14 → x.arg 1 1 = 0 → x.arg 4 4 = 0 → let y := s.dev.mb t
      let answered (outcome : Nat) (d : Device) : Device := endDone k (reply k 0 1 outcome d)
      (15 < t ∨ y.seq.toNat ≠ x.arg 2 2 ∨ (t ≠ k ∧ y.state.live = false) → Completes (.cancel m) s fun d => d = answered 0 e)
      ∧ (y.seq.toNat = x.arg 2 2 → t = k → Completes (.cancel m) s fun d => d = answered 2 e)
      ∧ (y.seq.toNat = x.arg 2 2 → t ≠ k → t ≤ 15 →
          (y.state = .accepted ∨ y.state = .waitingPresence → Completes (.cancel m) s fun d => d = answered 1 (endFailed t 0 e))
          ∧ (∀ h g, y.state = .preempted → y.job = .run h g → Completes (.cancel m) s fun d =>
              d = answered 1 (endFailed t 0 (unloadSection h (releaseStages t e))))
          ∧ (y.state.started = true →
            let waiting (f : Device) : Device :=
              let r := reply k 0 1 1 f
              r.setMb k { r.mb k with job := .cancelling t }
            let unload (h : Nat) (d : Device) : Prop := d =
              (if ((stopBroadcast t e).section? h).any (fun c => c.state = .loading) then waiting else answered 1) (cancelLoad t h e)
            (∀ h g sec, y.job = .run h g → e.section? h = some sec → y.applying = false → Completes (.cancel m) s fun d =>
              d = waiting (stopCommand t 0 none e))
            ∧ (∀ h c f, y.job = .stopping h c f → Completes (.cancel m) s fun d => d = waiting (stopCommand t 0 none e))
            ∧ (∀ h g, y.job = .run h g → y.applying = true → Completes (.cancel m) s fun d => d = answered 2 e)
            ∧ (∀ h, y.job = .loading h → Completes (.cancel m) s (unload h))
            ∧ (∀ c, y.job = .feeding c → Completes (.cancel m) s (unload (fld y.reply 0x38 4)))
            ∧ (∀ u todo fly a b, y.job = .moving u todo fly a b → Completes (.cancel m) s fun d =>
                d = answered 1 (endFailed t 0 (reply t 4 4 b (reply t 0 4 (a + fly.length) e))))
            ∧ (∀ a b c n o, y.job = .posted a b c n o → Completes (.cancel m) s fun d => d = answered 1 (endFailed t 0 e))
            ∧ (∀ pk n, y.job = .placing pk n → Completes (.cancel m) s fun d => d = answered 1 (endFailed t 0 (stopBroadcast t e)))
            ∧ (∀ h, y.job = .forming h → Completes (.cancel m) s fun d =>
                d = answered 1 (endFailed t 0 (stopBroadcast t (leaveSet 0 (match e.section? h with
                  | some sec => undoPlacement sec e
                  | none => e)))))
            ∧ (∀ h v n sent, y.job = .region h v n sent → Completes (.cancel m) s fun d =>
                d = if sent then answered 2 e else answered 1 (endFailed t 0 e))
            ∧ (∀ h n b, y.job = .working h n b → Completes (.cancel m) s fun d =>
                d = answered 1 (endFailed t 0 (if y.opcode ∈ [0x20, 0x30, 0x31] then reply t 0 8 b e else e)))
            ∧ (∀ im erased, y.job = .programming im erased → Completes (.cancel m) s fun d =>
                d = if y.opcode = 0x72 ∧ erased = true then answered 2 e else answered 1 (endFailed t 0 e))
            ∧ (y.job = .none ∨ (∃ h, y.job = .preempting h) ∨ (∃ c, y.job = .offline c) ∨ (∃ u, y.job = .meter u)
                  ∨ (∃ h, y.job = .comparing h) ∨ (∃ ps, y.job = .changing ps) ∨ (∃ h, y.job = .aborting h)
                  ∨ (∃ c, y.job = .cancelling c) ∨ (∃ v, y.job = .committing v) →
                Completes (.cancel m) s fun d => d = answered 2 e))))
  ∧ (∀ sec, Rung s.dev k 0x11 → x.arg 4 4 = 0 → s.dev.section? (x.arg 0 4) = some sec → sectionBusy s.dev sec.handle = false →
      Completes (.unload m) s fun d => d.section? (x.arg 0 4) = none
        ∧ let ps := (segmentPages sec ++ storePagesOf sec).filter (fun p => d.tiers.invals.contains p)
          (ps = [] → (d.mb k).state = .done)
          ∧ (ps ≠ [] → (d.mb k).state = .running ∧ (d.mb k).job = .changing (segmentPages sec ++ storePagesOf sec)))
  ∧ (∀ sec, Rung s.dev k 0x17 → x.arg 4 4 = 0 → s.dev.section? (x.arg 0 4) = some sec → sec.state ≠ .halted →
      Completes (.epochRequest m) s fun d =>
        let can := hasLinks sec.pkg = true ∧ s.dev.set.handle = x.arg 0 4 ∧ s.dev.set.state = 2 ∧ linkEpochBarrier sec.pkg ≠ 0xFFFF
          ∧ ∃ c, sec.mbx = some c ∧ (e.mb c).state.started = true
        (can → d = endDone k { e with set := { e.set with epochReq := 1 } }) ∧ (¬ can → d = endDone k e))
  ∧ (∀ sec h, x.waitsToRun = true → meridianRuns s.dev = true → sectionsIdle s.dev x = true → startFault s.dev x = none →
      (∀ j < 16, j ≠ k → (s.dev.mb j).waitsToRun = true → (sectionsIdle s.dev (s.dev.mb j) = true ∨ (startFault s.dev (s.dev.mb j)).isSome) →
        runsBefore x (s.dev.mb j) = true) →
      h = x.stages.headD 0 → s.dev.section? h = some sec → Completes .commandStart s fun d =>
        (d.mb k).state = .running ∧ (d.mb k).job = .run h 0 ∧ (d.mb k).started = s.dev.now ∧ (d.mb k).progress = 0
          ∧ (d.section? h).map (fun t => (t.state, t.mbx)) = some (.running, some k)
          ∧ (∀ c ∈ sec.cores, (d.core c).lens = lengthRegs sec.pkg x ∧ (d.core c).seq.chunks = 0 ∧ (d.core c).seq.tripsDone = 0
              ∧ (d.core c).seq.started = false)
          ∧ ∀ j, j ≠ k → (d.mb j).state = (s.dev.mb j).state)

/-- R262, R354, R369, R370, R404, Table 5.8: when every core has finished the last stage, the command without an update
ends DONE and its section is idle, one with an update goes on to its apply phase; when every core has finished a stage
that is not the last, the next stage begins; at the marked release of an epoch the command ends DONE with the new EPOCH.  A
command whose deadline is at risk goes on and is noted, is stopped for its fallback section where the conditions of R370 hold,
or ends FAILED with DEADLINE_MISSED once D has passed, as the policy says; a stop that is complete ends the command, with the
code of what it met on the way, or switches it to the fallback section. -/
def Obligations.RunsEnd : Prop := ∀ (s : State) (m : Fin 16) (err : TierErr) (h stage : Nat) (sec : Section),
  let k := m.val
  let x := s.dev.mb k
  let e := stopStreams sec.cores s.dev
  (x.job = .run h stage → s.dev.section? h = some sec → sec.state = .running → (e.mb k).state.started = true →
    (allFinished s.dev sec = true → (s.dev.set.handle = h → haltingDone s.dev = false) → sec.epochEnd = false →
      (lastStage x stage = true → x.update = false → recordsPoison e sec = none → Completes (.commandEnd m err) s fun d =>
        (d.mb k).state = .done ∧ (d.mb k).job = .none ∧ d = doneRun k h (noteDrops k (closeEndpoints sec (writeRecords sec sec.cores e))))
      ∧ (lastStage x stage = true → x.update = true → Completes (.commandEnd m err) s fun d => d = applyRun k err sec e))
    ∧ (∀ next, allFinished s.dev sec = true → lastStage x stage = false →
        s.dev.section? (x.stages.getD (stage + 1) 0) = some next → next.state = .idle ∨ next.handle = h →
        next.state ≠ .halted → recordsPoison e sec = none → Completes (.stageHandover m) s fun d =>
          (d.mb k).job = .run next.handle (stage + 1)
            ∧ d = settleJobs (beginStage k next.handle (stage + 1)
                (idleSection h (closeEndpoints sec (writeRecords sec sec.cores e)))))
    ∧ (sec.epochEnd = true → (s.dev.set.handle = h → s.dev.set.state ≠ 3) → epochStopped s.dev sec = true →
        recordsPoison e sec = none → Completes (.commandEnd m err) s fun d =>
          let f := { e with set := { e.set with epoch := s.dev.set.epoch + 1, epochReq := 0 } }
          (d.mb k).state = .done ∧ d.set.epoch = s.dev.set.epoch + 1 ∧ d.set.epochReq = 0
            ∧ d = finishRun k sec (reply k 0 2 (s.dev.set.epoch + 1).toNat f)))
  ∧ (x.job = .comparing h → s.dev.section? h = some sec → let r := digestReads sec err s.dev
      (r.2 = none → Completes (.commandEnd m err) s fun d => d = settleCompare k sec (compareStep sec r.1))
      ∧ ∀ f, r.2 = some f → Completes (.commandEnd m err) s fun d => d = pageHalt sec.handle f r.1)
  ∧ (let risk := (s.dev.section? (x.job.runs.getD (x.stages.headD 0))).bind (fun c => atRisk s.dev x c.pkg)
     isRunOp x.opcode = true → x.deadline ≠ 0 → x.atRisk = false → (deadlinePassed s.dev x = true ∨ risk.isSome = true) →
      (x.waitsToRun = true ∨ (x.state.started = true ∧ (x.job = .run h stage ∨ x.job = .comparing h))) →
      let noted (d : Device) : Prop := d = s.dev.setMb k { addNote 0x61 x with atRisk := true }
      let fits (f : Nat) : Prop := risk.bind (fun r => idleTag s.dev r.2.2) = some f ∧ x.progress = 0 ∧ x.update = false
        ∧ x.applying = false
      (s.dev.sched.policy = 0 → Completes (.deadlineCheck m) s noted)
      ∧ (s.dev.sched.policy = 1 → (∀ f, ¬ fits f) → Completes (.deadlineCheck m) s noted)
      ∧ (∀ f, s.dev.sched.policy = 1 → fits f → s.dev.section? h = some sec → x.job = .run h stage → x.waitsToRun = false →
          Completes (.deadlineCheck m) s fun d =>
            (d.mb k).job = .stopping h 0 (some f) ∧ (d.mb k).state = x.state ∧ (d.mb k).atRisk = true
              ∧ (d.section? f).map (·.mbx) = some (some k)
              ∧ ∀ c ∈ sec.cores, (s.dev.core c).seq.state ≠ .halted → .halt ∈ d.ctrl c)
      ∧ (∀ f, s.dev.sched.policy = 1 → fits f → x.waitsToRun = true → x.job = .none → Completes (.deadlineCheck m) s fun d =>
          d = switchFallback k f s.dev)
      ∧ (s.dev.sched.policy = 2 → deadlinePassed s.dev x = false → Completes (.deadlineCheck m) s fun d => d = s.dev)
      ∧ (s.dev.sched.policy = 2 → deadlinePassed s.dev x = true →
          (x.applying = true → Completes (.deadlineCheck m) s noted)
          ∧ (x.applying = false → x.waitsToRun = true → Completes (.deadlineCheck m) s fun d =>
              (d.mb k).state = .failed ∧ (d.mb k).error = 0x61 ∧ d.sched.missed = satAdd s.dev.sched.missed 1)
          ∧ (x.applying = false → x.waitsToRun = false → Completes (.deadlineCheck m) s fun d =>
              d = stopCommand k 0x61 none s.dev)))
  ∧ (∀ code to_, x.job = .stopping h code to_ → s.dev.section? h = some sec → stopDone s.dev sec to_ = true →
      let r := stopRun h s.dev
      x.state.live = true → (r.1.mb k).state.live = true → (s.dev.set.handle = h → s.dev.set.state ≠ 3) →
      (∀ f, r.2 = some f → Completes (.commandEnd m err) s fun d => (d.mb k).state = .failed ∧ (d.mb k).error = f.1)
      ∧ (r.2 = none → to_ = none → Completes (.commandEnd m err) s fun d => (d.mb k).state = .failed ∧ (d.mb k).error = code)
      ∧ (∀ f, r.2 = none → to_ = some f → ((releaseStages k r.1).section? f).any (fun t => t.state = .idle) = true →
          Completes (.commandEnd m err) s fun d =>
            d = settleJobs (switchFallback k f (releaseStages k r.1)) ∧ (d.mb k).fallback = true ∧ (d.mb k).job = .run f 0
              ∧ (d.section? f).map (fun t => (t.state, t.mbx)) = some (.running, some k)
              ∧ d.sched.fallbacks = satAdd r.1.sched.fallbacks 1))

/-- R222, R360 to R367, R372, R373, R429, Tables 11.4 and 11.8: PREEMPT of an idle section saves it at once and of a running one
sends its cores the suspend message; a pre-empting section whose cores have stopped and are quiescent is saved, its
cores are free and its command is PREEMPTED; a core that has not been quiescent for 2,000,000 steps abandons the
pre-emption, and its section goes on; RESUME and the retry bring a saved section back where a placement fits: its units, cores,
tallies and spill regions hold what the save holds, and its command runs again; a core that the host takes offline, or that has
a failed unit, is no longer available, and the section it holds stops. -/
def Obligations.PreemptionCompletes : Prop := ∀ (s : State) (m : Fin 16) (h : Nat) (sec : Section) (err : MuErr),
  let k := m.val
  let x := s.dev.mb k
  let e := taken k s.dev
  let saved (a d : Device) : Prop := (d.section? h).map (fun t => (t.state, t.save.isSome)) = some (.preempted, true)
    ∧ d.sched.done = satAdd a.sched.done 1 ∧ ∀ c ∈ sec.cores, (d.core c).section_ = none
  let settled (a : Device) : Device := flushStores sec.cores (settleTokens sec (settleSync sec a))
  let clean : Prop := ∀ r ∈ err, r.2.2 ≠ .uncorrected
  (x.arg 0 4 = h → s.dev.section? h = some sec →
    (Rung s.dev k 0x15 → checkPreempt s.dev x = 0 → regionPending s.dev h = false →
      (∀ j, j < 16 → j ≠ k → ¬((s.dev.mb j).opcode = 0x18 ∧ (s.dev.mb j).state = .accepted ∧ (s.dev.mb j).rung = false
        ∧ (s.dev.mb j).arg 0 4 = h)) →
      (sec.state = .idle → (settled e).section? h = some sec → recordsPoison (settled e) sec = none → clean →
          Completes (.preempt m err) s fun d =>
        (d.mb k).state = .done ∧ saved e d)
      ∧ (sec.state = .running → sec.cores.Nodup → applyBegun s.dev sec = false → Completes (.preempt m err) s fun d =>
          (d.mb k).state = .running ∧ (d.mb k).job = .preempting h ∧ (d.section? h).map (·.state) = some .preempting
            ∧ ∀ c ∈ sec.cores, d.ctrl c = s.dev.ctrl c ++ [.suspend] ∧ (d.core c).quiesce = 0)
      ∧ (sec.state = .running → sec.cores.Nodup → applyBegun s.dev sec = true → Completes (.preempt m err) s fun d =>
          (d.mb k).state = .running ∧ (d.mb k).job = .preempting h ∧ (d.section? h).map (·.state) = some .preempting
            ∧ ∀ c ∈ sec.cores, d.ctrl c = s.dev.ctrl c)
      ∧ (sec.state = .preempting → Completes (.preempt m err) s fun d =>
          (d.mb k).state = .running ∧ (d.mb k).job = .preempting h ∧ d.sections = s.dev.sections)
      ∧ (sec.state = .preempted → Completes (.preempt m err) s fun d => d = endDone k e))
    ∧ (∀ a, placeTurn a k = true → (Rung s.dev k 0x16 ∧ checkResume s.dev x = 0 ∧ a = e)
          ∨ (serviceOn s.dev = true ∧ x.opcode = 0x16 ∧ x.between = true ∧ a = s.dev) →
        (∀ f, Completes (.resume m true f) s (fun d => d = waitWork k (some h) 0 0 a))
        ∧ (sec.state ≠ .preempted → ∀ f, Completes (.resume m false f) s fun d => d = endDone k a)
        ∧ (∀ r, sec.state = .preempted → resumeSection h a = .ok r →
            Completes (.resume m false) s (fun d => d = endDone k (replyReport k a r.2 (0, 0, 0) false r.1))
            ∧ Completes (.resume m false .corrected) s (fun d => d = endDone k (replyReport k a r.2 (0, 0, 0) false
                { r.1 with tiers := { r.1.tiers with ftCorr := satAdd r.1.tiers.ftCorr 1 } }))
            ∧ Completes (.resume m false .transient) s (fun d => d = endDone k (replyReport k a r.2 (0, 0, 0) false
                { r.1 with tiers := { r.1.tiers with ftTransient := satAdd r.1.tiers.ftTransient 1 } }))
            ∧ Completes (.resume m false .uncorrected) s (fun d => d = endFailed k 0x41 (restoreFound h .uncorrected r.1)
                ∧ (d.section? h).map (·.state) = some .halted))
        ∧ (∀ f g, sec.state = .preempted → resumeSection h a = .error f → Completes (.resume m false g) s fun d =>
            d = endFailed k f.1 (reportFailed k sec f false a)))
    ∧ (∀ a v r, a.section? h = some sec → sec.save = some v → resumeSection h a = .ok r → PlacedWell r.2 →
        (∀ c ∈ r.2.cores, a.ctrl c = []) →
        r.2.handle = sec.handle ∧ r.2.save = none ∧ r.1.section? h = some r.2
          ∧ r.2.state = (if (runsNow a sec).isSome then .running else .idle)
          ∧ UnitsRestored r.2 v r.1 ∧ CoresRestored r.2 v r.1
          ∧ ((v.sems.map (·.1)).Nodup → (∀ q ∈ v.sems, q.1 / 1024 < r.2.cores.length) → TalliesRestored r.2 v r.1)
          ∧ ((r.2.spills.map (fun g => (g.mu, g.desc))).Nodup → SpillsRestored r.2 v r.1)
          ∧ ∀ j, runsNow a sec = some j → (a.mb j).state = .preempted →
              (r.1.mb j).state = if (a.mb j).progress = 0 then .running else .partial_))
  ∧ (∀ c, c = x.arg 0 1 → c ≤ 15 → x.arg 1 7 = 0 →
      (Rung s.dev k 0x41 → coreSection s.dev c = none → Completes (.coreOffline m err) s fun d =>
        (d.mb k).state = .done ∧ d.sched.offline = setBit s.dev.sched.offline c true
          ∧ d.sched.hostOffline = setBit s.dev.sched.hostOffline c true)
      ∧ (Rung s.dev k 0x41 → coreSection s.dev c = some sec → sec.state = .running →
          hasCover sec = false → regionJob s.dev sec.handle = none → (∀ j, sec.mbx = some j → (e.mb j).applying = false) →
          Completes (.coreOffline m err) s fun d =>
            (d.mb k).state = .running ∧ (d.mb k).job = .offline c
              ∧ (d.section? sec.handle).map (fun t => (t.state, t.lostCores, t.autoResume))
                  = some (.preempting, if c ∈ sec.lostCores then sec.lostCores else sec.lostCores ++ [c], true))
      ∧ (Rung s.dev k 0x42 → Completes (.coreOnline m) s fun d =>
          (d.mb k).state = .done ∧ d.sched.hostOffline = setBit s.dev.sched.hostOffline c false
            ∧ d.sched.offline = setBit s.dev.sched.offline c (s.dev.power.quadrantOff.getLsbD (c / 4))))
  ∧ (∀ (handle : BitVec 32), handle.toNat = h → s.dev.section? h = some sec → sec.state = .preempting → allStopped s.dev sec = true →
      allFinished s.dev sec = false → quiescent s.dev sec = true → (settled s.dev).section? h = some sec →
      recordsPoison (settled s.dev) sec = none → clean → Completes (.preemptionSave handle err) s fun d =>
        saved s.dev d ∧ ∀ j g, sec.mbx = some j → ((settled s.dev).mb j).state.started = true →
          ((settled s.dev).mb j).job = .run h g → (d.mb j).state = .preempted)
  ∧ (∀ c : Fin 16, coreSection s.dev c.val = some sec → sec.state = .preempting →
      2000000 ≤ (s.dev.core c.val).quiesce → Completes (.quiescenceLimit c) s fun d =>
        (d.section? sec.handle).map (fun t => (t.state, t.lostCores)) = some (.running, [])
          ∧ d.sched.abandoned = satAdd s.dev.sched.abandoned 1
          ∧ ∀ q ∈ sec.cores, .suspend ∉ d.ctrl q
            ∧ ((∀ g ∈ s.dev.ctrl q, g = .suspend) → (d.core q).seq.state = (continueSeq (s.dev.core q).seq).state))
  ∧ (∀ rest, meridianRuns s.dev = true → s.dev.sections.filter (autoResumes s.dev) = sec :: rest →
      (∀ r, resumeSection sec.handle s.dev = .ok r → Completes .autoResumeRetry s fun d => d = r.1)
      ∧ (∀ f, resumeSection sec.handle s.dev = .error f → Completes .autoResumeRetry s fun d =>
          d = resumeFirst .clean rest (logUnplaced sec f s.dev)))
  ∧ (∀ u : UnitRef, coreSection s.dev u.core.val = none → s.dev.sched.offline.getLsbD u.core.val = false →
      s.dev.sched.hostOffline.getLsbD u.core.val = false → Completes (.unitFailure u err) s fun d =>
      let a := log 0x22 (unitId u.key) 0 s.dev
      d = { a with mgmt := d.mgmt, boot := d.boot }
        ∧ d.mgmt = { a.mgmt with defects := d.mgmt.defects } ∧ d.boot = { a.boot with defects := d.boot.defects }
        ∧ (u.key ∈ d.mgmt.defects ∧ ∀ v, v ≠ u.key → (v ∈ d.mgmt.defects ↔ v ∈ s.dev.mgmt.defects))
        ∧ (u.key ∈ d.boot.defects ∧ ∀ v, v ≠ u.key → (v ∈ d.boot.defects ↔ v ∈ s.dev.boot.defects)))
  ∧ ∀ u : UnitRef, coreSection s.dev u.core.val = some sec → sec.state = .running →
      hasCover sec = false → regionJob s.dev sec.handle = none → Completes (.unitFailure u err) s fun d =>
      u.key ∈ d.mgmt.defects ∧ d.sched.offline = setBit s.dev.sched.offline u.core.val true
        ∧ (d.section? sec.handle).map (fun t => (t.state, t.autoResume)) = some (.preempting, true)
        ∧ ∃ t, d.section? sec.handle = some t ∧ u.core.val ∈ t.lostCores

/-- R290, R400, R424, R425, R452, R461, Tables 1.6 and 14.6: a LOAD from a source stages its package, in one row or after
others, begins its broadcast if it has one, and goes through the checks; a stream that cannot be staged, or whose signature does
not verify, ends FAILED and places nothing; a checked package waits until no LOAD or RESUME accepted earlier is still to be placed
(R291); a placed section is LOADING, and each of its cores has its messages; a posted LOAD waits for its broadcast.  A REGION_LOAD stages its stream in the
same way, and when its turn comes sends each core of its region CFG_BEGIN and that core's frames. -/
def Obligations.LoadCommandsComplete : Prop := ∀ (s : State) (m : Fin 16) (err : TierErr),
  let k := m.val
  let x := s.dev.mb k
  let found (src a n : Nat) (e : Device) : Device := if src = 1 then tierFound (some k) err a n e else e
  (∀ a hold,
    (Rung s.dev k 0x10 ∧ checkLoad s.dev x = 0 ∧ placeTurn (taken k s.dev) k = true ∧ CanStage s.dev k (x.arg 0x18 8)
        ∧ (∀ pk n, x.job ≠ .placing pk n) ∧ a = taken k s.dev)
      ∨ (serviceOn s.dev = true ∧ x.opcode = 0x10 ∧ x.between = true ∧ (s.dev.host.d3 = false ∨ x.arg 0 1 ≠ 0) ∧ a = s.dev) →
    (x.arg 0 1 = 2 → Completes (.load m err hold) s fun d => d = a.setMb k { a.mb k with job := .posted none [] 0 0 0 })
    ∧ (x.arg 0 1 ≠ 2 → hold = true → Completes (.load m err hold) s fun d =>
        d = waitWork k none 0 0 (if bitOf (x.arg 1 1) 1 then openLinkBlock k a else a))
    ∧ (let b := bitOf (x.arg 1 1) 1
       let n := x.arg 0x18 8
       let e := found (x.arg 0 1) (x.arg 0x10 8) n (if b then openLinkBlock k a else a)
       let staged := stageBytes e (x.arg 0 1 = 1) (x.arg 0x10 8) n
       x.arg 0 1 ≠ 2 → hold = false →
        (∀ code, staged = .error code → Completes (.load m err hold) s fun d => d = endFailed k code e)
        ∧ (∀ pk, staged = .ok pk → Completes (.load m err hold) s fun d =>
            d = settleFeeder k (loadPackage k pk n (if b then startBroadcast k (x.arg 4 4) pk n e else e)).1
              ∧ (signatureOk (packageKeys s.dev) pk n = false → b = false → s.dev.set.bcasts = [] → d = endFailed k 0x22 e))))
  ∧ (∀ pk n, x.opcode = 0x10 → x.job = .placing pk n → serviceOn s.dev = true →
      (placeTurn s.dev k = true → Completes (.load m err) s fun d => d = settleFeeder k (placeChecked k pk n s.dev)
        ∧ (hasLinks pk = true → linkBusy s.dev = true → s.dev.set.bcasts = [] → d = endFailed k 0x03 s.dev)
        ∧ (hasLinks pk = false → s.dev.set.bcasts = [] → d = placeLoad k (loadSection s.dev x pk n) (bitOf (x.arg 1 1) 1) s.dev))
      ∧ (placeTurn s.dev k = false → Completes (.load m err) s fun d => d = s.dev))
  ∧ (∀ (d1 : Device) (sec sec1 : Section) (h0 : Device), placeSection sec h0 = .ok (d1, sec1) → hasLinks sec.pkg = false →
      d1.section? sec1.handle = none → sec1.cores.Nodup → let d := placeLoad k sec false h0
      (d.mb k).job = .loading sec1.handle ∧ (d.section? sec1.handle).map (·.cores) = some sec1.cores
        ∧ d.sched.handles = sec1.handle
        ∧ ∀ l < sec1.cores.length, (d.core (sec1.phys l)).section_ = some sec1.handle ∧ (d.core (sec1.phys l)).logical = l
            ∧ d.ctrl (sec1.phys l) = loadMessages sec1 l)
  ∧ (let e := found (x.arg 4 1) (x.arg 8 8) (x.arg 0x10 8) (taken k s.dev)
     let staged := stageBytes e (x.arg 4 1 = 1) (x.arg 8 8) (x.arg 0x10 8)
     Rung s.dev k 0x18 → checkRegion s.dev x = 0 → CanStage s.dev k (x.arg 0x10 8) → regionPending s.dev (x.arg 0 4) = false →
      (∀ j, j < 16 → j ≠ k → ¬((s.dev.mb j).opcode = 0x18 ∧ (s.dev.mb j).state = .accepted ∧ (s.dev.mb j).rung = false
        ∧ (s.dev.mb j).arg 0 4 = x.arg 0 4)) →
      (∀ code, staged = .error code → Completes (.regionLoad m err) s fun d => d = endFailed k code (reply k 0 4 0xFFFFFFFF e))
      ∧ ∀ st, staged = .ok st → Completes (.regionLoad m err) s fun d =>
        d = loadRegion k (x.arg 0 4) st (x.arg 0x10 8) e
          ∧ (signatureOk (packageKeys s.dev) st (x.arg 0x10 8) = false → d = endFailed k 0x22 (reply k 0 4 0xFFFFFFFF e)))
  ∧ (∀ h st len sec, x.opcode = 0x18 → x.state = .running → serviceOn s.dev = true → x.job = .region h st len false →
      s.dev.section? h = some sec → sec.state = .idle ∨ sec.state = .running →
      (∀ j < 16, j ≠ k → ∀ st' len' sent, (s.dev.mb j).job = .region h st' len' sent → sent = false ∧ x.order < (s.dev.mb j).order) → unitsClear s.dev (regionUnits sec st) = true →
      ((rsRegion st).map (fun r => sec.phys r.1)).Nodup → Completes (.regionLoad m err) s fun d =>
        (d.mb k).job = .region h st len true ∧ ∀ r ∈ rsRegion st, ∃ mask frames,
          d.ctrl (sec.phys r.1) = s.dev.ctrl (sec.phys r.1) ++ .cfgBegin 2 0 mask :: frames
            ∧ frames.length = ((List.range (rsFrames st)).filter (fun f => bitsOf (frAddr (rsFrame st f)) 28 4 = r.1)).length)

/-- R76, R92, R448, R449, R455, R456, R461, R462, Tables 14.4 and 14.6: a core sequencer acts on its oldest configuration
message at an entry boundary.  CFG_BEGIN opens a stream over the units it names: MODE 0 empties their contexts, MODE 1
holds a lane, MODE 2 fences the region.  A sound CFG_FRAME writes its part of its context, or is staged in MODE 2; an unsound one is
counted, and halts the section with 0x20, or in MODE 2 aborts the region load.  CFG_COMMIT starts the contexts anew and ends the stream, CFG_ABORT ends it.  A core of a region that is ready says so,
and once every core has, each gets CFG_COMMIT; a region not ready in time is given up with 0x03. -/
def Obligations.ConfigurationCompletes : Prop := ∀ (s : State) (c : Fin 16),
  let x := s.dev.core c.val
  let g := x.cfg
  let popped (d : Device) : Prop := d.ctrl c.val = (s.dev.ctrl c.val).tail
  (∀ mode ctx units, ctrlNow s.dev c.val = some (.cfgBegin mode ctx units) → Completes (.cfgBegin c) s fun d =>
    (d.core c.val).cfg = { open_ := true, mode := mode, ctx := ctx, units := units } ∧ popped d ∧ d.host = s.dev.host
      ∧ (∀ u, u ∉ maskUnits c.val units → d.unit u = s.dev.unit u)
      ∧ ∀ u ∈ maskUnits c.val units,
          (mode = 0 → d.unit u = emptyContexts (s.dev.unit u))
          ∧ (mode = 1 → d.unit u = { s.dev.unit u with held := (s.dev.unit u).held ||| 2 ^ ctx })
          ∧ (mode = 2 → coreSection s.dev c.val = none →
              d.unit u = { s.dev.unit u with fenced := borderMask (maskUnits c.val units) u }))
  ∧ (∀ image f, ctrlNow s.dev c.val = some (.cfgFrame image f) → g.open_ = true →
      (frameOk 1 f = true → g.mode = 2 → g.frames < 160 → Completes (.cfgFrame c) s fun d =>
        popped d ∧ (d.core c.val).cfg = { g with frames := g.frames + 1, staged := g.staged ++ [(image, f)] } ∧ d.units = s.dev.units)
      ∧ (frameOk 1 f = true → g.mode ≠ 2 → bitsOf (frAddr f) 24 4 < 10 → Completes (.cfgFrame c) s fun d =>
          let minor := bitsOf (frAddr f) 16 5
          let u := 80 * c.val + 10 * (minor / 4) + bitsOf (frAddr f) 24 4
          let ctx := bitsOf (frAddr f) 22 2
          let old := Tab.getD (s.dev.unit u).ctxs ctx {}
          popped d ∧ (d.core c.val).fab.cfgFrames = satNat 48 x.fab.cfgFrames 1 ∧ (∀ v, v ≠ u → d.unit v = s.dev.unit v)
            ∧ d.unit u = (s.dev.unit u).setCtx ctx
                { setPart (minor % 4) (Ram.slice f 0x10 4096) old with image := if image.isSome then image else old.image })
      ∧ (frameOk 1 f = false → coreSection s.dev c.val = none → Completes (.cfgFrame c) s fun d =>
          popped d ∧ (d.core c.val).fab.cfgFrameFail = satNat 32 x.fab.cfgFrameFail 1 ∧ d.units = s.dev.units)
      ∧ (∀ sec, frameOk 1 f = false → coreSection s.dev c.val = some sec →
          (g.mode ≠ 2 → Completes (.cfgFrame c) s fun d => (d.section? sec.handle).map (·.state) = some .halted)
          ∧ (∀ m st, g.mode = 2 → sec.before = none → regionJob s.dev sec.handle = some (m, st) → Completes (.cfgFrame c) s fun d =>
              (d.mb m).state = .failed ∧ (d.mb m).error = 0x20 ∧ d.units = s.dev.units
                ∧ (d.core c.val).fab.cfgFrameFail = satNat 32 x.fab.cfgFrameFail 1)))
  ∧ (ctrlNow s.dev c.val = some .cfgCommit → g.open_ = true → coreSection s.dev c.val = none → Completes (.cfgCommit c) s fun d =>
      (d.core c.val).cfg = {} ∧ popped d ∧ (∀ u, u ∉ maskUnits c.val g.units → g.staged = [] → d.unit u = s.dev.unit u)
        ∧ ∀ u ∈ maskUnits c.val g.units,
            (g.mode = 0 → d.unit u = restartUnit (s.dev.unit u))
            ∧ (g.mode = 1 → Tab.getD (d.unit u).ctxs g.ctx {}
                = freshCtx (Tab.getD (s.dev.unit u).ctxs g.ctx {}).image (Tab.getD (s.dev.unit u).ctxs g.ctx {})))
  ∧ (∀ sec, ctrlNow s.dev c.val = some .cfgCommit → g.open_ = true → g.mode = 2 → g.staged = [] → coreSection s.dev c.val = some sec →
      sec.state = .running → regionJob s.dev sec.handle = none → Completes (.cfgCommit c) s fun d =>
        (d.core c.val).cfg = {} ∧ popped d
          ∧ ∀ u ∈ maskUnits c.val g.units, d.unit u = { restartUnit (s.dev.unit u) with fenced := 0 })
  ∧ (ctrlNow s.dev c.val = some .cfgAbort → g.open_ = true →
      (∀ sec j, coreSection s.dev c.val = some sec → j < 16 → (s.dev.mb j).job ≠ .aborting sec.handle) → Completes (.cfgAbort c) s fun d =>
      (d.core c.val).cfg = {} ∧ popped d ∧ ∀ u ∈ maskUnits c.val g.units,
        (g.mode = 2 → d.unit u = { s.dev.unit u with fenced := 0 }) ∧ (g.mode = 0 → d.unit u = s.dev.unit u)
          ∧ (g.mode = 1 → d.unit u = { s.dev.unit u with held := (s.dev.unit u).held - ((s.dev.unit u).held &&& 2 ^ g.ctx) }))
  ∧ (∀ sec, ctrlNow s.dev c.val = some .cfgAbort → coreSection s.dev c.val = some sec → .cfgAbort ∉ (s.dev.ctrl c.val).tail →
      (∀ q ∈ sec.cores, q ≠ c.val → .cfgAbort ∉ s.dev.ctrl q) → ∀ m : Fin 16, (s.dev.mb m.val).job = .aborting sec.handle →
      (∀ j, j < 16 → (s.dev.mb j).job = .aborting sec.handle → j = m.val) → Completes (.cfgAbort c) s fun d =>
        (d.mb m.val).state = .failed ∧ d.section? sec.handle = none)
  ∧ (∀ sec m st, coreSection s.dev c.val = some sec → regionJob s.dev sec.handle = some (m, st) → g.open_ = true → g.mode = 2 →
      g.ready = 0 → (∀ q ∈ regionCores sec st, (s.dev.core q).cfg.open_ = true ∧ (s.dev.core q).cfg.mode = 2
        ∧ (s.dev.core q).cfg.frames = regionDue sec st q) →
      (regionStill s.dev sec (s.dev.mb m).force (maskUnits c.val g.units) = true → Completes (.regionReady c) s fun d =>
          let all := ∀ q ∈ regionCores sec st, q = c.val ∨ (s.dev.core q).cfg.ready = 1
          (d.core c.val).cfg = { g with ready := 1 } ∧ (∀ q, d.ctrl q
            = s.dev.ctrl q ++ if all ∧ q ∈ regionCores sec st then [.cfgCommit] else []))
      ∧ ((s.dev.mb m).force = false → sec.before = none → 2000000 ≤ x.regionWait → Completes (.regionReadyTimeout c) s fun d =>
          (d.mb m).state = .failed ∧ (d.mb m).error = 0x03 ∧ d.units = s.dev.units
            ∧ ∀ q ∈ regionCores sec st, .cfgCommit ∉ d.ctrl q))

/-- R231, R411, R468 to R472, R483, R488, R523, R543 to R547, Tables 13.1, 14.9, 18.4 and 18.6: a power-on at an input that meets the
start threshold gives every register its power-up value, latches the straps, trains the link within the strapped generation and
width, keeps the store, the fuses and the meter, and counts; an input outside the range starts nothing.  A boot attempt takes the next
region of its plan, and runs its image, or discards what it copied and records the code with which it failed; after 1 s a retry
does the same for the slot that was active at power-on; once an image is chosen the rails come up and the far tier is as its training
found it; once the firmware runs, the mailbox service is ready, and MOD_READY is high, as it is not before. -/
def Obligations.PowerOnCompletes : Prop := ∀ (s : State),
  let b := s.dev.boot
  let g := s.dev.mgmt
  let o := s.dev.power
  let z := Device.reset
  (∀ straps fallback removed (gen : Fin 8) (width : Fin 17) (mv : BitVec 32), b.powered = false ∨ o.tripped = true →
    (50000 ≤ mv.toNat → mv.toNat ≤ 61000 → Completes (.powerOn straps fallback removed gen width mv) s fun d =>
      let e := { z with
        host := trainLink gen.val width.val { z.host with straps := straps, mem := s.dev.host.mem }
        presence := { active := s.dev.presence.active, maint := s.dev.presence.maint, sealIntact := s.dev.presence.sealIntact
                      pressAt := if s.dev.presence.active then some 0 else none }
        mgmt := { store := g.store, almanacNext := g.almanacNext, rollbackFloor := g.rollbackFloor, goldenFloor := g.goldenFloor
                  recert := g.recert, attestKey := g.attestKey, roots := g.roots, imageKeys := g.imageKeys, recordA := g.recordA
                  recordB := g.recordB, powerOns := satAdd g.powerOns 1, serial := g.serial, defects := g.defects, reduced := g.reduced }
        boot := { powered := true, service := 1, recovery := decide (bitsOf straps.toNat 10 2 = 3), perstLow := b.perstLow
                  slot := activeSlot g, farFallback := fallback, farRemoved := removed }
        ports := (List.range 8).map (fun p => (p, { state := 0 }))
        meter := { s.dev.meter with bus := [], waiting := [], sharesSent := 0, noReply := 0, sharesAt := 0, polledAt := 0 } }
      d = inputRecords mv.toNat o e ∧ modReady d = false ∧ d.power.inputMv = mv
        ∧ (o.inputFail = 0 → o.inputLow = false → o.inputHigh = false → mv.toNat ≤ 59500 →
            d = { e with power := { e.power with inputMv := mv } })
        ∧ d.host.linkSpeed.toNat = min gen.val (strappedLink straps).1 ∧ d.host.linkWidth.toNat = min width.val (strappedLink straps).2)
    ∧ (mv.toNat < 50000 ∨ 61000 < mv.toNat → Completes (.powerOn straps fallback removed gen width mv) s fun d => d = s.dev))
  ∧ (∀ r bad, bootRomRuns s.dev = true → b.exhausted = false →
      let e := { s.dev with boot := { b with attempts := satAdd b.attempts 1, attemptAt := s.dev.now } }
      let fault := (imageFault e (storedImage e r) (regionFloor e r)).2
      let failed (c : BitVec 8) : Device := logRec 2 c.toNat r 0xFF 0 0 { e with boot := { e.boot with
        lastError := c, attempt := b.attempt + 1, rams := [], defects := []
        exhausted := bootSel s.dev != 2 && decide ((bootPlan s.dev).length ≤ b.attempt + 1) } }
      let outcome (d : Device) : Prop :=
        (∀ c, fault = some c → d = failed c) ∧ (fault = none → bad = true → d = failed 0x20)
          ∧ (fault = none → bad = false → d = booted r (storedImage e r) e ∧ d.boot.image = BitVec.ofNat 2 r ∧ d.boot.chosen = false
              ∧ d.boot.firmware = true ∧ d.boot.defects = g.defects ∧ d.tiers.ftFallback = b.farFallback ∧ d.tiers.ftRemoved = b.farRemoved)
      ((bootPlan s.dev)[b.attempt]? = some r → Completes (.bootAttempt bad) s outcome)
      ∧ (bootSel s.dev = 2 → 0 < b.attempt → b.attemptAt + 1000000 ≤ s.dev.now → r = b.slot → Completes (.bootRetry bad) s outcome))
  ∧ (b.powered = true → b.firmware = true → b.chosen = false → b.service = 1 → o.tripped = false → Completes .mailboxServiceReady s fun d =>
      let e := { s.dev with boot := { b with service := 2 } }
      modReady d = true ∧ d = if s.dev.meter.running then copyReading (nextReadSeq e) else e)

/-- R99, R219, R474, R483, R549 to R552, Tables 18.6 and 18.7: a function-level reset of a ready module, and the assertion of
PERST_N or WARM_RST_N, end every command, unload every section and free every page; the registers of Table 18.6 then take their
power-up values, at once, or when WARM_RST_N, which holds the sequence before that, is released; the module is ready again once no
input is held, and after PERST_N its link has trained again.  Only a host reset also resets the MSI-X table.  A core reset, at the
points where Meridian applies it, of a core that no command holds leaves its units empty, its memories zeroed and its counters 0;
at any other time it changes nothing. -/
def Obligations.ResetsComplete : Prop := ∀ (s : State),
  let b := s.dev.boot
  let ended (d : Device) : Prop :=
    (∀ m < 16, (d.mb m).state.live = false) ∧ d.sections = [] ∧ (∀ p, d.res p = resFree) ∧ d.tiers.frames = []
  let values (d : Device) : Prop :=
    (∀ m, d.mb m = {}) ∧ d.host.ingest = []
      ∧ d.host.irqCause = 0 ∧ d.host.bar2Base = 0 ∧ d.host.bar2Reads = 0 ∧ d.host.bar2Writes = 0
      ∧ migCfg d.tiers = 0x003C100004000010 ∧ trainCfg d.training = 0 ∧ schedCfg d.sched = 4 ∧ d.sched.hostOffline = 0
  let fresh (d : Device) : Prop :=
    d.host.msixTable = Device.reset.host.msixTable ∧ d.host.msixPending = 0 ∧ d.host.memEnabled = false ∧ d.host.d3 = false
  (b.powered = true → b.perstLow = false → b.resetting = false → b.service = 2 → b.warmLow = false →
    Completes .functionLevelReset s (fun d => ended d ∧ values d ∧ fresh d
      ∧ d.boot = { b with flrCount := satAdd b.flrCount 1, last := 2, valuesDone := false, defaults := false })
    ∧ Completes .perstN s (fun d => ended d ∧ values d ∧ fresh d
        ∧ d.boot = { b with perstCount := satAdd b.perstCount 1, last := 1, perstLow := true, resetting := true, service := 0
                            valuesDone := true, defaults := false })
    ∧ (b.defaults = false → Completes .warmRstN s fun d =>
        ended d ∧ d.host.msixTable = s.dev.host.msixTable
          ∧ d.boot = { b with warmCount := satAdd b.warmCount 1, last := 3, warmLow := true, resetting := true, service := 0
                              valuesDone := false }))
  ∧ (∀ gen width, b.powered = true → b.resetting = true →
      (b.warmLow = true → b.valuesDone = false → Completes (.resetInputRelease true gen width) s fun d =>
        values d ∧ (b.defaults = true → fresh d) ∧ (b.defaults = false → d.host.msixTable = s.dev.host.msixTable)
          ∧ d.sections = s.dev.sections ∧ d.presence = (startPress s.dev).presence
          ∧ d.boot = if b.perstLow then { b with warmLow := false, valuesDone := true, defaults := false }
              else { b with warmLow := false, resetting := false, service := 2, valuesDone := false, defaults := false })
      ∧ (b.perstLow = true → b.warmLow = false → b.valuesDone = true → Completes (.resetInputRelease false gen width) s fun d =>
          d = { s.dev with host := trainLink gen.val width.val s.dev.host
                           boot := { b with perstLow := false, resetting := false, valuesDone := false, service := 2 } })
      ∧ (b.perstLow = true → b.warmLow = true → Completes (.resetInputRelease false gen width) s fun d =>
          d = { s.dev with host := trainLink gen.val width.val s.dev.host, boot := { b with perstLow := false } })
      ∧ ∀ warm, (if warm then b.warmLow else b.perstLow) = false → Completes (.resetInputRelease warm gen width) s fun d => d = s.dev)
  ∧ ∀ c : Fin 16,
      (coreSection s.dev c.val = none → corePowered s.dev c.val = true → b.resetting = true ∨ s.dev.sched.offline.getLsbD c.val = true →
          Completes (.coreReset c) s fun d =>
        d.core c.val = { section_ := (s.dev.core c.val).section_, logical := (s.dev.core c.val).logical, tc := (s.dev.core c.val).tc }
          ∧ ∀ u, u / 80 = c.val → d.unit u = { epoch := (s.dev.unit u).epoch + 1, mu := { initLeft := if isCu u then 0 else 8192 } })
      ∧ (b.resetting = false → s.dev.sched.offline.getLsbD c.val = false → Completes (.coreReset c) s fun d => d = s.dev)
      ∧ (∀ sec m, b.resetting = false → coreSection s.dev c.val = some sec → liveMbx s.dev sec = some m →
          Completes (.coreReset c) s fun d => d = s.dev)

/-- R478, R523, R524, R534, R535, R537: a shutdown, a fault of a shared rail, a thermal trip and an expiry of Meridian's
watchdog end every command that is not final FAILED, with POWER, POWER, THERMAL and INTERNAL, and set IRQ_CAUSE.FATAL; the
first three lose the memories, the first two the supply, and the input's exit from a band is recorded with the shutdown.  A fault of a quadrant's rail turns that quadrant off. -/
def Obligations.PowerLossCompletes : Prop := ∀ (s : State),
  let failed (code : BitVec 8) (d : Device) : Prop := (∀ m < 16, (s.dev.mb m).state.live = true →
      (d.mb m).state = .failed ∧ (d.mb m).error = code) ∧ d.host.irqCause.getLsbD 0 = true
  let lost (d : Device) : Prop := d.tiers.near = [] ∧ d.tiers.far = [] ∧ (∀ p, d.res p = resFree) ∧ d.units = [] ∧ d.sections = []
  let down (d : Device) : Prop := failed 0x71 d ∧ lost d ∧ d.boot.powered = false ∧ d.boot.firmware = false
  (∀ high (mv : BitVec 32), s.dev.boot.powered = true → (high = true ∧ 61000 < mv.toNat) ∨ (high = false ∧ mv.toNat < 47000) →
    Completes (.shutdown high mv) s fun d =>
      let e := if s.dev.power.inputLow then log 0x64 1 mv.toNat s.dev else s.dev
      let e := if s.dev.power.inputHigh && !high then log 0x64 2 mv.toNat e else e
      let row := if high then 4 else 3
      down d ∧ d.power.inputMv = mv ∧ d.power.inputFail = row ∧ d.mgmt = (log 0x64 (row + 0x100) mv.toNat e).mgmt)
  ∧ (∀ (rail : Fin 14) (status : BitVec 16) outOfRange, s.dev.boot.powered = true → s.dev.boot.firmware = true →
      (8 ≤ rail.val → Completes (.regulatorFault rail status outOfRange) s fun d =>
        down d ∧ d.mgmt = (log 0x65 rail.val (status.toNat + (bit01 outOfRange <<< 16)) s.dev).mgmt)
      ∧ (rail.val < 8 → s.dev.power.tripped = false → s.dev.power.quadrantOff.getLsbD (rail.val % 4) = false →
          (∀ j < 16, ∀ c, (s.dev.mb j).job ≠ .offline c) →
          Completes (.regulatorFault rail status outOfRange) s fun d =>
            d.power.quadrantOff = setBit s.dev.power.quadrantOff (rail.val % 4) true
              ∧ (∀ c, c / 4 = rail.val % 4 → d.sched.offline.getLsbD c = true ∧ d.core c = {} ∧ ∀ u, u / 80 = c → d.unit u = {})
              ∧ ∀ sec ∈ d.sections, sec.state = .preempted ∨ ∀ c ∈ sec.cores, c / 4 ≠ rail.val % 4))
  ∧ (∀ (source : Fin 6) (temp : BitVec 16), s.dev.boot.powered = true → s.dev.power.tripped = false → meridianRuns s.dev = true →
      (if source.val = 5 then 1760 else 1840) ≤ temp.toInt → Completes (.thermalTrip source temp) s fun d =>
        failed 0x70 d ∧ lost d ∧ d.host.irqCause.getLsbD 1 = true ∧ d.power.tripped = true ∧ d.power.tripTemp = temp
          ∧ d.power.tripSource = BitVec.ofNat 4 source.val ∧ d.boot = s.dev.boot)
  ∧ (meridianRuns s.dev = true → Completes .meridianWatchdogExpiry s fun d =>
      failed 0x7F d ∧ d.sections = [] ∧ d.mgmt.restarts = satAdd s.dev.mgmt.restarts 1 ∧ d.boot = s.dev.boot)

/-- R87, R139, R218, R219, R261, R363, R407, R443, R462 and R530, Tables 4.10 and 7.8: a reference step of a powered core
advances its watchdog, its quiescence count and its region wait where they are armed; each unit zeroes one more word of
its memory, or writes one word back where nothing wants the bank array, its scrubber's wait runs, and it counts one stall step of the first cause of
Table 7.8 that holds.  The step on which the watchdog reaches 2,000,000 sets DEADLOCK and gives the first exhausted queue.
Nothing else changes; a core whose gait monitor stands still takes no step. -/
def Obligations.ReferenceStepsCount : Prop := ∀ (s : State) (c : Fin 16),
  let y := s.dev.core c.val
  let armed := y.section_.isSome && decide (0 < exhaustedCount s.dev c.val)
  let idle := min 2000000 (y.fab.idleSteps + bit01 armed)
  (monitorRuns s.dev c.val = false → Completes (.referenceStep c) s fun d => d = s.dev)
  ∧ (monitorRuns s.dev c.val = true → y.fab.idleSteps ≤ 2000000 → Completes (.referenceStep c) s fun d =>
      d = { s.dev with units := d.units, cores := d.cores, host := { s.dev.host with stallSums := d.host.stallSums } }
      ∧ (∀ k, k ≠ c.val → d.core k = s.dev.core k)
      ∧ d.core c.val = { y with
          fab := { y.fab with idleSteps := idle, deadlock := (d.core c.val).fab.deadlock, deadlockQueue := (d.core c.val).fab.deadlockQueue }
          quiesce := y.quiesce + bit01 (quiesceCounts s.dev c.val)
          regionWait := y.regionWait + bit01 (y.cfg.ready = 0 && regionStaged s.dev c.val) }
      ∧ (∀ sec, coreSection s.dev c.val = some sec →
          let now := armed = true ∧ idle = 2000000 ∧ y.fab.idleSteps < 2000000
          (d.core c.val).fab.deadlock = (y.fab.deadlock || decide now)
            ∧ (d.core c.val).fab.deadlockQueue = if now then BitVec.ofNat 32 ((sectionExhausted s.dev sec).headD 0xFFFFFFFF)
                else y.fab.deadlockQueue)
      ∧ (∀ u, u / 80 ≠ c.val → d.unit u = s.dev.unit u)
      ∧ ∀ u, u / 80 = c.val →
          let x := s.dev.unit u
          let z := d.unit u
          let m := x.mu
          let back := if x.mu.initLeft = 0 ∧ x.moved = false ∧ arrayWanted s.dev u = false then min 1 x.mu.writeBack.length else 0
          z = { x with
              moved := false
              stalls := z.stalls
              cu := { x.cu with ftqWait := z.cu.ftqWait }
              mu := { m with initLeft := m.initLeft - 1, writeBack := m.writeBack.drop back, bankSteps := z.mu.bankSteps, scrubWait := m.scrubWait - 1 } }
          ∧ (back = 1 → z.mu.bankSteps = satNat 48 x.mu.bankSteps 1)
          ∧ (isCu u = true → sectionRuns s.dev c.val = true → ftqFull x = true → z.cu.ftqWait = satNat 48 x.cu.ftqWait 1)
          ∧ (sectionRuns s.dev c.val = true → x.mu.initLeft = 0 → x.moved = false → x.idle = false → ∀ k,
              Tab.getD z.stalls k 0 = if stallCause s.dev c.val u x = some k then satNat 48 (Tab.getD x.stalls k 0) 1
                                      else Tab.getD x.stalls k 0))

/-- R379, R380, R549, Table 12.2: a training port of a module whose firmware runs goes through Orders 2 to 4 within the time each may
take, takes its width and sends its TRAIN flit, then takes its peer, and is UP, or DOWN with its cause, also where an order, or its
peer's TRAIN flit, takes too long; 1 s after it went DOWN it trains again; a reset of an UP port trains it again with fresh
sequences, and a loss of signal takes it DOWN.  What it held is dropped and counted; no other port changes.  Where the fields lie
in a TRAIN flit's payload is the model's choice (log entry 71). -/
def Obligations.PortsTrain : Prop := ∀ (s : State) (p : Fin 8),
  let x := s.dev.port p.val
  let now := s.dev.now
  let alone (d : Device) : Prop := d = { s.dev with ports := d.ports } ∧ ∀ q, q ≠ p.val → d.port q = s.dev.port q
  let down (cause : Nat) (fail : Bool) (y : Port) : Prop := y.state = 3 ∧ y.width = 3 ∧ y.downCause = BitVec.ofNat 2 cause
    ∧ y.since = now ∧ y.downs = satAdd x.downs 1 ∧ y.trainFail = satAdd x.trainFail (bit01 fail)
    ∧ y.txq = [] ∧ y.rx = [] ∧ y.replay = [] ∧ y.nextSeq = 1 ∧ y.expect = 1
  let fw := s.dev.boot.firmware
  (∀ w ends, fw = false → Completes (.portTraining p w ends) s fun d => d = s.dev)
  ∧ (fw = true → x.state = 1 → x.trained = false →
    (∀ (w : Fin 3) (ends : Fin 3), let o := ends.val + 2
      (o < x.order → Completes (.portTraining p (some w) ends) s fun d => alone d ∧ d.port p.val = x)
      ∧ (x.order ≤ o → x.since + trainMaxUs x.order o < now → Completes (.portTraining p (some w) ends) s fun d =>
          alone d ∧ down 1 true (d.port p.val))
      ∧ (x.order ≤ o → now ≤ x.since + trainMaxUs x.order o → o < 4 → Completes (.portTraining p (some w) ends) s fun d =>
          alone d ∧ d.port p.val = { x with order := o + 1, since := now })
      ∧ (x.order ≤ o → now ≤ x.since + trainMaxUs x.order o → o = 4 → Completes (.portTraining p (some w) ends) s fun d =>
          let y := d.port p.val
          alone d ∧ y = { x with width := BitVec.ofNat 2 w.val, trained := true, order := 2, since := now
                                 lastSent := y.lastSent, lastLane := y.lastLane, txCount := x.txCount + 1
                                 creditTurn := y.creditTurn, turn := y.turn }
            ∧ ∃ g, y.lastSent = some g ∧ flitGood g true = true ∧ bitsOf g.toNat 0 2 = 3 ∧ bitsOf g.toNat 64 8 = 1
              ∧ bitsOf g.toNat 72 16 = ownNode s.dev ∧ bitsOf g.toNat 88 8 = p.val ∧ bitsOf g.toNat 96 8 = w.val
              ∧ bitsOf g.toNat 104 16 = s.dev.boot.fwMajor.toNat))
    ∧ ∀ ends, Completes (.portTraining p none ends) s fun d =>
        alone d ∧ down 1 true (d.port p.val) ∧ (d.port p.val).dropped = satAdd x.dropped (heldPackets x))
  ∧ (trainMaxUs 2 2 = 80000 ∧ trainMaxUs 3 3 = 1000 ∧ trainMaxUs 4 4 = 1000)
  ∧ (fw = true → x.state = 1 → x.trained = true → x.since + 100 < now →
      (∀ w, Completes (.portTraining p w) s fun d => alone d ∧ down 1 true (d.port p.val))
      ∧ ∀ (protocol : BitVec 8) (node : BitVec 16) (port width : BitVec 8) (fw : BitVec 16), node.toNat ≠ ownNode s.dev →
          Completes (.train p protocol node port width fw) s fun d => alone d ∧ down 1 true (d.port p.val))
  ∧ (∀ (protocol : BitVec 8) (node : BitVec 16) (port width : BitVec 8) (v : BitVec 16), fw = true → x.state = 1 → x.trained = true →
      now ≤ x.since + 100 →
      (node.toNat = ownNode s.dev → Completes (.train p protocol node port width v) s fun d =>
        d = { s.dev with ports := d.ports, mgmt := d.mgmt } ∧ down 3 true (d.port p.val)
          ∧ d.mgmt = { s.dev.mgmt with hourSelf := d.mgmt.hourSelf } ∧ p.val ∈ d.mgmt.hourSelf)
      ∧ (node.toNat ≠ ownNode s.dev → Completes (.train p protocol node port width v) s fun d =>
          alone d ∧ (d.port p.val).peerNode = node.setWidth 10 ∧ (d.port p.val).peerPort = port.setWidth 3 ∧ (d.port p.val).peerFw = v
            ∧ if protocol = 1 then (d.port p.val).state = 2 ∧ (d.port p.val).nextSeq = 1 ∧ (d.port p.val).expect = 1 ∧ (d.port p.val).width = x.width
              else down 1 true (d.port p.val)))
  ∧ (x.state = 3 → x.since + 1000000 ≤ now → Completes (.portDownRetrain p) s fun d =>
      alone d ∧ d.port p.val = { x with state := 1, trained := false, order := 2, since := now })
  ∧ (x.state = 2 → s.dev.set.usedPorts.getLsbD p.val = false → Completes (.linkReset p) s fun d =>
      alone d ∧ d.port p.val = { resetLink x with state := 1, width := 3, trained := false, order := 2, downCause := 2, since := now
                                                  downs := satAdd x.downs 1 }
        ∧ (d.port p.val).dropped = satAdd x.dropped (heldPackets x))
  ∧ (x.state = 1 ∨ x.state = 2 → s.dev.set.usedPorts.getLsbD p.val = false → Completes (.lossOfSignal p) s fun d =>
      alone d ∧ down 1 (x.state = 1) (d.port p.val) ∧ (d.port p.val).dropped = satAdd x.dropped (heldPackets x))

/-- R378, R381 to R384, Table 12.3: a DATA flit takes the next sequence number, carries ACK and CRC, and stays in the replay
buffer until it is acknowledged; the expected DATA flit is accepted, one out of order or spoiled is discarded and a NAK falls
due; a NAK, or 20 µs without an advance of ACK, replays what the buffer holds, and after sixteen replays in a row the port goes
DOWN (that the sixteenth is made is read from R384 by inference, log entry 71), and where a formed set uses it the neighbour behind
it is lost with cause link (R406).  A flit whose codewords are clean is good when
its CRC is; the codewords found corrected and uncorrectable count.  The payload of a flit of VC 3 is dropped (the model's
choice, log entry 71). -/
def Obligations.FlitsAreReplayed : Prop := ∀ (s : State) (p : Fin 8) (f : BitVec 2048) (ws : List Codeword),
  let x := s.dev.port p.val
  let now := s.dev.now
  let alone (d : Device) : Prop := d = { s.dev with ports := d.ports } ∧ ∀ q, q ≠ p.val → d.port q = s.dev.port q
  let sent (typ : Nat) (y : Port) : Prop := ∃ g, y.lastSent = some g ∧ bitsOf g.toNat 0 2 = typ
    ∧ bitsOf g.toNat 16 12 = x.nextSeq.toNat ∧ bitsOf g.toNat 28 12 = (x.expect - 1).toNat ∧ flitGood g true = true
  let replayed (x y : Port) : Prop := y.resend = x.replay ∧ y.replay = x.replay ∧ y.replays = satAdd x.replays 1 ∧ y.replayRow = x.replayRow + 1
  let r := decodeWords ws x
  let via := neighbour s.dev.set.dimsActive (ownNode s.dev) p.val
  let inUse : Prop := s.dev.set.usedPorts.getLsbD p.val = true ∧ s.dev.set.state = 2 ∧ ∀ l ∈ s.dev.set.losses, l.1 ≠ via
  let lost (d : Device) : Prop := (d.port p.val).state = 3 ∧ (d.port p.val).downCause = 2 ∧ (via, 1) ∈ d.set.losses ∧ d.set.state ≠ 2
    ∧ d.set.lostValid = 1
  let counted (y : Port) : Prop := y.rxCount = x.rxCount + 1 ∧ y.corrected = r.2.corrected ∧ y.uncorr = r.2.uncorr
  x.state = 2 →
  (∀ pool, x.resend = [] → pickPool x = some pool → x.replay.length < 1024 → Completes (.data p .send) s fun d =>
    alone d ∧ sent 1 (d.port p.val) ∧ (d.port p.val).nextSeq = x.nextSeq + 1 ∧ (d.port p.val).txData = satAdd x.txData 1
      ∧ (∃ g, (d.port p.val).replay = x.replay ++ [(x.nextSeq, g)])
      ∧ Tab.getD (d.port p.val).sentOf pool 0 = (Tab.getD x.sentOf pool 0 + 1) % 4096)
  ∧ (∀ q g rest, x.resend = (q, g) :: rest → Completes (.data p .send) s fun d =>
      alone d ∧ (d.port p.val).resend = rest ∧ (d.port p.val).replay = x.replay ∧ (d.port p.val).nextSeq = x.nextSeq
        ∧ (d.port p.val).lastSent.isSome = true)
  ∧ (x.resend = [] → pickPool x = none → Completes (.idle p .send) s fun d =>
      alone d ∧ sent 0 (d.port p.val) ∧ d.port p.val = { x with lastSent := (d.port p.val).lastSent
                                                                lastLane := (d.port p.val).lastLane
                                                                txCount := x.txCount + 1
                                                                creditTurn := (d.port p.val).creditTurn
                                                                turn := (x.turn + 1) % 8 })
  ∧ (x.nakDue = true → Completes (.nak p .send) s fun d =>
      alone d ∧ sent 2 (d.port p.val) ∧ (d.port p.val).nakDue = false ∧ (d.port p.val).naksSent = satAdd x.naksSent 1
        ∧ (d.port p.val).gap = some now)
  ∧ (∀ t, x.gap = some t → t + 20 ≤ now → Completes (.nakRepeat p) s fun d =>
      alone d ∧ sent 2 (d.port p.val) ∧ (d.port p.val).naksSent = satAdd x.naksSent 1 ∧ (d.port p.val).gap = some now)
  ∧ (x.replay ≠ [] → x.ackAt + 20 ≤ now →
      (x.replayRow < 16 → Completes (.replayTimeout p) s fun d => alone d ∧ replayed x (d.port p.val) ∧ (d.port p.val).ackAt = now)
      ∧ (16 ≤ x.replayRow → s.dev.set.usedPorts.getLsbD p.val = false → Completes (.replayTimeout p) s fun d =>
          alone d ∧ (d.port p.val).state = 3 ∧ (d.port p.val).downCause = 2 ∧ (d.port p.val).replays = x.replays)
      ∧ (16 ≤ x.replayRow → inUse → Completes (.replayTimeout p) s lost))
  ∧ (x.lanes.all (fun e => !e.2.2) = true → (∀ c ∈ ws, c = .clean) → r.1 = true ∧ r.2.corrected = x.corrected ∧ r.2.uncorr = x.uncorr)
  ∧ (flitGood f r.1 = true →
      (bitsOf f.toNat 0 2 = 1 →
        (bitsOf f.toNat 16 12 = x.expect.toNat → Completes (.data p (.receive f ws)) s fun d =>
          alone d ∧ counted (d.port p.val) ∧ (d.port p.val).expect = x.expect + 1 ∧ (d.port p.val).gap = none
            ∧ (d.port p.val).nakDue = false ∧ (bitsOf f.toNat 2 2 = 3 → (d.port p.val).rx = x.rx))
        ∧ (bitsOf f.toNat 16 12 ≠ x.expect.toNat → Completes (.data p (.receive f ws)) s fun d =>
            alone d ∧ counted (d.port p.val) ∧ (d.port p.val).expect = x.expect ∧ (d.port p.val).rx = x.rx ∧ (d.port p.val).rxPart = x.rxPart
              ∧ (x.gap = none → (d.port p.val).gap = some now ∧ (d.port p.val).nakDue = true)))
      ∧ (let y := takeCommon now f r.2
         bitsOf f.toNat 0 2 = 2 → y.replay ≠ [] →
          (y.replayRow < 16 → Completes (.nak p (.receive f ws)) s fun d => alone d ∧ counted (d.port p.val) ∧ replayed y (d.port p.val))
          ∧ (16 ≤ y.replayRow → s.dev.set.usedPorts.getLsbD p.val = false → Completes (.nak p (.receive f ws)) s fun d =>
              alone d ∧ (d.port p.val).state = 3 ∧ (d.port p.val).downCause = 2)
          ∧ (16 ≤ y.replayRow → inUse → Completes (.nak p (.receive f ws)) s lost))
      ∧ (∀ i : Nat, bitsOf f.toNat 0 2 = 0 → x.replay.findIdx? (fun e => e.1.toNat = bitsOf f.toNat 28 12) = some i →
          Completes (.idle p (.receive f ws)) s fun d =>
            alone d ∧ counted (d.port p.val) ∧ (d.port p.val).replay = x.replay.drop (i + 1) ∧ (d.port p.val).replayRow = 0 ∧ (d.port p.val).ackAt = now))
  ∧ (flitGood f r.1 = false → Completes (.data p (.receive f ws)) s fun d =>
      alone d ∧ counted (d.port p.val) ∧ (d.port p.val).expect = x.expect ∧ (d.port p.val).rx = x.rx
        ∧ (d.port p.val).crcFail = satAdd x.crcFail (bit01 (flitGood f true = false))
        ∧ (x.gap = none → (d.port p.val).gap = some now ∧ (d.port p.val).nakDue = true))

/-- R42, R389, R399, R404, Table 12.5: a packet of the current set that stands at the head of a receive pool and is for this
device leaves the pool and acts on the set's section: an open request, a grant, a refusal and credits join the messages on their way
to their core; a token enters its receiving endpoint, and a close marks a receiver or closes a sender, unless an earlier message of
their sender is still on its way, behind which they wait; a child
node's arrival joins those of the device root; a release goes to every core that takes part.  A packet of another set
or epoch leaves the pool and counts as stale. -/
def Obligations.ChannelPacketsArrive : Prop := ∀ (s : State) (p : Fin 8) (pool : Fin 6) (k : Packet) (sec : Section),
  let me := chanDest s.dev k
  let you := chanSrc k
  let slot := chanSlot k
  let c := sec.phys me.core
  let x := s.dev.ep c me.ep
  let left (d : Device) : Prop := Tab.getD (d.port p.val).rx pool.val [] = (Tab.getD (s.dev.port p.val).rx pool.val []).tail
  let joins (msg : ChMsg) (d : Device) : Prop :=
    left d ∧ Tab.getD d.sync.chan c [] = Tab.getD s.dev.sync.chan c [] ++ [msg] ∧ d = { s.dev with ports := d.ports, sync := d.sync }
  let waiting := Tab.getD s.dev.sync.chan c []
  let alone : Prop := ∀ w ∈ waiting, w.actsAtOnce = false ∧ w.sender ≠ (k.src, bitsOf k.arg 10 4)
  let behind : Prop := (∀ w ∈ waiting, w.actsAtOnce = false) ∧ ∃ w ∈ waiting, w.sender = (k.src, bitsOf k.arg 10 4)
  let kept (d : Device) : Prop := left d ∧ Tab.getD d.sync.chan c [] = waiting
  headPacket s.dev p.val pool.val = some k → k.bcast = false → k.dest = ownNode s.dev →
  (ofSet s.dev k = true → s.dev.section? s.dev.set.handle = some sec → sec.save = none →
    (k.typ = 1 → alone → x.role = 1 → x.state = .listen → Completes (.chToken p pool) s fun d =>
      kept d ∧ d.ep c me.ep = { x with
        rx := Tab.set x.rx slot (Tab.getD x.rx slot [] ++ [⟨BitVec.ofNat 4096 (k.body >>> 32), BitVec.ofNat 32 k.body⟩]) })
    ∧ (k.typ = 1 → behind → Completes (.chToken p pool) s
        (joins (.token you me slot ⟨BitVec.ofNat 4096 (k.body >>> 32), BitVec.ofNat 32 k.body⟩)))
    ∧ (k.typ = 2 → Completes (.chOpenPacket p pool) s (joins (.open_ you me slot (bitsOf k.body 0 8))))
    ∧ (k.typ = 3 → Completes (.chGrant p pool) s (joins (.grant me you slot (bitsOf k.body 0 8))))
    ∧ (k.typ = 4 → Completes (.chRefuse p pool) s (joins (.refuse me you slot)))
    ∧ (k.typ = 6 → Completes (.chCredit p pool) s (joins (.credit me you slot (bitsOf k.body 0 16))))
    ∧ (k.typ = 5 → bitsOf k.arg 23 1 = 0 → alone → x.role = 1 → x.state = .listen → Completes (.chClosePacket p pool) s fun d =>
        kept d ∧ d.ep c me.ep = { x with marked := x.marked ++ [slot] })
    ∧ (k.typ = 5 → bitsOf k.arg 23 1 = 1 → alone →
        (x.sendsTo you slot = true → Completes (.chClosePacket p pool) s fun d =>
          kept d ∧ (d.ep c me.ep).state = .closed ∧ (d.ep c me.ep).ringHeld = 0)
        ∧ (x.sendsTo you slot = false → Completes (.chClosePacket p pool) s fun d => kept d ∧ d = { s.dev with ports := d.ports, sync := d.sync }))
    ∧ (k.typ = 5 → behind → Completes (.chClosePacket p pool) s
        (joins (if bitsOf k.arg 23 1 = 0 then .close you me slot 0 else .close me you slot 1)))
    ∧ (k.typ = 0x10 → Completes (.barArrivePacket p pool) s fun d =>
        left d ∧ Tab.getD d.sync.arrivals 4 [] = Tab.getD s.dev.sync.arrivals 4 []
          ++ [⟨sec.handle, bitsOf k.arg 0 8, bitsOf k.arg 8 1, 16 + k.src, false, bitOf k.arg 9⟩])
    ∧ (k.typ = 0x11 → Completes (.barRelease p pool) s fun d => left d ∧ ∀ j ∈ barCores sec (bitsOf k.arg 0 8),
        ∃ r ∈ Tab.getD d.sync.releases j [], r.handle = sec.handle ∧ r.barrier = bitsOf k.arg 0 8 ∧ r.round = bitsOf k.arg 8 1
          ∧ r.end_ = j ∧ r.epoch = bitOf k.arg 9))
  ∧ (ofSet s.dev k = false → ∀ e ∈ [(1, Instr.chToken p pool), (2, .chOpenPacket p pool), (3, .chGrant p pool), (4, .chRefuse p pool),
        (5, .chClosePacket p pool), (6, .chCredit p pool), (0x10, .barArrivePacket p pool), (0x11, .barRelease p pool),
        (0x12, .heartbeat p pool), (0x13, .lost p pool), (0x20, .digest p pool), (0x21, .repairPage p pool)],
      k.typ = e.1 → Completes e.2 s fun d =>
        left d ∧ d = { s.dev with ports := d.ports, set := { s.dev.set with stale := satAdd s.dev.set.stale 1 } })

/-- R396, R397, Table 12.7: a matching SET_HELLO of a child is heard; once every child has been heard the member greets its parent,
and the root forms the set, with the package's base epoch; SET_READY of the parent forms it; a set that has not formed
in time is undone, and its load ends FAILED with NODE_LOST. -/
def Obligations.SetsForm : Prop := ∀ (s : State) (p : Fin 8) (pool : Fin 6) (k : Packet) (sec : Section) (m : Fin 16),
  let t := s.dev.set
  let heard := Tab.set t.heard k.src (bitsOf k.arg 0 11)
  let formedNow (d : Device) : Prop := d.set.state = 2 ∧ d.set.losses = [] ∧ d.set.lostValid = 0
    ∧ d.set.epoch = BitVec.ofNat 16 (fld sec.pkg (linkOff sec.pkg + 0x0C) 2)
    ∧ ∃ x, d.section? t.handle = some x ∧ x.state = .loading ∧ x.pkg = sec.pkg
  s.dev.section? t.handle = some sec → t.state = 1 →
  (headPacket s.dev p.val pool.val = some k → k.bcast = false → k.dest = ownNode s.dev → k.set = t.setId.toNat →
    (k.typ = 0x14 → k.src ∈ t.children → t.helloSent = false → bitsOf k.body 0 128 = pkgTag sec.pkg →
      bitsOf k.body 128 16 = s.dev.boot.fwMajor.toNat →
      ((∃ n ∈ t.children, Tab.find heard n = none) → Completes (.setHello p pool) s fun d =>
        d = { s.dev with ports := d.ports, set := { t with heard := heard } })
      ∧ ((∀ n ∈ t.children, (Tab.find heard n).isSome = true) →
          (t.parent = none → Completes (.setHello p pool) s formedNow)
          ∧ ∀ q, t.parent = some q → Completes (.setHello p pool) s fun d =>
              d.set.helloSent = true ∧ d.set.state = 1 ∧ d.set.heard = heard))
    ∧ (k.typ = 0x14 → k.src ∉ t.children → Completes (.setHello p pool) s fun d =>
        d = { s.dev with ports := d.ports, set := { t with stale := satAdd t.stale 1 } })
    ∧ (k.typ = 0x14 → k.src ∈ t.children → bitsOf k.body 0 128 ≠ pkgTag sec.pkg → Completes (.setHello p pool) s fun d =>
        d = { s.dev with ports := d.ports, set := { t with stale := satAdd t.stale 1, mismatch := true } })
    ∧ (k.typ = 0x15 → t.parent = some k.src → t.helloSent = true → Completes (.setReady p pool) s formedNow))
  ∧ (t.formAt + 1000000 * t.formTimeout.toNat ≤ s.dev.now → formingMbx s.dev = some m.val →
      (∀ b ∈ t.bcasts, ∀ f, b.feeder = some f → f.1 ≠ m.val) → Completes .formTimeout s fun d =>
        d.set.state = 0 ∧ d.section? t.handle = none ∧ (d.mb m.val).state = .failed ∧ (d.mb m.val).error = 0x52)

/-- R405 to R408, Table 12.9: a member of a formed set sends heartbeats and notes those of its tree neighbours; a neighbour
silent too long, a member named by LOST, and the neighbour behind a port that goes DOWN are lost: the first loss is
kept and the set halts; cores that have not stopped in time are sent halt, and once its cores have stopped its command ends FAILED,
with NODE_LOST where a node is lost or the apply phase has begun and else with LINK_DOWN, its section is halted and the set is
dissolved.  A set that is forming when a port goes DOWN is undone. -/
def Obligations.SetsLoseMembers : Prop := ∀ (s : State) (p : Fin 8) (pool : Fin 6) (k : Packet) (node : BitVec 10),
  let t := s.dev.set
  let now := s.dev.now
  let arrived (typ : Nat) : Prop := headPacket s.dev p.val pool.val = some k ∧ k.bcast = false ∧ k.dest = ownNode s.dev
    ∧ ofSet s.dev k = true ∧ k.typ = typ
  let lost (x cause : Nat) (d : Device) : Prop := (x, cause) ∈ d.set.losses ∧ d.set.state ≠ 2 ∧ d.set.lostValid = 1
    ∧ (t.lostValid = 0 → d.set.lostNode = BitVec.ofNat 10 x ∧ d.set.lostCause = BitVec.ofNat 1 cause)
  (t.state = 2 →
    (t.beatAt + 1000 ≤ now → meridianRuns s.dev = true → Completes .heartbeatSend s fun d => d.set.beatAt = now
      ∧ ∀ n ∈ treeNodes s.dev, ∀ q w, nextPort t.dimsActive (ownNode s.dev) n = some (q, w) → (s.dev.port q).state = 2 →
          setPacket s.dev 0x12 n t.rank.toNat 0 0 ∈ Tab.getD (d.port q).txq (bit01 w) [])
    ∧ (arrived 0x12 → k.src ∈ treeNodes s.dev → Completes (.heartbeat p pool) s fun d =>
        d = { s.dev with ports := d.ports, set := { t with beats := Tab.set t.beats k.src now } })
    ∧ (node.toNat ∈ treeNodes s.dev → Tab.getD t.beats node.toNat 0 + heartbeatLimit s.dev ≤ now → (∀ l ∈ t.losses, l.1 ≠ node.toNat) →
        Completes (.heartbeatTimeout node) s (lost node.toNat 0))
    ∧ (arrived 0x13 → bitsOf k.arg 0 10 ∈ t.nodes → (∀ l ∈ t.losses, l.1 ≠ bitsOf k.arg 0 10) →
        Completes (.lost p pool) s (lost (bitsOf k.arg 0 10) (bitsOf k.arg 10 1)))
    ∧ (arrived 0x13 → bitsOf k.arg 0 10 ∉ t.nodes → Completes (.lost p pool) s fun d =>
        d = { s.dev with ports := d.ports, set := { t with stale := satAdd t.stale 1 } })
    ∧ (arrived 0x13 → bitsOf k.arg 0 10 ∈ t.nodes → (∃ l ∈ t.losses, l.1 = bitsOf k.arg 0 10) → Completes (.lost p pool) s fun d =>
        let node0 (l : Nat × Nat) : Nat × Nat := if l.1 = bitsOf k.arg 0 10 ∧ bitsOf k.arg 10 1 = 0 then (l.1, 0) else l
        d = { s.dev with ports := d.ports, set := { t with losses := t.losses.map node0 } })
    ∧ ((s.dev.port p.val).state = 2 → t.usedPorts.getLsbD p.val = true →
        (∀ l ∈ t.losses, l.1 ≠ neighbour t.dimsActive (ownNode s.dev) p.val) →
        Completes (.lossOfSignal p) s (fun d => lost (neighbour t.dimsActive (ownNode s.dev) p.val) 0 d ∧ (d.port p.val).state = 3)
        ∧ Completes (.linkReset p) s (fun d => lost (neighbour t.dimsActive (ownNode s.dev) p.val) 1 d ∧ (d.port p.val).state = 1)))
  ∧ (∀ sec (m : Fin 16) stage err, t.state = 3 → s.dev.section? t.handle = some sec → sec.state = .running → sec.mbx = some m.val →
      (s.dev.mb m.val).state = .running → (s.dev.mb m.val).job = .run t.handle stage →
      let ended (d : Device) : Prop := d.set.state = 4 ∧ (d.mb m.val).state = .failed
        ∧ (∃ x, d.section? t.handle = some x ∧ x.state = .halted ∧ x.mbx = none)
        ∧ ((∀ c ∈ sec.cores, (s.dev.core c).storeQ = []) → recordsPoison s.dev sec = none → (d.mb m.val).error
            = if (s.dev.mb m.val).applying = true ∨ ∃ l ∈ t.losses, l.2 = 0 then 0x52 else 0x51)
      ((∀ c ∈ sec.cores, (s.dev.core c).seq.state = .finished ∨ (s.dev.core c).seq.state = .suspended
          ∨ (s.dev.core c).seq.state = .halted) →
        Completes .haltingStopLimit s ended ∧ Completes (.commandEnd m err) s ended)
      ∧ (sec.cores.Nodup → (∃ c ∈ sec.cores, 2000000 ≤ (s.dev.core c).quiesce) → goingOn s.dev sec ≠ [] →
          Completes .haltingStopLimit s fun d => d = { s.dev with quads := d.quads } ∧ ∀ c,
            d.ctrl c = s.dev.ctrl c ++ if c ∈ goingOn s.dev sec ∧ .halt ∉ s.dev.ctrl c then [.halt] else []))
  ∧ (t.state = 1 → (s.dev.port p.val).state = 2 → t.usedPorts.getLsbD p.val = true → Completes (.lossOfSignal p) s fun d =>
      d.set.state = 0 ∧ d.section? t.handle = none)

/-- R342, R344, R387, R391, R392, R400 to R402: a packet for another node goes on to its next port; a reserved type, a broadcast of a type
other than CONFIG_DATA (the model's choice, log entry 71) or an
unreachable destination is dropped and counted; DIGEST and REPAIR_PAGE packets are kept; a CONFIG_DATA packet waits
until every port of the broadcast tree takes it (that the ports take it at once: log entry 71), goes on along the tree and its
broadcast is known; a CONFIG_ACK adds its counts, and one that no broadcast waits for
is counted; the first
feeder's broadcast that has run its time ends with its counts, and with it the LOAD whose own package has ended. -/
def Obligations.PacketsGoOn : Prop := ∀ (s : State) (p : Fin 8) (pool : Fin 6) (k : Packet),
  let t := s.dev.set
  let own := ownNode s.dev
  let left (d : Device) : Prop := Tab.getD (d.port p.val).rx pool.val [] = (Tab.getD (s.dev.port p.val).rx pool.val []).tail
  let stale (d : Device) : Prop := left d ∧ d = { s.dev with ports := d.ports, set := { t with stale := satAdd t.stale 1 } }
  (headPacket s.dev p.val pool.val = some k → k.bcast = false →
    (k.dest ≠ own →
      (∀ q w, nextPort t.dimsActive own k.dest = some (q, w) → Completes (.packetForward p pool) s fun d =>
        left d ∧ d = { s.dev with ports := d.ports }
          ∧ ((s.dev.port q).state = 2 →
              let out := 2 * vcOf k.typ + forwardClass p.val q (pool.val % 2) w
              Tab.getD (d.port q).txq out [] = Tab.getD (s.dev.port q).txq out [] ++ [k])
          ∧ ((s.dev.port q).state ≠ 2 → (d.port q).dropped = satAdd (s.dev.port q).dropped 1))
      ∧ (nextPort t.dimsActive own k.dest = none → Completes (.packetForward p pool) s stale))
    ∧ (k.dest = own → knownType k.typ = false ∨ k.typ = 0x30 → Completes (.packetForward p pool) s stale)
    ∧ (k.dest = own → ofSet s.dev k = true →
        (k.typ = 0x20 → Completes (.digest p pool) s fun d =>
          left d ∧ d = { s.dev with ports := d.ports, set := { t with
            digests := t.digests ++ [(k.src, bitsOf k.arg 0 16, bitsOf k.arg 16 6, digestRecords k)] } })
        ∧ (k.typ = 0x21 → Completes (.repairPage p pool) s fun d =>
            left d ∧ d = { s.dev with ports := d.ports, set := { t with
              pieces := t.pieces ++ [(bitsOf k.arg 0 6, bitsOf k.arg 6 1, bitsOf k.body 0 32, bitsOf k.arg 7 4, bitsOf k.body 128 32768)] } }))
    ∧ (k.dest = own → k.typ = 0x31 →
        (∀ b, t.bcasts.find? (fun b => b.id = k.set && (bcastChildren s.dev b).contains k.src && !b.acked.contains k.src) = some b →
          let b' := { b with
            acked := b.acked ++ [k.src]
            ok := b.ok + bitsOf k.body 0 16
            failed := b.failed + bitsOf k.body 16 16
            unposted := b.unposted + bitsOf k.body 32 16 }
          ((∃ n ∈ bcastChildren s.dev b, n ∉ b'.acked) → Completes (.configAck p pool) s fun d =>
            left d ∧ d = { s.dev with ports := d.ports, set := { t with bcasts := t.bcasts.map (fun x => if x = b then b' else x) } })
          ∧ ((∀ n ∈ bcastChildren s.dev b, n ∈ b'.acked) → b.outcome.isSome = true ∨ b.feeder.isSome = true →
              Completes (.configAck p pool) s fun d => left d ∧ ∀ x ∈ d.set.bcasts, x ∈ t.bcasts ∧ x ≠ b))
        ∧ (t.bcasts = [] → Completes (.configAck p pool) s stale)))
  ∧ (headPacket s.dev p.val pool.val = some k → k.bcast = true → k.typ ≠ 0x30 → Completes (.packetForward p pool) s stale)
  ∧ (headPacket s.dev p.val pool.val = some k → k.bcast = true → k.typ = 0x30 →
      let dims := BitVec.ofNat 10 k.arg
      let taken := ∀ q ∈ bcastSends dims own k.dest, portTakes 4 (s.dev.port q) = true ∧ portTakes 5 (s.dev.port q) = true
      (inDims dims own = false ∨ inDims dims k.dest = false → Completes (.configData p pool) s stale)
      ∧ (inDims dims own = true → inDims dims k.dest = true → ¬ taken → Completes (.configData p pool) s fun d => d = s.dev)
      ∧ (inDims dims own = true → inDims dims k.dest = true → taken → 16 ≤ k.len → bitsOf k.body 0 64 + (k.len - 16) < bitsOf k.body 64 64 →
          Completes (.configData p pool) s fun d => left d
            ∧ (∀ q ∈ bcastSends dims own k.dest, (s.dev.port q).state = 2 →
                k ∈ Tab.getD (d.port q).txq 4 [] ∨ k ∈ Tab.getD (d.port q).txq 5 [])
            ∧ ∃ b ∈ d.set.bcasts, b.source = k.dest ∧ b.id = k.set ∧ b.feeder = none))
  ∧ ∀ (b : Broadcast) (m t0 : Nat),
      t.bcasts.find? (fun b => match b.feeder with
        | some f => decide (f.2 + 1000000 * t.bcastTimeout.toNat ≤ s.dev.now)
        | none => false) = some b →
      b.feeder = some (m, t0) → (∀ x ∈ t.bcasts, x ≠ b → ∀ f, x.feeder = some f → f.1 ≠ m) → Completes .bcastTimeout s fun d =>
        d.set = { t with bcasts := t.bcasts.filter (fun x => x != b) }
          ∧ ((s.dev.mb m).job = .feeding none → (d.mb m).state = .done)
          ∧ (∀ e, (s.dev.mb m).job = .feeding (some e) → (d.mb m).state = (if e = 3 then .refused else .failed) ∧ (d.mb m).error = e)
          ∧ let rest := boxNodes (BitVec.ofNat 10 b.dims) - 1 - b.ok - b.failed - b.unposted
            fld (d.mb m).reply 0x1FF0 8 = (b.ok + (b.failed <<< 16) + (b.unposted <<< 32) + (rest <<< 48)) % 2 ^ 64

/-- R505 to R512, R515 to R517, R520: the Sextant's interval adds the energy it registers to its total and to the shares in force; its
shares time out; it checkpoints, saves at a power failure with its open records closed as interrupted, and restores at its start,
from the save or, where that is bad, from the checkpoint without giving a number twice (log entry 100); it counts its seal, its
calibration and its pulses, and conducts for 40 ms at each; a record open in calibration mode carries it.  A Sextant that does not run does nothing, and no event of it touches the rest of the module. -/
def Obligations.SextantRuns : Prop := ∀ (s : State) (energy : Int) (mv ma : BitVec 32) (b jumper : Bool) (v : BitVec 64),
  let m := s.dev.meter
  let r := m.regs
  let only (P : Meter → Prop) (d : Device) : Prop := d = { s.dev with meter := d.meter } ∧ P d.meter
  let e := registered m energy ma.toNat
  let flagged (cal : Bool) : List JobRecord := if cal then r.open_.map (fun j => { j with calMode := true }) else r.open_
  let interrupted (j : JobRecord) (cs : List JobRecord) : Prop := ∃ c ∈ cs, c.tag = j.tag ∧ c.startMs = j.startMs ∧ c.energy = j.energy
    ∧ c.interrupted = true
  (m.running = true →
    Completes (.meterInterval energy mv ma) s (only fun x =>
      x.regs.total = satAdd r.total e.1 ∧ x.remainder = e.2 ∧ x.regs.opMs = satAdd r.opMs 1 ∧ x.nextShares = none
        ∧ x.shares = m.nextShares.getD m.shares ∧ x.regs.sealBreaks = r.sealBreaks ∧ x.regs.readSeq = r.readSeq ∧ x.calNext = none
        ∧ (∀ c, m.calNext = some c → x.calConst = c)
        ∧ (∀ tag cores j, m.nextShares = none → m.shares = [(tag, cores)] → r.open_ = [j] → j.tag = tag →
            x.regs.open_.map (·.energy) = [j.energy + e.1 * cores / 16] ∧ x.regs.idle = satAdd r.idle (e.1 - e.1 * cores / 16)))
    ∧ (energy < 0 ∨ ma.toNat < 200 → e.1 = 0)
    ∧ (10 ≤ m.shareAge → m.shareTimeout = false → r.open_.length ≤ 16 → Completes .shareTimeout s (only fun x =>
        x.shares = [] ∧ x.regs.open_ = [] ∧ x.shareTimeout = true ∧ x.regs.total = r.total
          ∧ ∀ j ∈ r.open_, ∃ c ∈ x.closed, c.tag = j.tag ∧ c.energy = j.energy ∧ c.timeout = true ∧ c.endMs = r.opMs.toNat))
    ∧ (60000 ≤ m.checkpointAge → Completes .meterCheckpoint s (only fun x => x = { m with checkpoint := r, checkpointAge := 0 }))
    ∧ (r.open_.length ≤ 16 → Completes .meterPowerFail s (only fun x => x = { m with failSave := x.failSave, running := false, bus := [] }
        ∧ ∃ y cs, x.failSave = some (y, cs) ∧ y.open_ = [] ∧ y.total = r.total ∧ y.idle = r.idle ∧ y.readSeq = r.readSeq
          ∧ ∀ j ∈ r.open_, interrupted j cs))
    ∧ (b ≠ r.sealIntact → Completes (.meterSealChange b) s (only fun x =>
        x = { m with regs := { r with
          sealIntact := b
          sealBreaks := satAdd r.sealBreaks (bit01 (!b))
          open_ := flagged (!b && m.calJumper) } }))
    ∧ (calMode m = true → Completes (.calibrationWrite v) s (only fun x =>
        x = { m with calNext := some v, regs := { r with calCount := satAdd r.calCount 1 } }))
    ∧ (calMode m = false → Completes (.calibrationWrite v) s (only fun x => x = m))
    ∧ Completes (.calibrationJumperChange b) s (only fun x =>
        x = { m with calJumper := b, regs := { r with open_ := flagged (!r.sealIntact && b) } })
    ∧ (m.pulsesEmitted < m.pulses → 80 ≤ m.pulseAge → Completes .meterPulse s (only fun x =>
        x = { m with pulsesEmitted := m.pulsesEmitted + 1, pulseAge := 0 } ∧ pulseActive x = true))
    ∧ (40 ≤ m.pulseAge → pulseActive m = false))
  ∧ (m.running = false →
      (∀ saved, m.failSave = some saved → Completes (.meterStart true b jumper) s (only fun x =>
        x.running = true ∧ x.closed = saved.2 ∧ x.checkpoint = x.regs ∧ x.regs = { saved.1 with
          starts := satAdd saved.1.starts 1
          sealIntact := b
          sealBreaks := satAdd saved.1.sealBreaks (bit01 (saved.1.sealIntact && !b)) }))
      ∧ (∀ ok, ok = false ∨ m.failSave = none → m.checkpoint.open_.length ≤ 16 → Completes (.meterStart ok b jumper) s (only fun x =>
          x.running = true ∧ x.regs.total = m.checkpoint.total ∧ x.checkpoint = x.regs
          ∧ x.regs.restoreLosses = satAdd m.checkpoint.restoreLosses 1 ∧ x.regs.starts = satAdd m.checkpoint.starts 1 ∧ x.regs.open_ = []
          ∧ x.regs.readSeq = r.readSeq ∧ r.jobNext ≤ x.regs.jobNext
          ∧ ∀ j ∈ m.checkpoint.open_, (∀ c ∈ m.closed, ¬(c.tag = j.tag ∧ c.startMs = j.startMs)) → interrupted j x.closed))
      ∧ ∀ i ∈ [Instr.meterInterval energy mv ma, .shareTimeout, .meterCheckpoint, .meterPowerFail, .meterSealChange b, .calibrationWrite v,
          .calibrationJumperChange b, .meterPulse], Completes i s fun d => d = s.dev)

/-- R513 to R519, R521, Tables 16.2 to 16.5: Meridian sends shares every 1 ms and a read request every 1 s, and counts a
request that stays unanswered for 100 ms, whose command ends FAILED with INTERNAL; the Sextant takes one frame of its
bus at a time, counts one with a bad CRC or bad shares as rejected, takes shares for the next interval, and answers a
reading or a batch with the next READ_SEQ, which ends the command that asked. -/
def Obligations.MeterBusTurns : Prop := ∀ (s : State) (m : Nat) (rest : List MeterFrame),
  let t := s.dev.meter
  let now := s.dev.now
  let refused (d : Device) : Prop := d = { s.dev with meter := { t with bus := rest, regs := { t.regs with rejected := satAdd t.regs.rejected 1 } } }
  let next := satAdd t.regs.readSeq 1
  (meridianRuns s.dev = true →
    (t.sharesAt + 1000 ≤ now → Completes .sharesSend s fun d => d = { s.dev with meter := { t with
        bus := t.bus ++ [.shares (declaredShares s.dev)]
        sharesAt := now
        sharesSent := satAdd t.sharesSent 1 } })
    ∧ (t.polledAt + 1000000 ≤ now → Completes .meterPoll s fun d => d = { s.dev with meter := { t with
        bus := t.bus ++ [.readRequest none]
        polledAt := now
        waiting := t.waiting ++ [(none, now)] } }))
  ∧ (∀ at_ more, t.waiting = (some m, at_) :: more → at_ + 100000 ≤ now → awaitsMeter s.dev m = true → Completes .meterNoReply s fun d =>
      d.meter = { t with waiting := more, noReply := satAdd t.noReply 1 } ∧ (d.mb m).state = .failed ∧ (d.mb m).error = 0x7F
        ∧ d.host.irqCause.getLsbD 0 = true ∧ d.mgmt = (logCmd 0x70 0x7F 0 m 0 s.dev).mgmt)
  ∧ (t.running = true →
      (∀ l, t.bus = .shares l :: rest →
        (sharesValid l = true → Completes (.shares true) s fun d => d = { s.dev with meter := { t with
            bus := rest
            nextShares := some (mergeShares l)
            shareAge := 0
            shareTimeout := false } })
        ∧ (sharesValid l = false → Completes (.shares true) s refused) ∧ Completes (.shares false) s refused)
      ∧ (∀ mbx, t.bus = .readRequest mbx :: rest → Completes (.readRequest false) s refused
          ∧ (mbx = none → Completes (.readRequest true) s fun d => d = { s.dev with meter := d.meter } ∧ d.meter.regs = { t.regs with readSeq := next }
              ∧ d.meter.bus = rest ∧ d.meter.copyTotal = t.regs.total ∧ d.meter.copyBreaks = t.regs.sealBreaks)
          ∧ (mbx = some m → awaitsMeter s.dev m = true → Completes (.readRequest true) s fun d =>
              d.meter.regs = { t.regs with readSeq := next } ∧ d.meter.bus = rest ∧ (d.mb m).state = .done
                ∧ fld (d.mb m).reply 16 8 = next.toNat ∧ fld (d.mb m).reply 32 8 = t.regs.total.toNat))
      ∧ (∀ first count, t.bus = .jobsRequest m first count :: rest → Completes (.jobsRequest false) s refused
          ∧ (awaitsMeter s.dev m = true → Completes (.jobsRequest true) s fun d =>
              d.meter.regs = { t.regs with readSeq := next } ∧ d.meter.bus = rest ∧ (d.mb m).state = .done
                ∧ fld (d.mb m).reply 6 2 = (batchRecords t first count).length % 2 ^ 16)))
  ∧ (t.running = false → ∀ f, t.bus = f :: rest → ∀ i ∈ (match f with
        | .readRequest _ => [Instr.readRequest true] | .jobsRequest _ _ _ => [.jobsRequest true] | .shares _ => [.shares true]),
      Completes i s fun d => d = { s.dev with meter := { t with bus := rest } })

/-! ### The whole machine -/

/-- The step runs the command at the front of the queue on the block, with the queue's rest; on an empty queue one microsecond passes
(the model's choice, log entry 3). -/
def Obligations.StepRunsTheFrontCommand : Prop := ∀ (s : State) (c : Instr) (rest : List Instr),
  (s.pending = c :: rest → step s = exec c { s with pending := rest })
  ∧ (s.pending = [] → step s = .next (s.upd idleTick) ∧ (idleTick s.dev).now = s.dev.now + 1)

/-- R14: every command whose operands are well formed completes, in every state, and leaves the queue alone; an ill-formed one is no
command.  So a well-formed queue runs to its end: no step stops, and the queue stays well formed. -/
def Obligations.CommandsNeverStop : Prop := ∀ (s : State) (i : Instr),
  (i.wf = true → Completes i s fun _ => True)
  ∧ (i.wf = false → exec i s = .fault .illFormed)
  ∧ (queueWf s = true → ∃ t, step s = .next t ∧ queueWf t = true ∧ t.pending = s.pending.tail)

/-- R446: the CRC is the CRC-32 of IEEE 802.3 in its reflected form: one byte at a time by the polynomial 0xEDB8_8320, from
0xFFFF_FFFF, with the final exclusive or; over "123456789" it gives 0xCBF4_3926; stored little-endian after its bytes it
leaves the residue of that code, and a frame whose CRC was made is sound. -/
def Obligations.ChecksAreCrc32 : Prop :=
  let bit (c : BitVec 32) : BitVec 32 := if c.getLsbD 0 then (c >>> 1) ^^^ 0xEDB88320#32 else c >>> 1
  crc32 [] = 0
  ∧ (∀ (bs : List Byte) (b : Byte), crc32 (bs ++ [b])
      = bit (bit (bit (bit (bit (bit (bit (bit ((crc32 bs ^^^ 0xFFFFFFFF#32) ^^^ b.setWidth 32)))))))) ^^^ 0xFFFFFFFF#32)
  ∧ crc32 [0x31, 0x32, 0x33, 0x34, 0x35, 0x36, 0x37, 0x38, 0x39] = 0xCBF43926#32
  ∧ (∀ bs : List Byte, crc32 (bs ++ natToBytes 4 (crc32 bs).toNat) = 0x2144DF1C#32)
  ∧ ∀ f : Memory, frameCrcOk (fixCrc f 0) = true ∧ ∀ a, a < 0x1010 ∨ 0x1014 ≤ a → Ram.read (fixCrc f 0) a = Ram.read f a

/-- R505: no command, strap, jumper or fault of the rest of the module lowers the Sextant's energy totals, its seal-break
count, its reading sequence or its calibration count; only its own start from a checkpoint sets it back. -/
def Obligations.MeterIsNeverLowered : Prop := ∀ (s t : State),
  let a := s.dev.meter.regs
  let b := t.dev.meter.regs
  (∀ saved loop jumper, s.pending.head? ≠ some (.meterStart saved loop jumper)) → step s = .next t →
    a.total ≤ b.total ∧ a.idle ≤ b.idle ∧ a.sealBreaks ≤ b.sealBreaks ∧ a.readSeq ≤ b.readSeq ∧ a.calCount ≤ b.calCount

/-- R25: the straps are latched once, at power-on, and read in BAR0; no other command changes them, nor does time. -/
def Obligations.StrapsAreLatched : Prop := ∀ (s t : State),
  ((∀ straps fallback removed gen width mv, s.pending.head? ≠ some (.powerOn straps fallback removed gen width mv)) → step s = .next t →
    t.dev.host.straps = s.dev.host.straps)
  ∧ (∀ straps fallback removed gen width (mv : BitVec 32), s.dev.boot.powered = false → 50000 ≤ mv.toNat → mv.toNat ≤ 61000 →
      Completes (.powerOn straps fallback removed gen width mv) s fun d => d.host.straps = straps)
  ∧ (barsOpen s.dev = true → Completes (.rcRead (.bar0 0x300000) 8) s fun d => d.host.lastRead = natToBytes 8 s.dev.host.straps.toNat)

/-- The memories of the module stay in canonical form at every step: equal contents are equal data. -/
def Obligations.MemoriesStayCanonical : Prop := ∀ (s t : State),
  memoriesWf s.dev = true → step s = .next t → memoriesWf t.dev = true

/-- R15, R16, R441, R553 and the register tables: after reset no command waits, the memories are canonical, every page is free, every unit and
core stands at its reset values, and the registers read as their tables say. -/
def Obligations.ResetLeavesTheTables : Prop :=
  let d := State.reset.dev
  State.reset.pending = [] ∧ memoriesWf d = true ∧ queueWf State.reset = true ∧ ResidencyWf d ∧ FramesReserved d ∧ d.sections = []
    ∧ (∀ p, d.res p = resFree) ∧ (∀ u, d.unit u = {}) ∧ (∀ c, d.core c = {})
    ∧ (∀ m : Fin 16, (d.mb m).state = .idle ∧ bar0Word d (0x10000 * m.val + 0x1000) = 0)
    ∧ bar0Word d 0x300000 = 0 ∧ bar0Word d 0x300018 = 0 ∧ bar0Word d 0x300020 = 0 ∧ bar0Word d 0x300028 = 0 ∧ bar0Word d 0x300030 = 2
    ∧ regWord d 6 0 0x20 = 0x003C100004000010 ∧ regWord d 7 0 0 = 0 ∧ regWord d 8 0 0 = 4 ∧ regWord d 9 0 0x818 = 0x012C003C000A
    ∧ regWord d 9 0 0x810 = 0x3FF ∧ regWord d 5 0 0x68 = 0x02BC02BC02BC02BC
    ∧ ∀ c : Fin 16, regWord d 0 (unitId (80 * c.val)) 0 = 0 ∧ regWord d 0 (unitId (80 * c.val)) 0x200 = 0
end

