-- ==== Sys2Proof/Laws/Memory.lean ====
section
/-!
SUPPORT. Laws/Memory.lean: tables and sparse memories: what a read finds after a write, and that every write keeps
the canonical form.
-/
namespace Sys2Proof.Machine

/-! ### Tables -/

theorem Tab.find_set {α : Type} (t : Tab α) (k j : Nat) (v : α) :
    Tab.find (Tab.set t k v) j = if j = k then some v else Tab.find t j := by
  induction t with
  | nil => simp [Tab.set, Tab.find]
  | cons e rest ih =>
    obtain ⟨i, u⟩ := e
    unfold Tab.set
    split
    · simp [Tab.find]
    · split
      · subst_vars; simp only [Tab.find]; split <;> rfl
      · simp only [Tab.find, ih]; split <;> split <;> simp_all

@[simp] theorem Tab.getD_set_same {α : Type} (t : Tab α) (k : Nat) (v d : α) : Tab.getD (Tab.set t k v) k d = v := by
  simp [Tab.getD, Tab.find_set]

theorem Tab.getD_set_ne {α : Type} (t : Tab α) {k j : Nat} (v d : α) (h : j ≠ k) :
    Tab.getD (Tab.set t k v) j d = Tab.getD t j d := by simp [Tab.getD, Tab.find_set, h]

theorem Tab.getD_set {α : Type} (t : Tab α) (k j : Nat) (v d : α) :
    Tab.getD (Tab.set t k v) j d = if j = k then v else Tab.getD t j d := by
  simp only [Tab.getD, Tab.find_set]; split <;> rfl

@[simp] theorem Tab.set_set {α : Type} (t : Tab α) (k : Nat) (a b : α) : Tab.set (Tab.set t k a) k b = Tab.set t k b := by
  induction t with
  | nil => simp [Tab.set]
  | cons e rest ih =>
    obtain ⟨i, u⟩ := e
    by_cases h1 : k < i
    · simp [Tab.set, h1]
    · by_cases h2 : k = i
      · subst h2; simp [Tab.set]
      · simp [Tab.set, h1, h2, ih]

theorem Tab.find_erase {α : Type} (t : Tab α) (k j : Nat) :
    Tab.find (Tab.erase t k) j = if j = k then none else Tab.find t j := by
  induction t with
  | nil => simp [Tab.erase, Tab.find]
  | cons e rest ih =>
    obtain ⟨i, u⟩ := e
    simp only [Tab.erase] at ih ⊢
    by_cases h : i = k
    · subst h
      simp only [List.filter_cons, bne_self_eq_false, Bool.false_eq_true, if_false, ih, Tab.find]
      split <;> rfl
    · simp only [List.filter_cons, bne_iff_ne, ne_eq, h, not_false_eq_true, if_true, Tab.find, ih]
      split <;> split <;> simp_all

/-! ### Reads of a sparse memory -/

theorem Ram.read_filter {w : Nat} (m : Ram w) (p : Nat → Bool) (a : Nat) :
    Ram.read (m.filter (fun c => p c.1)) a = if p a then Ram.read m a else 0 := by
  induction m with
  | nil => simp [Ram.read]
  | cons c rest ih =>
    obtain ⟨b, v⟩ := c
    by_cases h : p b <;> simp only [List.filter_cons, h, if_true, if_false, Bool.false_eq_true, Ram.read, ih]
    · split <;> simp_all
    · by_cases hab : a = b
      · subst hab; simp [h]
      · simp [hab]

theorem Ram.read_append {w : Nat} (m n : Ram w) (a : Nat) (h : ∀ c ∈ m, c.1 ≠ a) :
    Ram.read (m ++ n) a = Ram.read n a := by
  induction m with
  | nil => rfl
  | cons c rest ih =>
    obtain ⟨b, v⟩ := c
    have hb : a ≠ b := fun e => h (b, v) (by simp) e.symm
    simp only [List.cons_append, Ram.read, if_neg hb]
    exact ih (fun c hc => h c (by simp [hc]))

theorem Ram.read_append_left {w : Nat} (m n : Ram w) (a : Nat) (h : ∀ c ∈ n, c.1 ≠ a) :
    Ram.read (m ++ n) a = Ram.read m a := by
  induction m with
  | nil =>
    have := Ram.read_append n [] a h
    simp only [List.append_nil, Ram.read] at this
    simpa [Ram.read] using this
  | cons c rest ih => obtain ⟨b, v⟩ := c; simp only [List.cons_append, Ram.read, ih]

theorem Ram.cells_bounds {w : Nat} (n a v : Nat) : ∀ c ∈ Ram.cells w a n v, a ≤ c.1 ∧ c.1 < a + n := by
  induction n generalizing a v with
  | zero => simp [Ram.cells]
  | succ n ih =>
    intro c hc
    simp only [Ram.cells] at hc
    split at hc
    · have := ih (a + 1) _ c hc; omega
    · rcases List.mem_cons.mp hc with h | h
      · subst h; simp
      · have := ih (a + 1) _ c h; omega

theorem Ram.read_cells {w : Nat} (n a v b : Nat) :
    Ram.read (Ram.cells w a n v) b = if a ≤ b ∧ b < a + n then BitVec.ofNat w (v >>> (w * (b - a))) else 0 := by
  induction n generalizing a v with
  | zero =>
    simp only [Ram.cells, Ram.read, Nat.add_zero]
    split
    · omega
    · rfl
  | succ n ih =>
    have key : Ram.read (Ram.cells w (a + 1) n (v >>> w)) b
        = if a + 1 ≤ b ∧ b < a + 1 + n then BitVec.ofNat w (v >>> (w * (b - a))) else 0 := by
      rw [ih]
      split
      · have : b - a = (b - (a + 1)) + 1 := by omega
        rw [this, Nat.mul_add, Nat.mul_one, Nat.add_comm (w * _) w, Nat.shiftRight_add]
      · rfl
    by_cases hb : b = a
    · subst hb
      simp only [Ram.cells]
      split
      · rename_i h
        rw [key]
        simp [h]
      · simp [Ram.read]
    · have hr : Ram.read (Ram.cells w a (n + 1) v) b = Ram.read (Ram.cells w (a + 1) n (v >>> w)) b := by
        simp only [Ram.cells]
        split
        · rfl
        · simp [Ram.read, hb]
      rw [hr, key]
      rw [if_congr (show (a + 1 ≤ b ∧ b < a + 1 + n) ↔ (a ≤ b ∧ b < a + (n + 1)) by omega) rfl rfl]

/-- A read after the write of `n` cells: the cell of the number that was written, or what was there. -/
theorem Ram.read_blit {w : Nat} (m : Ram w) (a n v b : Nat) :
    Ram.read (Ram.blit m a n v) b
      = if a ≤ b ∧ b < a + n then BitVec.ofNat w (v >>> (w * (b - a))) else Ram.read m b := by
  unfold Ram.blit
  by_cases h1 : b < a
  · rw [List.append_assoc, Ram.read_append_left, Ram.read_filter m (fun x => decide (x < a))]
    · simp only [h1, decide_true, if_true]; rw [if_neg (by omega)]
    · intro c hc
      rcases List.mem_append.mp hc with h | h
      · have := Ram.cells_bounds n a v c h; omega
      · have := (List.mem_filter.mp h).2; simp only [decide_eq_true_eq] at this; omega
  · by_cases h2 : b < a + n
    · rw [List.append_assoc, Ram.read_append, Ram.read_append_left, Ram.read_cells]
      · rw [if_pos (by omega), if_pos (by omega)]
      · intro c hc
        have := (List.mem_filter.mp hc).2; simp only [decide_eq_true_eq] at this; omega
      · intro c hc
        have := (List.mem_filter.mp hc).2; simp only [decide_eq_true_eq] at this; omega
    · rw [Ram.read_append, Ram.read_filter m (fun x => decide (a + n ≤ x))]
      · rw [if_pos (by simp; omega), if_neg (by omega)]
      · intro c hc
        rcases List.mem_append.mp hc with h | h
        · have := (List.mem_filter.mp h).2; simp only [decide_eq_true_eq] at this; omega
        · have := Ram.cells_bounds n a v c h; omega

@[simp] theorem Ram.read_write_same {w : Nat} (m : Ram w) (a : Nat) (v : BitVec w) : Ram.read (Ram.write m a v) a = v := by
  simp [Ram.write, Ram.read_blit]

theorem Ram.read_write_ne {w : Nat} (m : Ram w) {a b : Nat} (v : BitVec w) (h : b ≠ a) :
    Ram.read (Ram.write m a v) b = Ram.read m b := by
  simp only [Ram.write, Ram.read_blit]; rw [if_neg (by omega)]

theorem Ram.read_write {w : Nat} (m : Ram w) (a b : Nat) (v : BitVec w) :
    Ram.read (Ram.write m a v) b = if b = a then v else Ram.read m b := by
  by_cases h : b = a
  · subst h; simp
  · simp [h, Ram.read_write_ne]

/-! ### Slices -/

/-- One cell's share of a slice. -/
def Ram.share (w a n : Nat) (c : Nat × BitVec w) : Nat :=
  if a ≤ c.1 && decide (c.1 < a + n) then c.2.toNat <<< (w * (c.1 - a)) else 0

theorem Ram.slice_foldl {w : Nat} (m : Ram w) (a n k : Nat) :
    m.foldl (fun acc c => if a ≤ c.1 && decide (c.1 < a + n) then acc + (c.2.toNat <<< (w * (c.1 - a))) else acc) k
      = k + (m.map (Ram.share w a n)).sum := by
  induction m generalizing k with
  | nil => simp
  | cons c rest ih =>
    simp only [List.foldl_cons, ih, List.map_cons, List.sum_cons, Ram.share]
    split <;> omega

theorem Ram.slice_eq_sum {w : Nat} (m : Ram w) (a n : Nat) : Ram.slice m a n = (m.map (Ram.share w a n)).sum := by
  rw [Ram.slice, Ram.slice_foldl, Nat.zero_add]

theorem Ram.slice_append {w : Nat} (m k : Ram w) (a n : Nat) :
    Ram.slice (m ++ k) a n = Ram.slice m a n + Ram.slice k a n := by simp [Ram.slice_eq_sum]

theorem Ram.slice_none {w : Nat} (m : Ram w) (a n : Nat) (h : ∀ c ∈ m, c.1 < a ∨ a + n ≤ c.1) : Ram.slice m a n = 0 := by
  rw [Ram.slice_eq_sum, List.sum_eq_zero_iff]
  intro x hx
  obtain ⟨c, hc, rfl⟩ := List.mem_map.mp hx
  have := h c hc
  simp only [Ram.share, Bool.and_eq_true, decide_eq_true_eq]
  rw [if_neg (by omega)]

theorem Ram.slice_filter {w : Nat} (m : Ram w) (a n : Nat) (p : Nat → Bool) (h : ∀ b, a ≤ b → b < a + n → p b = true) :
    Ram.slice (m.filter (fun c => p c.1)) a n = Ram.slice m a n := by
  induction m with
  | nil => rfl
  | cons c rest ih =>
    simp only [Ram.slice_eq_sum] at ih ⊢
    by_cases hp : p c.1
    · simp only [List.filter_cons, hp, if_true, List.map_cons, List.sum_cons, ih]
    · have hs : Ram.share w a n c = 0 := by
        simp only [Ram.share, Bool.and_eq_true, decide_eq_true_eq]
        rw [if_neg]
        intro hc
        exact hp (h c.1 hc.1 hc.2)
      simp only [List.filter_cons, hp, if_false, Bool.false_eq_true, List.map_cons, List.sum_cons, ih, hs, Nat.zero_add]

theorem Ram.slice_cons {w : Nat} (c : Nat × BitVec w) (m : Ram w) (a n : Nat) :
    Ram.slice (c :: m) a n = Ram.share w a n c + Ram.slice m a n := by simp [Ram.slice_eq_sum]

theorem Ram.slice_cells {w : Nat} (n a v : Nat) : Ram.slice (Ram.cells w a n v) a n = v % 2 ^ (w * n) := by
  suffices H : ∀ (n : Nat) (k a v : Nat), a ≤ k →
      Ram.slice (Ram.cells w k n v) a (k - a + n) = (v % 2 ^ (w * n)) <<< (w * (k - a)) by
    simpa using H n a a v (Nat.le_refl a)
  clear v a n
  intro n
  induction n with
  | zero => intro k a v _; simp [Ram.cells, Ram.slice_eq_sum, Nat.mod_one]
  | succ n ih =>
    intro k a v hk
    have h1 : Ram.slice (Ram.cells w (k + 1) n (v >>> w)) a (k - a + (n + 1))
        = ((v >>> w) % 2 ^ (w * n)) <<< (w * (k + 1 - a)) := by
      have := ih (k + 1) a (v >>> w) (by omega)
      rwa [show k + 1 - a + n = k - a + (n + 1) by omega] at this
    have h2 : v % 2 ^ (w * (n + 1)) = v % 2 ^ w + 2 ^ w * ((v >>> w) % 2 ^ (w * n)) := by
      rw [Nat.mul_add, Nat.mul_one, Nat.add_comm (w * n) w, Nat.pow_add, Nat.mod_mul, Nat.shiftRight_eq_div_pow]
    have h3 : w * (k + 1 - a) = w * (k - a) + w := by
      rw [show k + 1 - a = (k - a) + 1 by omega, Nat.mul_add, Nat.mul_one]
    have h4 : (v % 2 ^ (w * (n + 1))) <<< (w * (k - a))
        = (v % 2 ^ w) <<< (w * (k - a)) + ((v >>> w) % 2 ^ (w * n)) <<< (w * (k + 1 - a)) := by
      rw [h2, h3]
      simp only [Nat.shiftLeft_eq, Nat.pow_add]
      ring
    rw [h4]
    simp only [Ram.cells]
    split
    · rename_i hz
      have hz' : v % 2 ^ w = 0 := by
        have := congrArg BitVec.toNat hz
        simpa using this
      rw [h1, hz']; simp
    · rw [Ram.slice_cons, h1]
      congr 1
      simp only [Ram.share, BitVec.toNat_ofNat, Bool.and_eq_true, decide_eq_true_eq]
      rw [if_pos (by omega)]

/-- What was written is read back whole. -/
theorem Ram.slice_blit_same {w : Nat} (m : Ram w) (a n v : Nat) : Ram.slice (Ram.blit m a n v) a n = v % 2 ^ (w * n) := by
  unfold Ram.blit
  rw [Ram.slice_append, Ram.slice_append, Ram.slice_cells, Ram.slice_none, Ram.slice_none]
  · simp
  · intro c hc; have := (List.mem_filter.mp hc).2; simp only [decide_eq_true_eq] at this; omega
  · intro c hc; have := (List.mem_filter.mp hc).2; simp only [decide_eq_true_eq] at this; omega

/-- A write leaves a slice that it does not meet alone. -/
theorem Ram.slice_blit_apart {w : Nat} (m : Ram w) (a n v b k : Nat) (h : b + k ≤ a ∨ a + n ≤ b) :
    Ram.slice (Ram.blit m a n v) b k = Ram.slice m b k := by
  unfold Ram.blit
  rw [Ram.slice_append, Ram.slice_append]
  have hc : Ram.slice (Ram.cells w a n v) b k = 0 :=
    Ram.slice_none _ _ _ (fun c hc => by have := Ram.cells_bounds n a v c hc; omega)
  rcases h with h | h
  · have hr : Ram.slice (m.filter (fun c => decide (a + n ≤ c.1))) b k = 0 := by
      refine Ram.slice_none _ _ _ (fun c hx => ?_)
      have := (List.mem_filter.mp hx).2; simp only [decide_eq_true_eq] at this; omega
    rw [hc, hr, Ram.slice_filter m b k (fun x => decide (x < a)) (by intro x _ _; simp; omega)]
    simp
  · have hl : Ram.slice (m.filter (fun c => decide (c.1 < a))) b k = 0 := by
      refine Ram.slice_none _ _ _ (fun c hx => ?_)
      have := (List.mem_filter.mp hx).2; simp only [decide_eq_true_eq] at this; omega
    rw [hc, hl, Ram.slice_filter m b k (fun x => decide (a + n ≤ x)) (by intro x _ _; simp; omega)]
    simp

/-! ### The canonical form -/

/-- The canonical form in words: no listed cell is 0 and the addresses rise. -/
def Ram.Canon {w : Nat} (m : Ram w) : Prop := (∀ c ∈ m, c.2 ≠ 0) ∧ m.Pairwise (fun a b => a.1 < b.1)

theorem Ram.wf_iff {w : Nat} (m : Ram w) : Ram.wf m = true ↔ Ram.Canon m := by
  induction m with
  | nil => simp [Ram.wf, Ram.Canon]
  | cons c rest ih =>
    obtain ⟨a, v⟩ := c
    match rest, ih with
    | [], _ => simp [Ram.wf, Ram.Canon]
    | (b, u) :: tail, ih =>
      simp only [Ram.wf, Bool.and_eq_true, bne_iff_ne, decide_eq_true_eq, ih, Ram.Canon]
      constructor
      · rintro ⟨⟨hv, hab⟩, hn, hp⟩
        refine ⟨?_, List.pairwise_cons.mpr ⟨?_, hp⟩⟩
        · intro c hc
          rcases List.mem_cons.mp hc with rfl | h
          · exact hv
          · exact hn c h
        · intro c hc
          rcases List.mem_cons.mp hc with rfl | h
          · exact hab
          · exact Nat.lt_trans hab (List.rel_of_pairwise_cons hp h)
      · rintro ⟨hn, hp⟩
        have hp' := List.pairwise_cons.mp hp
        exact ⟨⟨hn (a, v) (by simp), hp'.1 (b, u) (by simp)⟩, fun c hc => hn c (by simp [hc]), hp'.2⟩

theorem Ram.canon_cells {w : Nat} (n a v : Nat) : Ram.Canon (Ram.cells w a n v) := by
  induction n generalizing a v with
  | zero => simp [Ram.cells, Ram.Canon]
  | succ n ih =>
    obtain ⟨h1, h2⟩ := ih (a + 1) (v >>> w)
    simp only [Ram.cells]
    split
    · exact ⟨h1, h2⟩
    · rename_i hz
      refine ⟨?_, List.pairwise_cons.mpr ⟨?_, h2⟩⟩
      · intro c hc
        rcases List.mem_cons.mp hc with rfl | h
        · exact hz
        · exact h1 c h
      · intro c hc
        have := Ram.cells_bounds n (a + 1) _ c hc
        show a < c.1
        omega

theorem Ram.canon_filter {w : Nat} {m : Ram w} (h : Ram.Canon m) (p : Nat × BitVec w → Bool) : Ram.Canon (m.filter p) :=
  ⟨fun c hc => h.1 c (List.mem_filter.mp hc).1, h.2.filter p⟩

/-- Every write keeps the canonical form. -/
theorem Ram.wf_blit {w : Nat} {m : Ram w} (h : Ram.wf m = true) (a n v : Nat) : Ram.wf (Ram.blit m a n v) = true := by
  rw [Ram.wf_iff] at h ⊢
  have hl := Ram.canon_filter h (fun c => decide (c.1 < a))
  have hr := Ram.canon_filter h (fun c => decide (a + n ≤ c.1))
  have hc := Ram.canon_cells (w := w) n a v
  unfold Ram.blit
  refine ⟨?_, ?_⟩
  · intro c hm
    rcases List.mem_append.mp hm with hm | hm
    · rcases List.mem_append.mp hm with hm | hm
      · exact hl.1 c hm
      · exact hc.1 c hm
    · exact hr.1 c hm
  · rw [List.pairwise_append, List.pairwise_append]
    refine ⟨⟨hl.2, hc.2, ?_⟩, hr.2, ?_⟩
    · intro x hx y hy
      have h1 := (List.mem_filter.mp hx).2
      have h2 := Ram.cells_bounds n a v y hy
      simp only [decide_eq_true_eq] at h1
      omega
    · intro x hx y hy
      have h2 := (List.mem_filter.mp hy).2
      simp only [decide_eq_true_eq] at h2
      rcases List.mem_append.mp hx with hx | hx
      · have h1 := (List.mem_filter.mp hx).2
        simp only [decide_eq_true_eq] at h1
        omega
      · have h1 := Ram.cells_bounds n a v x hx
        omega

theorem Ram.wf_write {w : Nat} {m : Ram w} (h : Ram.wf m = true) (a : Nat) (v : BitVec w) : Ram.wf (Ram.write m a v) = true :=
  Ram.wf_blit h a 1 _

theorem Ram.wf_filter {w : Nat} {m : Ram w} (h : Ram.wf m = true) (p : Nat × BitVec w → Bool) : Ram.wf (m.filter p) = true := by
  rw [Ram.wf_iff] at h ⊢; exact Ram.canon_filter h p

/-- Clearing keeps the canonical form. -/
theorem Ram.wf_clear {w : Nat} {m : Ram w} (h : Ram.wf m = true) (a n : Nat) : Ram.wf (Ram.clear m a n) = true :=
  Ram.wf_filter h _

/-- Cleared cells read 0 and the others as before. -/
theorem Ram.read_clear {w : Nat} (m : Ram w) (a n b : Nat) :
    Ram.read (Ram.clear m a n) b = if b < a ∨ a + n ≤ b then Ram.read m b else 0 := by
  rw [Ram.clear, Ram.read_filter m (fun c => decide (c < a) || decide (a + n ≤ c))]
  simp only [Bool.or_eq_true, decide_eq_true_eq]

theorem Ram.wf_nil {w : Nat} : Ram.wf ([] : Ram w) = true := rfl

theorem Ram.wf_cells {w : Nat} (a n v : Nat) : Ram.wf (Ram.cells w a n v) = true := (Ram.wf_iff _).mpr (Ram.canon_cells n a v)

/-- Two canonical memories that read the same everywhere are the same. -/
theorem Ram.ext_of_wf {w : Nat} {m k : Ram w} (hm : Ram.wf m = true) (hk : Ram.wf k = true)
    (h : ∀ a, Ram.read m a = Ram.read k a) : m = k := by
  rw [Ram.wf_iff] at hm hk
  have below : ∀ {m : Ram w} {a : Nat}, (∀ c ∈ m, a < c.1) → Ram.read m a = 0 := by
    intro m a hlt
    induction m with
    | nil => rfl
    | cons c rest ih =>
      have h1 := hlt c (by simp)
      simp only [Ram.read]
      rw [if_neg (by omega)]
      exact ih (fun c hc => hlt c (by simp [hc]))
  induction m generalizing k with
  | nil =>
    cases k with
    | nil => rfl
    | cons c rest =>
      have := h c.1
      simp only [Ram.read, if_true] at this
      exact absurd this.symm (hk.1 c (by simp))
  | cons c rest ih =>
    cases k with
    | nil =>
      have := h c.1
      simp only [Ram.read, if_true] at this
      exact absurd this (hm.1 c (by simp))
    | cons e tail =>
      have hp1 := List.pairwise_cons.mp hm.2
      have hp2 := List.pairwise_cons.mp hk.2
      have hce : c.1 = e.1 := by
        rcases Nat.lt_trichotomy c.1 e.1 with hlt | heq | hgt
        · have := h c.1
          simp only [Ram.read, if_true] at this
          rw [if_neg (by omega), below (fun x hx => Nat.lt_trans hlt (hp2.1 x hx))] at this
          exact absurd this (hm.1 c (by simp))
        · exact heq
        · have := h e.1
          simp only [Ram.read, if_true] at this
          rw [if_neg (by omega), below (fun x hx => Nat.lt_trans hgt (hp1.1 x hx))] at this
          exact absurd this.symm (hk.1 e (by simp))
      have hv : c.2 = e.2 := by
        have := h c.1
        simpa [Ram.read, hce] using this
      have hcE : c = e := Prod.ext hce hv
      subst hcE
      congr 1
      apply ih ⟨fun c hc => hm.1 c (by simp [hc]), hp1.2⟩ ⟨fun c hc => hk.1 c (by simp [hc]), hp2.2⟩
      intro a
      by_cases hac : a = c.1
      · subst hac
        rw [below hp1.1, below hp2.1]
      · have := h a
        simpa [Ram.read, hac] using this

end Sys2Proof.Machine
end

