-- ==== Sys2Proof/Laws/State.lean ====
section
/-!
SUPPORT. Laws/State.lean: what each named update of the block changes and what it leaves alone, one lemma per field.
-/
namespace Sys2Proof.Machine

@[simp] theorem State.upd_dev (s : State) (f : Device → Device) : (s.upd f).dev = f s.dev := rfl
@[simp] theorem State.upd_pending (s : State) (f : Device → Device) : (s.upd f).pending = s.pending := rfl

@[simp] theorem Device.updMb_eq (d : Device) (k : Nat) (f : _ → _) : d.updMb k f = d.setMb k (f (d.mb k)) := rfl
@[simp] theorem Device.updUnit_eq (d : Device) (k : Nat) (f : _ → _) : d.updUnit k f = d.setUnit k (f (d.unit k)) := rfl
@[simp] theorem Device.updCore_eq (d : Device) (k : Nat) (f : _ → _) : d.updCore k f = d.setCore k (f (d.core k)) := rfl
@[simp] theorem Device.updPort_eq (d : Device) (k : Nat) (f : _ → _) : d.updPort k f = d.setPort k (f (d.port k)) := rfl

@[simp] theorem Device.setMb_now (d : Device) (m : Nat) (x : Mailbox) : (d.setMb m x).now = d.now := rfl
@[simp] theorem Device.setMb_presence (d : Device) (m : Nat) (x : Mailbox) : (d.setMb m x).presence = d.presence := rfl
@[simp] theorem Device.setMb_mgmt (d : Device) (m : Nat) (x : Mailbox) : (d.setMb m x).mgmt = d.mgmt := rfl
@[simp] theorem Device.setMb_boot (d : Device) (m : Nat) (x : Mailbox) : (d.setMb m x).boot = d.boot := rfl
@[simp] theorem Device.setMb_power (d : Device) (m : Nat) (x : Mailbox) : (d.setMb m x).power = d.power := rfl
@[simp] theorem Device.setMb_units (d : Device) (m : Nat) (x : Mailbox) : (d.setMb m x).units = d.units := rfl
@[simp] theorem Device.setMb_cores (d : Device) (m : Nat) (x : Mailbox) : (d.setMb m x).cores = d.cores := rfl
@[simp] theorem Device.setMb_quads (d : Device) (m : Nat) (x : Mailbox) : (d.setMb m x).quads = d.quads := rfl
@[simp] theorem Device.setMb_sync (d : Device) (m : Nat) (x : Mailbox) : (d.setMb m x).sync = d.sync := rfl
@[simp] theorem Device.setMb_tiers (d : Device) (m : Nat) (x : Mailbox) : (d.setMb m x).tiers = d.tiers := rfl
@[simp] theorem Device.setMb_sections (d : Device) (m : Nat) (x : Mailbox) : (d.setMb m x).sections = d.sections := rfl
@[simp] theorem Device.setMb_training (d : Device) (m : Nat) (x : Mailbox) : (d.setMb m x).training = d.training := rfl
@[simp] theorem Device.setMb_sched (d : Device) (m : Nat) (x : Mailbox) : (d.setMb m x).sched = d.sched := rfl
@[simp] theorem Device.setMb_ports (d : Device) (m : Nat) (x : Mailbox) : (d.setMb m x).ports = d.ports := rfl
@[simp] theorem Device.setMb_set (d : Device) (m : Nat) (x : Mailbox) : (d.setMb m x).set = d.set := rfl
@[simp] theorem Device.setMb_meter (d : Device) (m : Nat) (x : Mailbox) : (d.setMb m x).meter = d.meter := rfl
@[simp] theorem Device.setMb_netLinks (d : Device) (m : Nat) (x : Mailbox) : (d.setMb m x).netLinks = d.netLinks := rfl
@[simp] theorem Device.setMb_hitches (d : Device) (m : Nat) (x : Mailbox) : (d.setMb m x).hitches = d.hitches := rfl
@[simp] theorem Device.setMb_get_unit (d : Device) (m : Nat) (x : Mailbox) (k : Nat) : (d.setMb m x).unit k = d.unit k := rfl
@[simp] theorem Device.setMb_get_core (d : Device) (m : Nat) (x : Mailbox) (k : Nat) : (d.setMb m x).core k = d.core k := rfl
@[simp] theorem Device.setMb_get_quad (d : Device) (m : Nat) (x : Mailbox) (k : Nat) : (d.setMb m x).quad k = d.quad k := rfl
@[simp] theorem Device.setMb_get_port (d : Device) (m : Nat) (x : Mailbox) (k : Nat) : (d.setMb m x).port k = d.port k := rfl

@[simp] theorem Device.setUnit_now (d : Device) (u : Nat) (x : Unit) : (d.setUnit u x).now = d.now := rfl
@[simp] theorem Device.setUnit_host (d : Device) (u : Nat) (x : Unit) : (d.setUnit u x).host = d.host := rfl
@[simp] theorem Device.setUnit_presence (d : Device) (u : Nat) (x : Unit) : (d.setUnit u x).presence = d.presence := rfl
@[simp] theorem Device.setUnit_mgmt (d : Device) (u : Nat) (x : Unit) : (d.setUnit u x).mgmt = d.mgmt := rfl
@[simp] theorem Device.setUnit_boot (d : Device) (u : Nat) (x : Unit) : (d.setUnit u x).boot = d.boot := rfl
@[simp] theorem Device.setUnit_power (d : Device) (u : Nat) (x : Unit) : (d.setUnit u x).power = d.power := rfl
@[simp] theorem Device.setUnit_cores (d : Device) (u : Nat) (x : Unit) : (d.setUnit u x).cores = d.cores := rfl
@[simp] theorem Device.setUnit_quads (d : Device) (u : Nat) (x : Unit) : (d.setUnit u x).quads = d.quads := rfl
@[simp] theorem Device.setUnit_sync (d : Device) (u : Nat) (x : Unit) : (d.setUnit u x).sync = d.sync := rfl
@[simp] theorem Device.setUnit_tiers (d : Device) (u : Nat) (x : Unit) : (d.setUnit u x).tiers = d.tiers := rfl
@[simp] theorem Device.setUnit_sections (d : Device) (u : Nat) (x : Unit) : (d.setUnit u x).sections = d.sections := rfl
@[simp] theorem Device.setUnit_training (d : Device) (u : Nat) (x : Unit) : (d.setUnit u x).training = d.training := rfl
@[simp] theorem Device.setUnit_sched (d : Device) (u : Nat) (x : Unit) : (d.setUnit u x).sched = d.sched := rfl
@[simp] theorem Device.setUnit_ports (d : Device) (u : Nat) (x : Unit) : (d.setUnit u x).ports = d.ports := rfl
@[simp] theorem Device.setUnit_set (d : Device) (u : Nat) (x : Unit) : (d.setUnit u x).set = d.set := rfl
@[simp] theorem Device.setUnit_meter (d : Device) (u : Nat) (x : Unit) : (d.setUnit u x).meter = d.meter := rfl
@[simp] theorem Device.setUnit_netLinks (d : Device) (u : Nat) (x : Unit) : (d.setUnit u x).netLinks = d.netLinks := rfl
@[simp] theorem Device.setUnit_hitches (d : Device) (u : Nat) (x : Unit) : (d.setUnit u x).hitches = d.hitches := rfl
@[simp] theorem Device.setUnit_get_mb (d : Device) (u : Nat) (x : Unit) (k : Nat) : (d.setUnit u x).mb k = d.mb k := rfl
@[simp] theorem Device.setUnit_get_core (d : Device) (u : Nat) (x : Unit) (k : Nat) : (d.setUnit u x).core k = d.core k := rfl
@[simp] theorem Device.setUnit_get_quad (d : Device) (u : Nat) (x : Unit) (k : Nat) : (d.setUnit u x).quad k = d.quad k := rfl
@[simp] theorem Device.setUnit_get_port (d : Device) (u : Nat) (x : Unit) (k : Nat) : (d.setUnit u x).port k = d.port k := rfl

@[simp] theorem Device.setCore_now (d : Device) (c : Nat) (x : Core) : (d.setCore c x).now = d.now := rfl
@[simp] theorem Device.setCore_host (d : Device) (c : Nat) (x : Core) : (d.setCore c x).host = d.host := rfl
@[simp] theorem Device.setCore_presence (d : Device) (c : Nat) (x : Core) : (d.setCore c x).presence = d.presence := rfl
@[simp] theorem Device.setCore_mgmt (d : Device) (c : Nat) (x : Core) : (d.setCore c x).mgmt = d.mgmt := rfl
@[simp] theorem Device.setCore_boot (d : Device) (c : Nat) (x : Core) : (d.setCore c x).boot = d.boot := rfl
@[simp] theorem Device.setCore_power (d : Device) (c : Nat) (x : Core) : (d.setCore c x).power = d.power := rfl
@[simp] theorem Device.setCore_units (d : Device) (c : Nat) (x : Core) : (d.setCore c x).units = d.units := rfl
@[simp] theorem Device.setCore_quads (d : Device) (c : Nat) (x : Core) : (d.setCore c x).quads = d.quads := rfl
@[simp] theorem Device.setCore_sync (d : Device) (c : Nat) (x : Core) : (d.setCore c x).sync = d.sync := rfl
@[simp] theorem Device.setCore_tiers (d : Device) (c : Nat) (x : Core) : (d.setCore c x).tiers = d.tiers := rfl
@[simp] theorem Device.setCore_sections (d : Device) (c : Nat) (x : Core) : (d.setCore c x).sections = d.sections := rfl
@[simp] theorem Device.setCore_training (d : Device) (c : Nat) (x : Core) : (d.setCore c x).training = d.training := rfl
@[simp] theorem Device.setCore_sched (d : Device) (c : Nat) (x : Core) : (d.setCore c x).sched = d.sched := rfl
@[simp] theorem Device.setCore_ports (d : Device) (c : Nat) (x : Core) : (d.setCore c x).ports = d.ports := rfl
@[simp] theorem Device.setCore_set (d : Device) (c : Nat) (x : Core) : (d.setCore c x).set = d.set := rfl
@[simp] theorem Device.setCore_meter (d : Device) (c : Nat) (x : Core) : (d.setCore c x).meter = d.meter := rfl
@[simp] theorem Device.setCore_netLinks (d : Device) (c : Nat) (x : Core) : (d.setCore c x).netLinks = d.netLinks := rfl
@[simp] theorem Device.setCore_hitches (d : Device) (c : Nat) (x : Core) : (d.setCore c x).hitches = d.hitches := rfl
@[simp] theorem Device.setCore_get_mb (d : Device) (c : Nat) (x : Core) (k : Nat) : (d.setCore c x).mb k = d.mb k := rfl
@[simp] theorem Device.setCore_get_unit (d : Device) (c : Nat) (x : Core) (k : Nat) : (d.setCore c x).unit k = d.unit k := rfl
@[simp] theorem Device.setCore_get_quad (d : Device) (c : Nat) (x : Core) (k : Nat) : (d.setCore c x).quad k = d.quad k := rfl
@[simp] theorem Device.setCore_get_port (d : Device) (c : Nat) (x : Core) (k : Nat) : (d.setCore c x).port k = d.port k := rfl

@[simp] theorem Device.updQuad_now (d : Device) (q : Nat) (f : Quad → Quad) : (d.updQuad q f).now = d.now := rfl
@[simp] theorem Device.updQuad_host (d : Device) (q : Nat) (f : Quad → Quad) : (d.updQuad q f).host = d.host := rfl
@[simp] theorem Device.updQuad_presence (d : Device) (q : Nat) (f : Quad → Quad) : (d.updQuad q f).presence = d.presence := rfl
@[simp] theorem Device.updQuad_mgmt (d : Device) (q : Nat) (f : Quad → Quad) : (d.updQuad q f).mgmt = d.mgmt := rfl
@[simp] theorem Device.updQuad_boot (d : Device) (q : Nat) (f : Quad → Quad) : (d.updQuad q f).boot = d.boot := rfl
@[simp] theorem Device.updQuad_power (d : Device) (q : Nat) (f : Quad → Quad) : (d.updQuad q f).power = d.power := rfl
@[simp] theorem Device.updQuad_units (d : Device) (q : Nat) (f : Quad → Quad) : (d.updQuad q f).units = d.units := rfl
@[simp] theorem Device.updQuad_cores (d : Device) (q : Nat) (f : Quad → Quad) : (d.updQuad q f).cores = d.cores := rfl
@[simp] theorem Device.updQuad_sync (d : Device) (q : Nat) (f : Quad → Quad) : (d.updQuad q f).sync = d.sync := rfl
@[simp] theorem Device.updQuad_tiers (d : Device) (q : Nat) (f : Quad → Quad) : (d.updQuad q f).tiers = d.tiers := rfl
@[simp] theorem Device.updQuad_sections (d : Device) (q : Nat) (f : Quad → Quad) : (d.updQuad q f).sections = d.sections := rfl
@[simp] theorem Device.updQuad_training (d : Device) (q : Nat) (f : Quad → Quad) : (d.updQuad q f).training = d.training := rfl
@[simp] theorem Device.updQuad_sched (d : Device) (q : Nat) (f : Quad → Quad) : (d.updQuad q f).sched = d.sched := rfl
@[simp] theorem Device.updQuad_ports (d : Device) (q : Nat) (f : Quad → Quad) : (d.updQuad q f).ports = d.ports := rfl
@[simp] theorem Device.updQuad_set (d : Device) (q : Nat) (f : Quad → Quad) : (d.updQuad q f).set = d.set := rfl
@[simp] theorem Device.updQuad_meter (d : Device) (q : Nat) (f : Quad → Quad) : (d.updQuad q f).meter = d.meter := rfl
@[simp] theorem Device.updQuad_netLinks (d : Device) (q : Nat) (f : Quad → Quad) : (d.updQuad q f).netLinks = d.netLinks := rfl
@[simp] theorem Device.updQuad_hitches (d : Device) (q : Nat) (f : Quad → Quad) : (d.updQuad q f).hitches = d.hitches := rfl
@[simp] theorem Device.updQuad_get_mb (d : Device) (q : Nat) (f : Quad → Quad) (k : Nat) : (d.updQuad q f).mb k = d.mb k := rfl
@[simp] theorem Device.updQuad_get_unit (d : Device) (q : Nat) (f : Quad → Quad) (k : Nat) : (d.updQuad q f).unit k = d.unit k := rfl
@[simp] theorem Device.updQuad_get_core (d : Device) (q : Nat) (f : Quad → Quad) (k : Nat) : (d.updQuad q f).core k = d.core k := rfl
@[simp] theorem Device.updQuad_get_port (d : Device) (q : Nat) (f : Quad → Quad) (k : Nat) : (d.updQuad q f).port k = d.port k := rfl

@[simp] theorem Device.setPort_now (d : Device) (p : Nat) (x : Port) : (d.setPort p x).now = d.now := rfl
@[simp] theorem Device.setPort_host (d : Device) (p : Nat) (x : Port) : (d.setPort p x).host = d.host := rfl
@[simp] theorem Device.setPort_presence (d : Device) (p : Nat) (x : Port) : (d.setPort p x).presence = d.presence := rfl
@[simp] theorem Device.setPort_mgmt (d : Device) (p : Nat) (x : Port) : (d.setPort p x).mgmt = d.mgmt := rfl
@[simp] theorem Device.setPort_boot (d : Device) (p : Nat) (x : Port) : (d.setPort p x).boot = d.boot := rfl
@[simp] theorem Device.setPort_power (d : Device) (p : Nat) (x : Port) : (d.setPort p x).power = d.power := rfl
@[simp] theorem Device.setPort_units (d : Device) (p : Nat) (x : Port) : (d.setPort p x).units = d.units := rfl
@[simp] theorem Device.setPort_cores (d : Device) (p : Nat) (x : Port) : (d.setPort p x).cores = d.cores := rfl
@[simp] theorem Device.setPort_quads (d : Device) (p : Nat) (x : Port) : (d.setPort p x).quads = d.quads := rfl
@[simp] theorem Device.setPort_sync (d : Device) (p : Nat) (x : Port) : (d.setPort p x).sync = d.sync := rfl
@[simp] theorem Device.setPort_tiers (d : Device) (p : Nat) (x : Port) : (d.setPort p x).tiers = d.tiers := rfl
@[simp] theorem Device.setPort_sections (d : Device) (p : Nat) (x : Port) : (d.setPort p x).sections = d.sections := rfl
@[simp] theorem Device.setPort_training (d : Device) (p : Nat) (x : Port) : (d.setPort p x).training = d.training := rfl
@[simp] theorem Device.setPort_sched (d : Device) (p : Nat) (x : Port) : (d.setPort p x).sched = d.sched := rfl
@[simp] theorem Device.setPort_set (d : Device) (p : Nat) (x : Port) : (d.setPort p x).set = d.set := rfl
@[simp] theorem Device.setPort_meter (d : Device) (p : Nat) (x : Port) : (d.setPort p x).meter = d.meter := rfl
@[simp] theorem Device.setPort_netLinks (d : Device) (p : Nat) (x : Port) : (d.setPort p x).netLinks = d.netLinks := rfl
@[simp] theorem Device.setPort_hitches (d : Device) (p : Nat) (x : Port) : (d.setPort p x).hitches = d.hitches := rfl
@[simp] theorem Device.setPort_get_mb (d : Device) (p : Nat) (x : Port) (k : Nat) : (d.setPort p x).mb k = d.mb k := rfl
@[simp] theorem Device.setPort_get_unit (d : Device) (p : Nat) (x : Port) (k : Nat) : (d.setPort p x).unit k = d.unit k := rfl
@[simp] theorem Device.setPort_get_core (d : Device) (p : Nat) (x : Port) (k : Nat) : (d.setPort p x).core k = d.core k := rfl
@[simp] theorem Device.setPort_get_quad (d : Device) (p : Nat) (x : Port) (k : Nat) : (d.setPort p x).quad k = d.quad k := rfl

@[simp] theorem Device.updSection_now (d : Device) (h : Nat) (f : Section → Section) : (d.updSection h f).now = d.now := rfl
@[simp] theorem Device.updSection_host (d : Device) (h : Nat) (f : Section → Section) : (d.updSection h f).host = d.host := rfl
@[simp] theorem Device.updSection_presence (d : Device) (h : Nat) (f : Section → Section) : (d.updSection h f).presence = d.presence := rfl
@[simp] theorem Device.updSection_mgmt (d : Device) (h : Nat) (f : Section → Section) : (d.updSection h f).mgmt = d.mgmt := rfl
@[simp] theorem Device.updSection_boot (d : Device) (h : Nat) (f : Section → Section) : (d.updSection h f).boot = d.boot := rfl
@[simp] theorem Device.updSection_power (d : Device) (h : Nat) (f : Section → Section) : (d.updSection h f).power = d.power := rfl
@[simp] theorem Device.updSection_units (d : Device) (h : Nat) (f : Section → Section) : (d.updSection h f).units = d.units := rfl
@[simp] theorem Device.updSection_cores (d : Device) (h : Nat) (f : Section → Section) : (d.updSection h f).cores = d.cores := rfl
@[simp] theorem Device.updSection_quads (d : Device) (h : Nat) (f : Section → Section) : (d.updSection h f).quads = d.quads := rfl
@[simp] theorem Device.updSection_sync (d : Device) (h : Nat) (f : Section → Section) : (d.updSection h f).sync = d.sync := rfl
@[simp] theorem Device.updSection_tiers (d : Device) (h : Nat) (f : Section → Section) : (d.updSection h f).tiers = d.tiers := rfl
@[simp] theorem Device.updSection_training (d : Device) (h : Nat) (f : Section → Section) : (d.updSection h f).training = d.training := rfl
@[simp] theorem Device.updSection_sched (d : Device) (h : Nat) (f : Section → Section) : (d.updSection h f).sched = d.sched := rfl
@[simp] theorem Device.updSection_ports (d : Device) (h : Nat) (f : Section → Section) : (d.updSection h f).ports = d.ports := rfl
@[simp] theorem Device.updSection_set (d : Device) (h : Nat) (f : Section → Section) : (d.updSection h f).set = d.set := rfl
@[simp] theorem Device.updSection_meter (d : Device) (h : Nat) (f : Section → Section) : (d.updSection h f).meter = d.meter := rfl
@[simp] theorem Device.updSection_netLinks (d : Device) (h : Nat) (f : Section → Section) : (d.updSection h f).netLinks = d.netLinks := rfl
@[simp] theorem Device.updSection_hitches (d : Device) (h : Nat) (f : Section → Section) : (d.updSection h f).hitches = d.hitches := rfl
@[simp] theorem Device.updSection_get_mb (d : Device) (h : Nat) (f : Section → Section) (k : Nat) : (d.updSection h f).mb k = d.mb k := rfl
@[simp] theorem Device.updSection_get_unit (d : Device) (h : Nat) (f : Section → Section) (k : Nat) : (d.updSection h f).unit k = d.unit k := rfl
@[simp] theorem Device.updSection_get_core (d : Device) (h : Nat) (f : Section → Section) (k : Nat) : (d.updSection h f).core k = d.core k := rfl
@[simp] theorem Device.updSection_get_quad (d : Device) (h : Nat) (f : Section → Section) (k : Nat) : (d.updSection h f).quad k = d.quad k := rfl
@[simp] theorem Device.updSection_get_port (d : Device) (h : Nat) (f : Section → Section) (k : Nat) : (d.updSection h f).port k = d.port k := rfl

@[simp] theorem Device.dropSection_now (d : Device) (h : Nat) : (d.dropSection h).now = d.now := rfl
@[simp] theorem Device.dropSection_host (d : Device) (h : Nat) : (d.dropSection h).host = d.host := rfl
@[simp] theorem Device.dropSection_presence (d : Device) (h : Nat) : (d.dropSection h).presence = d.presence := rfl
@[simp] theorem Device.dropSection_mgmt (d : Device) (h : Nat) : (d.dropSection h).mgmt = d.mgmt := rfl
@[simp] theorem Device.dropSection_boot (d : Device) (h : Nat) : (d.dropSection h).boot = d.boot := rfl
@[simp] theorem Device.dropSection_power (d : Device) (h : Nat) : (d.dropSection h).power = d.power := rfl
@[simp] theorem Device.dropSection_units (d : Device) (h : Nat) : (d.dropSection h).units = d.units := rfl
@[simp] theorem Device.dropSection_cores (d : Device) (h : Nat) : (d.dropSection h).cores = d.cores := rfl
@[simp] theorem Device.dropSection_quads (d : Device) (h : Nat) : (d.dropSection h).quads = d.quads := rfl
@[simp] theorem Device.dropSection_sync (d : Device) (h : Nat) : (d.dropSection h).sync = d.sync := rfl
@[simp] theorem Device.dropSection_tiers (d : Device) (h : Nat) : (d.dropSection h).tiers = d.tiers := rfl
@[simp] theorem Device.dropSection_training (d : Device) (h : Nat) : (d.dropSection h).training = d.training := rfl
@[simp] theorem Device.dropSection_sched (d : Device) (h : Nat) : (d.dropSection h).sched = d.sched := rfl
@[simp] theorem Device.dropSection_ports (d : Device) (h : Nat) : (d.dropSection h).ports = d.ports := rfl
@[simp] theorem Device.dropSection_set (d : Device) (h : Nat) : (d.dropSection h).set = d.set := rfl
@[simp] theorem Device.dropSection_meter (d : Device) (h : Nat) : (d.dropSection h).meter = d.meter := rfl
@[simp] theorem Device.dropSection_netLinks (d : Device) (h : Nat) : (d.dropSection h).netLinks = d.netLinks := rfl
@[simp] theorem Device.dropSection_hitches (d : Device) (h : Nat) : (d.dropSection h).hitches = d.hitches := rfl
@[simp] theorem Device.dropSection_get_mb (d : Device) (h : Nat) (k : Nat) : (d.dropSection h).mb k = d.mb k := rfl
@[simp] theorem Device.dropSection_get_unit (d : Device) (h : Nat) (k : Nat) : (d.dropSection h).unit k = d.unit k := rfl
@[simp] theorem Device.dropSection_get_core (d : Device) (h : Nat) (k : Nat) : (d.dropSection h).core k = d.core k := rfl
@[simp] theorem Device.dropSection_get_quad (d : Device) (h : Nat) (k : Nat) : (d.dropSection h).quad k = d.quad k := rfl
@[simp] theorem Device.dropSection_get_port (d : Device) (h : Nat) (k : Nat) : (d.dropSection h).port k = d.port k := rfl

@[simp] theorem Device.setRes_now (d : Device) (p : Nat) (e : BitVec 64) : (d.setRes p e).now = d.now := rfl
@[simp] theorem Device.setRes_host (d : Device) (p : Nat) (e : BitVec 64) : (d.setRes p e).host = d.host := rfl
@[simp] theorem Device.setRes_presence (d : Device) (p : Nat) (e : BitVec 64) : (d.setRes p e).presence = d.presence := rfl
@[simp] theorem Device.setRes_mgmt (d : Device) (p : Nat) (e : BitVec 64) : (d.setRes p e).mgmt = d.mgmt := rfl
@[simp] theorem Device.setRes_boot (d : Device) (p : Nat) (e : BitVec 64) : (d.setRes p e).boot = d.boot := rfl
@[simp] theorem Device.setRes_power (d : Device) (p : Nat) (e : BitVec 64) : (d.setRes p e).power = d.power := rfl
@[simp] theorem Device.setRes_units (d : Device) (p : Nat) (e : BitVec 64) : (d.setRes p e).units = d.units := rfl
@[simp] theorem Device.setRes_cores (d : Device) (p : Nat) (e : BitVec 64) : (d.setRes p e).cores = d.cores := rfl
@[simp] theorem Device.setRes_quads (d : Device) (p : Nat) (e : BitVec 64) : (d.setRes p e).quads = d.quads := rfl
@[simp] theorem Device.setRes_sync (d : Device) (p : Nat) (e : BitVec 64) : (d.setRes p e).sync = d.sync := rfl
@[simp] theorem Device.setRes_sections (d : Device) (p : Nat) (e : BitVec 64) : (d.setRes p e).sections = d.sections := rfl
@[simp] theorem Device.setRes_training (d : Device) (p : Nat) (e : BitVec 64) : (d.setRes p e).training = d.training := rfl
@[simp] theorem Device.setRes_sched (d : Device) (p : Nat) (e : BitVec 64) : (d.setRes p e).sched = d.sched := rfl
@[simp] theorem Device.setRes_ports (d : Device) (p : Nat) (e : BitVec 64) : (d.setRes p e).ports = d.ports := rfl
@[simp] theorem Device.setRes_set (d : Device) (p : Nat) (e : BitVec 64) : (d.setRes p e).set = d.set := rfl
@[simp] theorem Device.setRes_meter (d : Device) (p : Nat) (e : BitVec 64) : (d.setRes p e).meter = d.meter := rfl
@[simp] theorem Device.setRes_netLinks (d : Device) (p : Nat) (e : BitVec 64) : (d.setRes p e).netLinks = d.netLinks := rfl
@[simp] theorem Device.setRes_hitches (d : Device) (p : Nat) (e : BitVec 64) : (d.setRes p e).hitches = d.hitches := rfl
@[simp] theorem Device.setRes_get_mb (d : Device) (p : Nat) (e : BitVec 64) (k : Nat) : (d.setRes p e).mb k = d.mb k := rfl
@[simp] theorem Device.setRes_get_unit (d : Device) (p : Nat) (e : BitVec 64) (k : Nat) : (d.setRes p e).unit k = d.unit k := rfl
@[simp] theorem Device.setRes_get_core (d : Device) (p : Nat) (e : BitVec 64) (k : Nat) : (d.setRes p e).core k = d.core k := rfl
@[simp] theorem Device.setRes_get_quad (d : Device) (p : Nat) (e : BitVec 64) (k : Nat) : (d.setRes p e).quad k = d.quad k := rfl
@[simp] theorem Device.setRes_get_port (d : Device) (p : Nat) (e : BitVec 64) (k : Nat) : (d.setRes p e).port k = d.port k := rfl

@[simp] theorem Device.mb_setMb_same (d : Device) (m : Nat) (x : Mailbox) : (d.setMb m x).mb m = x := by
  simp [Device.mb, Device.setMb]
theorem Device.mb_setMb (d : Device) (m k : Nat) (x : Mailbox) : (d.setMb m x).mb k = if k = m then x else d.mb k := by
  simp [Device.mb, Device.setMb, Tab.getD_set]
@[simp] theorem Device.unit_setUnit_same (d : Device) (u : Nat) (x : Unit) : (d.setUnit u x).unit u = x := by
  simp [Device.unit, Device.setUnit]
theorem Device.unit_setUnit (d : Device) (u v : Nat) (x : Unit) : (d.setUnit u x).unit v = if v = u then x else d.unit v := by
  simp [Device.unit, Device.setUnit, Tab.getD_set]
@[simp] theorem Device.core_setCore_same (d : Device) (c : Nat) (x : Core) : (d.setCore c x).core c = x := by
  simp [Device.core, Device.setCore]
theorem Device.core_setCore (d : Device) (c k : Nat) (x : Core) : (d.setCore c x).core k = if k = c then x else d.core k := by
  simp [Device.core, Device.setCore, Tab.getD_set]
theorem Device.quad_updQuad (d : Device) (q k : Nat) (f : Quad → Quad) :
    (d.updQuad q f).quad k = if k = q then f (d.quad q) else d.quad k := by
  simp [Device.quad, Device.updQuad, Tab.getD_set]
@[simp] theorem Device.port_setPort_same (d : Device) (p : Nat) (x : Port) : (d.setPort p x).port p = x := by
  simp [Device.port, Device.setPort]
theorem Device.port_setPort (d : Device) (p k : Nat) (x : Port) : (d.setPort p x).port k = if k = p then x else d.port k := by
  simp [Device.port, Device.setPort, Tab.getD_set]

/-- A residency entry that was written reads back; every other page keeps its entry. -/
theorem Device.res_setRes (d : Device) (p q : Nat) (e : BitVec 64) :
    (d.setRes p e).res q = if q = p then e else d.res q := by
  simp only [Device.res, Device.setRes, Ram.read_write]
  split
  · simp
  · rfl

@[simp] theorem Device.setMb_straps (d : Device) (m : Nat) (x : Mailbox) : (d.setMb m x).host.straps = d.host.straps := rfl
@[simp] theorem Device.setMb_mem (d : Device) (m : Nat) (x : Mailbox) : (d.setMb m x).host.mem = d.host.mem := rfl
@[simp] theorem Device.setMb_irqCause (d : Device) (m : Nat) (x : Mailbox) : (d.setMb m x).host.irqCause = d.host.irqCause := rfl

/-! ### Contexts of a unit -/

@[simp] theorem Unit.ctx_updCtx (x : Unit) (f : Ctx → Ctx) : (x.updCtx x.active f).ctx = f x.ctx := by
  simp [Unit.updCtx, Unit.setCtx, Unit.ctx]
theorem Unit.updCtx_updCtx (x : Unit) (k : Nat) (f g : Ctx → Ctx) :
    (x.updCtx k f).updCtx k g = x.updCtx k (fun c => g (f c)) := by simp [Unit.updCtx, Unit.setCtx]

end Sys2Proof.Machine
end

