-- ==== Sys2Proof/Laws/Fabric.lean ====
section
/-!
SUPPORT. Laws/Fabric.lean: what the shared operations of the units can do: the progress watchdog, the retirement of a
word, the acknowledge at an output port.
-/
namespace Sys2Proof.Machine
open Sys2Proof.Safety

theorem resetIdle_core (c k : Nat) (d : Device) : (resetIdle c d).core k
    = if k = c ∧ (d.core c).fab.idleSteps < 2000000 then
        { d.core c with fab := { (d.core c).fab with idleSteps := 0 } } else d.core k := by
  simp only [resetIdle, Device.updCore_eq, Device.core_setCore]
  split
  · split
    · rw [if_neg (by omega)]; simp_all
    · rw [if_pos ⟨by assumption, by omega⟩]
  · rw [if_neg (by omega)]

/-- Restarting a watchdog changes the cores alone. -/
theorem resetIdle_frame (c : Nat) (d : Device) : resetIdle c d = { d with cores := (resetIdle c d).cores } := rfl

/-- The quiescence counts of a list of cores return to 0. -/
theorem quiesce_foldl (l : List Nat) (d : Device) :
    let e := l.foldl (fun d k => d.updCore k (fun x => { x with quiesce := 0 })) d
    e = { d with cores := e.cores } ∧ ∀ c, e.core c = { d.core c with quiesce := (e.core c).quiesce } := by
  induction l generalizing d with
  | nil => exact ⟨rfl, fun _ => rfl⟩
  | cons a l ih =>
    obtain ⟨h1, h2⟩ := ih (d.updCore a (fun x => { x with quiesce := 0 }))
    refine ⟨?_, fun c => ?_⟩
    · simp only [List.foldl_cons]; rw [h1]; rfl
    · simp only [List.foldl_cons]
      rw [h2 c]
      simp only [Device.updCore_eq, Device.core_setCore]
      split
      · subst_vars; rfl
      · rfl

/-- All that the retirement of a word does beside the unit: the watchdog and the quiescence counts (R87, R363). -/
theorem progressed_spec (c : Nat) (d : Device) :
    progressed c true d = { d with cores := (progressed c true d).cores }
    ∧ (∀ k, (progressed c true d).core k
        = { d.core k with fab := { (d.core k).fab with idleSteps := ((progressed c true d).core k).fab.idleSteps }
                          quiesce := ((progressed c true d).core k).quiesce })
    ∧ WatchdogAtZero c d (progressed c true d) := by
  have h1 : ∀ k, (resetIdle c d).core k
      = { d.core k with fab := { (d.core k).fab with idleSteps := ((resetIdle c d).core k).fab.idleSteps } } := by
    intro k
    rw [resetIdle_core]
    split
    · rename_i h; rw [h.1]
    · rfl
  have h2 : (d.core c).fab.idleSteps < 2000000 → ((resetIdle c d).core c).fab.idleSteps = 0 := by
    intro h; rw [resetIdle_core]; simp [h]
  unfold progressed WatchdogAtZero
  simp only [if_true]
  cases coreSection (resetIdle c d) c with
  | none =>
    refine ⟨rfl, fun k => ?_, h2⟩
    simp only [resetIdle_core]
    split
    · rename_i h; rw [h.1]
    · rfl
  | some sec =>
    obtain ⟨h3, h4⟩ := quiesce_foldl sec.cores (resetIdle c d)
    refine ⟨?_, fun k => ?_, fun h => ?_⟩
    · simp only; rw [h3]; rfl
    · simp only; rw [h4 k, h1 k]
    · simp only; rw [h4 c]; exact h2 h

/-- A store of one unit followed by the progress of a word. -/
theorem progressed_setUnit (u : Nat) (y : Unit) (d : Device) :
    let e := progressed (u / 80) true (d.setUnit u y)
    WordFrame [u] d e ∧ WatchdogAtZero (u / 80) d e ∧ e.unit u = y := by
  obtain ⟨a, b, c⟩ := progressed_spec (u / 80) (d.setUnit u y)
  refine ⟨⟨?_, ?_, ?_⟩, ?_, ?_⟩
  · rw [a]; rfl
  · intro v hv
    rw [a]
    simp only [List.mem_singleton] at hv
    simp [Device.unit, Device.setUnit, Tab.getD_set, hv]
  · intro k; rw [b k]; rfl
  · intro h; exact c h
  · rw [a]; exact Device.unit_setUnit_same ..

/-- A word that starts and retires in one command. -/
theorem retireNow_spec (u pos : Nat) (x : Unit) (d : Device) :
    WordFrame [u] d (retireNow u pos x d) ∧ WatchdogAtZero (u / 80) d (retireNow u pos x d)
      ∧ (retireNow u pos x d).unit u = bumpUnit u x.active pos 0 0 0 x :=
  progressed_setUnit u _ d

/-- R72: a word that may start, with none in flight, starts, goes on as far as it can, and settles. -/
theorem runWord_start {op : Nat} {can : Core → Unit → BitVec 128 → Bool} {init : Core → Unit → Flight → Flight}
    {adv : Advance} {u : Nat} {d : Device} (h : Ready d u op)
    (hc : can (d.core (u / 80)) (d.unit u) (nextWord (d.unit u)) = true) :
    let x := d.unit u
    let f := init (d.core (u / 80)) x { pos := x.ctx.pos, word := nextWord x, ctx := x.active
                                        occ := bitsOf (Ram.read x.ctx.records x.ctx.pos).toNat 96 32 }
    let r := adv d u (nextPos { x with flight := [f] }) f
    runWord op can init adv u d = settleFlight u 0 r.1 r.2 d := by
  obtain ⟨h1, h2, h3, h4, h5, h6⟩ := h
  have hi : canIssue (d.unit u) op = true := by simp [canIssue, h1, h2, h3, h4, h5, h6]
  simp only [runWord, h6, List.length_nil, List.range_zero, goOn, hi, hc, Bool.and_self, if_true, List.nil_append]
  rfl

/-- A word whose effect is formed and that has nothing to send retires. -/
theorem settleFlight_retire {u i : Nat} {x : Unit} {f : Flight} {d : Device} (hd : f.done = true) (ho : f.outbox = [])
    (hw : f.waits = []) :
    settleFlight u i x f d
      = progressed (u / 80) true (d.setUnit u { retirePop f (bumpUnit u f.ctx f.pos f.sat f.flush f.runmax x) with
          flight := x.flight.eraseIdx i }) := by
  have hp : present x f = (x, f) := by simp [present, ho, hw]
  have hf : (retirePop f (bumpUnit u f.ctx f.pos f.sat f.flush f.runmax x)).flight = x.flight := by
    unfold retirePop bumpUnit
    split <;> split <;> rfl
  simp only [settleFlight, hp, hd, ho, hw, hf, decide_true, Bool.and_self, if_true]

/-- A formed token is presented at every port of OUT_MASK once all are free. -/
theorem settleFlight_send {u i : Nat} {x : Unit} {f : Flight} {t : Token} {d : Device} (ho : f.outbox = [t])
    (hw : f.waits = []) (hp : outPorts f.word ≠ []) (hfree : ∀ p ∈ outPorts f.word, Tab.find x.out p = none) :
    settleFlight u i x f d = d.setUnit u { x with
      out := (outPorts f.word).foldl (fun o p => Tab.set o p (portToken x f p t)) x.out
      flight := x.flight.set i { f with outbox := [], waits := outPorts f.word } } := by
  have hall : (outPorts f.word).all (fun p => (Tab.find x.out p).isNone) = true := by
    simp only [List.all_eq_true]; intro p hm; simp [hfree p hm]
  have hpres : present x f = ({ x with out := (outPorts f.word).foldl (fun o p => Tab.set o p (portToken x f p t)) x.out },
      { f with outbox := [], waits := outPorts f.word }) := by
    unfold present
    rw [hw, ho]
    split
    · split
      · rename_i h; exact absurd h hp
      · rename_i h; simp_all
    · simp_all
  simp only [settleFlight, hpres, hp, decide_false, Bool.and_false, Bool.false_eq_true, if_false]

/-- What stands at the ports after a token was presented at some of them. -/
theorem find_present (ps : List Nat) (g : Nat → Token) (o : Tab Token) (p : Nat) :
    Tab.find (ps.foldl (fun o p => Tab.set o p (g p)) o) p = if p ∈ ps then some (g p) else Tab.find o p := by
  induction ps generalizing o with
  | nil => simp
  | cons a ps ih =>
    simp only [List.foldl_cons, ih, Tab.find_set, List.mem_cons]
    by_cases h : p ∈ ps <;> by_cases h2 : p = a <;> simp_all

/-- `n` tokens leave a lane that holds them; nothing else of the unit changes. -/
theorem takeMany_spec (port ctx n : Nat) (x : Unit) (h : n ≤ (x.lane port ctx).length) :
    (takeMany port ctx n x).1 = (x.lane port ctx).take n
    ∧ (takeMany port ctx n x).2 = { x with lanes := (takeMany port ctx n x).2.lanes }
    ∧ ∀ k, Tab.getD (takeMany port ctx n x).2.lanes k []
        = if k = 4 * port + ctx then (Tab.getD x.lanes k []).drop n else Tab.getD x.lanes k [] := by
  induction n generalizing x with
  | zero => refine ⟨by simp [takeMany], rfl, fun k => by simp [takeMany]⟩
  | succ n ih =>
    match hl : x.lane port ctx with
    | [] => rw [hl] at h; simp at h
    | t :: rest =>
      have hy : (({ x with lanes := Tab.set x.lanes (4 * port + ctx) rest } : Unit).lane port ctx) = rest := by
        simp [Unit.lane]
      have hn : n ≤ rest.length := by rw [hl] at h; simpa using h
      obtain ⟨i1, i2, i3⟩ := ih { x with lanes := Tab.set x.lanes (4 * port + ctx) rest } (by rw [hy]; exact hn)
      have ht : takeLane x port ctx = some (t, { x with lanes := Tab.set x.lanes (4 * port + ctx) rest }) := by
        simp only [takeLane, hl]
      refine ⟨?_, ?_, fun k => ?_⟩
      · simp only [takeMany, ht, i1, hy, List.take_succ_cons]
      · simp only [takeMany, ht]; rw [i2]
      · simp only [takeMany, ht, i3, Tab.getD_set]
        by_cases hk : k = 4 * port + ctx
        · subst hk
          have : Tab.getD x.lanes (4 * port + ctx) [] = t :: rest := hl
          simp [this]
        · simp [hk]

end Sys2Proof.Machine
end

