-- ==== Sys2Proof/Laws/Frames.lean ====
section
/-!
SUPPORT. Laws/Frames.lean: a frame that is given its CRC passes the CRC check and keeps its other fields (R446, R449).
-/
namespace Sys2Proof.Machine

/-- R446: a frame made with its CRC passes the CRC check. -/
theorem frameCrcOk_fixCrc (f : Memory) : frameCrcOk (fixCrc f 0) = true := by
  unfold frameCrcOk fixCrc fld
  rw [Ram.slice_blit_same, Ram.slice_blit_apart _ _ _ _ _ _ (by omega)]
  have h := (crc32 (natToBytes 0x1010 (Ram.slice f 0 0x1010))).isLt
  simp [Nat.mod_eq_of_lt h]
/-- The fields before the CRC stay. -/
theorem fld_fixCrc (f : Memory) (a n : Nat) (h : a + n ≤ 0x1010) : fld (fixCrc f 0) a n = fld f a n :=
  Ram.slice_blit_apart _ _ _ _ _ _ (.inl (by omega))
/-- R449: a frame with its CRC is sound when its other fields are. -/
theorem frameOk_fixCrc (target : Nat) (f : Memory) : frameOk target (fixCrc f 0)
    = (fld f 4 1 = 1 && fld f 5 1 = target && fld f 6 1 ≤ 1 && fld f 7 1 = 0 && fld f 12 4 = 0
        && (target = 2 || fabricAddrClean (fld f 0 4))) := by
  simp only [frameOk, frameCrcOk_fixCrc, frAddr, Bool.true_and]
  rw [fld_fixCrc _ _ _ (by omega), fld_fixCrc _ _ _ (by omega), fld_fixCrc _ _ _ (by omega), fld_fixCrc _ _ _ (by omega),
    fld_fixCrc _ _ _ (by omega), fld_fixCrc _ _ _ (by omega)]

end Sys2Proof.Machine
end

