-- ==== Sys2Proof/Tests/Slice0.lean ====
section
/-!
SUPPORT. Tests/Slice0.lean: the model's own tests: ill-formed operands, the worked examples of the manual, and for
every statement with hypotheses a state that meets them.
-/
namespace Sys2Proof.Tests
open Sys2Proof.Machine Sys2Proof.Safety

set_option Elab.async false

/-! ### Ill-formed commands: one for each check of WellFormed.lean -/

theorem test_wf_register_size : (Instr.registerWrite (.bar0 0) 2 0).wf = false := by decide +kernel
theorem test_wf_register_alignment : (Instr.registerWrite (.bar0 12) 8 0).wf = false := by decide +kernel
theorem test_wf_rc_read_size : (Instr.rcRead (.bar0 0) 128).wf = false := by decide +kernel
theorem test_wf_bar2_read_empty : (Instr.bar2Read 0 0 none).wf = false := by decide +kernel
theorem test_wf_bar2_read_long : (Instr.bar2Read 0 4097 none).wf = false := by decide +kernel
theorem test_wf_bar2_read_end : (Instr.bar2Read 0xFFFFFFFFFF 2 none).wf = false := by decide +kernel
theorem test_wf_bar2_write_empty : (Instr.bar2Write 0 [] none).wf = false := by decide +kernel
theorem test_wf_ingest_alignment : (Instr.ingestData 0 8 0).wf = false := by decide +kernel
theorem test_wf_frame_length : (Instr.sensorReadingFrame 4 [0, 0]).wf = false := by decide +kernel
theorem test_wf_register_ok : (Instr.registerWrite (.bar0 0x40) 64 0).wf = true := by decide +kernel

/-! ### States for the tests -/

/-- The state after reset with one unit in it. -/
def withUnit (u : Nat) (x : Machine.Unit) : State :=
  { State.reset with dev := { State.reset.dev with units := [(u, x)] } }

/-- A running unit with one context, whose word 0 is given. -/
def unitAt (w : BitVec 128) : Machine.Unit := { ctxs := [(0, { image := some 0, words := [(0, w)] })], idle := false }

/-- An operation word: opcode, sources A and B, OUT_MASK, IMM. -/
def word (op srcA srcB out imm : Nat) : BitVec 128 :=
  BitVec.ofNat 128 ((op <<< 120) + (srcA <<< 108) + (srcB <<< 104) + (out <<< 100) + imm)

/-- Unit 1 of core 0: row 0, physical column 1, a CU. -/
def cu1 : UnitRef := ⟨0, 0, 1⟩

/-- A token of context 0 with a payload and 64 valid bytes. -/
def tok (v : Nat) : Token := ⟨BitVec.ofNat 4096 v, mkTag 0 false 64 0 5⟩

/-! ### Fabric-control words -/

def stNop : State := withUnit 1 (unitAt (word 0 15 15 0 0))
theorem test_hyp_nop : Ready stNop.dev cu1.key 0 := by decide +kernel
/-- LOOP_BEGIN of 3 trips to word 4, no length register. -/
def stLoop : State := withUnit 1 (unitAt (word 2 15 15 0 (3 + (4 <<< 32) + (15 <<< 44))))
theorem test_hyp_loop_begin : Ready stLoop.dev cu1.key 2
    ∧ (3 : Nat) = tripsOf (stLoop.dev.core 0) 15 (imm (nextWord (stLoop.dev.unit 1)) 0 32) := by decide +kernel
def stLoopEnd : State := withUnit 1 { ctxs := [(0, { image := some 0, words := [(4, word 3 15 15 0 0)], pos := 4
                                                     loops := [⟨0, 4, 3, 1, 15⟩] })], idle := false }
theorem test_hyp_loop_end : Ready stLoopEnd.dev cu1.key 3
    ∧ (stLoopEnd.dev.unit 1).ctx.loops.getLast? = some ⟨0, 4, 3, 1, 15⟩ := by decide +kernel
theorem test_hyp_yield : Ready (withUnit 1 (unitAt (word 6 15 15 0 0))).dev cu1.key 6 := by decide +kernel
/-- MOVE from port 0 to ports 1 and 2. -/
def stMove : State := withUnit 1 { unitAt (word 1 0 15 6 1) with lanes := [(0, [tok 7])] }
theorem test_hyp_move : Ready stMove.dev cu1.key 1 ∧ outPorts (nextWord (stMove.dev.unit 1)) = [1, 2]
    ∧ (stMove.dev.unit 1).lane 0 0 = [tok 7] ∧ (stMove.dev.unit 1).out = [] := by decide +kernel
def stSelect : State := withUnit 1 { unitAt (word 5 0 1 4 0) with lanes := [(0, [tok 7]), (4, [tok 9])] }
theorem test_hyp_select : Ready stSelect.dev cu1.key 5 ∧ outPorts (nextWord (stSelect.dev.unit 1)) = [2]
    ∧ (stSelect.dev.unit 1).lane 0 0 = [tok 7] ∧ (stSelect.dev.unit 1).lane 1 0 = [tok 9] := by decide +kernel
def stPred : State := withUnit 1 { unitAt (word 4 0 15 0 2) with lanes := [(0, [tok 7])] }
theorem test_hyp_pred_load : Ready stPred.dev cu1.key 4 ∧ (stPred.dev.unit 1).lane 0 0 = [tok 7] := by decide +kernel
theorem test_hyp_fence : Ready (withUnit 1 (unitAt (word 7 15 15 0 0))).dev cu1.key 7 := by decide +kernel
def stDiscard : State := withUnit 1 { unitAt (word 8 0 15 0 2) with lanes := [(0, [tok 7, tok 8, tok 9])] }
theorem test_hyp_discard : Ready stDiscard.dev cu1.key 8 ∧ imm (nextWord (stDiscard.dev.unit 1)) 0 16 = 2
    ∧ 2 ≤ ((stDiscard.dev.unit 1).lane 0 0).length := by decide +kernel

/-! ### Matrix, vector and scratchpad words -/

/-- MM_ACC of 16 positions, both operands in the buffer, bank 0, S = 1. -/
def stMm : State := withUnit 1 (unitAt (word 0x20 8 8 0 ((16 <<< 28) + (16 <<< 39) + (64 <<< 50) + (32 <<< 57))))
theorem test_hyp_mm_acc : Ready stMm.dev cu1.key 0x20
    ∧ (let r := captureOperands 0 0 (startUnit stMm.dev 1 initMm) (startOf stMm.dev 1 initMm)
       captured r.1 r.2 = true) := by decide +kernel
def stEmit (dest : Nat) : State := withUnit 1 (unitAt (word 0x21 15 15 1 (dest <<< 36)))
theorem test_hyp_acc_emit : Ready (stEmit 0).dev cu1.key 0x21 ∧ PortsFree ((stEmit 0).dev.unit 1) (nextWord ((stEmit 0).dev.unit 1))
    ∧ emitDest (nextWord ((stEmit 1).dev.unit 1)) = 1 ∧ emitDest (nextWord ((stEmit 2).dev.unit 1)) = 2
    ∧ Ready (stEmit 1).dev cu1.key 0x21 ∧ Ready (stEmit 2).dev cu1.key 0x21
    ∧ 0 + (emitTile (nextWord ((stEmit 2).dev.unit 1))).units ≤ 32 := by decide +kernel
def stAccLoad : State := withUnit 1 { unitAt (word 0x22 0 15 0 0) with lanes := [(0, List.replicate 16 (tok 7))] }
theorem test_hyp_acc_load : Ready stAccLoad.dev cu1.key 0x22 ∧ 16 ≤ ((stAccLoad.dev.unit 1).lane 0 0).length := by decide +kernel
theorem test_hyp_acc_clear : Ready (withUnit 1 (unitAt (word 0x23 15 15 0 1))).dev cu1.key 0x23 := by decide +kernel
def stBufLoad : State := withUnit 1 { unitAt (word 0x24 0 15 0 2) with lanes := [(0, [tok 7, tok 8])] }
theorem test_hyp_buf_load : Ready stBufLoad.dev cu1.key 0x24 ∧ imm (nextWord (stBufLoad.dev.unit 1)) 0 8 = 2
    ∧ isPort (wSrcA (nextWord (stBufLoad.dev.unit 1))) = true ∧ isPort (wSrcB (nextWord (stBufLoad.dev.unit 1))) = false
    ∧ 2 ≤ ((stBufLoad.dev.unit 1).lane 0 0).length := by decide +kernel

/-- The operands of a vector word are there, and the tokens it forms. -/
def vectorOut (s : State) (form : VEnv → VResult) : Bool × Nat :=
  let x := s.dev.unit 1
  let w := nextWord x
  let r := captureOperands (vRegA w) (vRegB w) (startUnit s.dev 1 initVector) (startOf s.dev 1 initVector)
  (captured r.1 r.2, (vFinish s.dev 1 (vEnv s.dev 1 r.1 r.2) (form (vEnv s.dev 1 r.1 r.2)) r.1 r.2).2.outbox.length)

/-- V_STATS INIT: nothing to send. -/
def stStats : State := withUnit 1 (unitAt (word 0x65 15 15 0 0))
theorem test_hyp_vector_silent : Ready stStats.dev cu1.key 0x65 ∧ vectorOut stStats formStats = (true, 0) := by decide +kernel
/-- V_PRED of a 64 by 1 tile in the buffer with no rows used, sent to port 0. -/
def stVPred : State := withUnit 1 (unitAt (word 0x64 8 15 1 (32 <<< 55)))
theorem test_hyp_vector_sends : Ready stVPred.dev cu1.key 0x64 ∧ vectorOut stVPred formPred = (true, 1)
    ∧ PortsFree (stVPred.dev.unit 1) (nextWord (stVPred.dev.unit 1)) := by decide +kernel

/-- A unit of an MU with region 0 of 4 slots holding `c` slots. -/
def muAt (w : BitVec 128) (c : Nat) : Machine.Unit :=
  { unitAt w with mu := { descs := [(0, { cfg := 0xC000, valid := true, head := 3, tail := (3 + c) % 4, count := c })] } }
def mu0 : UnitRef := ⟨0, 0, 0⟩
theorem test_hyp_desc_set : Ready (withUnit 0 (unitAt (word 0xA0 15 15 0 0))).dev mu0.key 0xA0 := by decide +kernel
def stPush : State := withUnit 0 { muAt (word 0xA1 0 15 0 (2 <<< 5)) 1 with lanes := [(0, [tok 7, tok 8])] }
theorem test_hyp_push : Ready stPush.dev mu0.key 0xA1 ∧ muCount (nextWord (stPush.dev.unit 0)) = 2
    ∧ 2 ≤ ((stPush.dev.unit 0).lane 0 0).length ∧ 2 ≤ (stPush.dev.unit 0).mu.room 0 := by decide +kernel
def stZero : State := withUnit 0 (muAt (word 0xA5 15 15 0 (3 <<< 5)) 1)
theorem test_hyp_zero : Ready stZero.dev mu0.key 0xA5 ∧ muCount (nextWord (stZero.dev.unit 0)) ≤ (stZero.dev.unit 0).mu.room 0 := by
  decide +kernel
def stRelease : State := withUnit 0 (muAt (word 0xA4 15 15 0 (2 <<< 5)) 2)
theorem test_hyp_release : Ready stRelease.dev mu0.key 0xA4
    ∧ muCount (nextWord (stRelease.dev.unit 0)) ≤ ((stRelease.dev.unit 0).mu.desc 0).count := by decide +kernel
def stRead (op : Nat) : State := withUnit 0 { muAt (word op 15 15 1 (1 <<< 5)) 4 with
  mu := { descs := [(0, { cfg := 0x3C000, valid := true, count := 16 })] } }
theorem test_hyp_read : Ready (stRead 0xA2).dev mu0.key 0xA2 ∧ PortsFree ((stRead 0xA2).dev.unit 0) (nextWord ((stRead 0xA2).dev.unit 0))
    ∧ (readWords ((stRead 0xA2).dev.unit 0) (startOf (stRead 0xA2).dev 0 noInit)).isSome = true := by decide +kernel
theorem test_hyp_col_read : Ready (stRead 0xA3).dev mu0.key 0xA3
    ∧ (readWords ((stRead 0xA3).dev.unit 0) (startOf (stRead 0xA3).dev 0 noInit)).isSome = true := by decide +kernel
/-- A region of 4 slots with 1 held takes 3 more (the boundary of RegionIsAQueue). -/
theorem test_hyp_region : ((stPush.dev.unit 0).mu.desc 0).count + 3 ≤ ((stPush.dev.unit 0).mu.desc 0).len := by decide +kernel

/-! ### Tokens, links, contexts, the watchdog and the scrubber -/

/-- Core 0 is placed with a running section, and mailbox 0 runs its command. -/
def sec1 : Section := { handle := 1, pkg := [], len := 0, state := .running, cores := [0], mbx := some 0 }
def withSection (sec : Section) (s : State) : State :=
  { s with dev := { s.dev with sections := [sec], cores := [(0, { section_ := some 1 })],
                               host := { s.dev.host with mbx := [(0, { state := .running, job := .run 1 0 })] } } }

/-- A token of channel 5 in the left latch of unit 1, routed to port 0, lane capacity 1; `held` tokens in the lane. -/
def stToken (held : List Token) : State :=
  withSection { sec1 with spills := [⟨1, 0, 0, 0, 0, 100, 2, 2, 1, 0⟩] }
    (withUnit 1 { ctxs := [(0, { image := some 0, routes := [(0, 0x10005)], caps := 1 })], idle := false
                  latch := [(0, ⟨7, mkTag 0 false 64 0 5⟩)], lanes := [(0, held)] })
def spill1 : SpillRegion := ⟨1, 0, 0, 0, 0, 100, 2, 2, 1, 0⟩
theorem test_hyp_token_transfer : routeOf ((stToken []).dev.unit 1) ⟨7, mkTag 0 false 64 0 5⟩ = some 0
    ∧ sourceToken ((stToken []).dev.unit 1) 0 = some ⟨7, mkTag 0 false 64 0 5⟩
    ∧ ((stToken []).dev.unit 1).laneCap 0 0 = 1 ∧ spillHeld (stToken []).dev 1 0 0 = 0 := by decide +kernel
/-- The same with a full lane and a spill region of two entries in unit 0. -/
def stSpill (c : Nat) : State :=
  { stToken [tok 8] with dev := (stToken [tok 8]).dev.setUnit 0 { mu := { spills := [(0, { base := 100, cap := 2, valid := true, count := c })] } } }
theorem test_hyp_spill_write : spillOf (stSpill 1).dev 1 0 0 = some spill1 ∧ (spillDesc (stSpill 1).dev spill1).count < 2
    ∧ (spillDesc (stSpill 1).dev spill1).cap = spill1.cap
    ∧ ((stSpill 1).dev.unit 1).laneCap 0 0 ≤ (((stSpill 1).dev.unit 1).lane 0 0).length := by decide +kernel
def stSpillBack : State := { stSpill 1 with dev := (stSpill 1).dev.updUnit 1 (fun x => { x with lanes := [] }) }
theorem test_hyp_spill_return : spillOf stSpillBack.dev 1 0 0 = some spill1 ∧ 0 < (spillDesc stSpillBack.dev spill1).count
    ∧ ((stSpillBack.dev.unit 1).lane 0 0).length < (stSpillBack.dev.unit 1).laneCap 0 0
    ∧ Ram.slice (stSpillBack.dev.unit 0).mu.ram 100 17 = 0 := by decide +kernel
/-- A token of channel 5 at output port 0 of unit 1, routed to the right link, whose pattern is channel 5. -/
def stLink : State := withUnit 1 { ctxs := [(0, { image := some 0, routes := [(0, 0x15005)], patterns := [(64, 0x8005)] })]
                                   out := [(0, ⟨7, mkTag 0 false 64 0 5⟩)] }
theorem test_hyp_harness_link : farNode 1 1 false = some 2 ∧ dueSource (stLink.dev.unit 1) 1 false = some (8, ⟨7, mkTag 0 false 64 0 5⟩)
    ∧ linkFenced stLink.dev 1 1 false = false ∧ (stLink.dev.unit 2).latch = [] := by decide +kernel
/-- An edge link: the right edge of core 0 leads to core 1. -/
theorem test_hyp_harness_edge : (farNode 9 1 true).isSome = true ∧ farNode 9 1 true ≠ some 9 := by decide +kernel
def net1 : NetLink := { queues := [(3, [5, 6])], credits := [(3, 1)] }
theorem test_hyp_packet_turn : turnOwner 1 = 3 ∧ turnOwner 0 = 0 ∧ netReady net1 0 = false ∧ netReady net1 3 = true
    ∧ (∀ k, k < 3 → netReady net1 k = false) := by decide +kernel
/-- Of the response to entry 7, and of the response to entry 3 of the same queue, which was asked for before it. -/
def resp7 : FabricFlit := ⟨⟨.memory, 70, true⟩, some (5, 7)⟩
def resp3 : FabricFlit := ⟨⟨.memory, 30, false⟩, some (5, 3)⟩
def hitchHeld : Hitch := { toFabric := [resp7], asked := [(5, [3, 7])] }
def hitchDue : Hitch := { toFabric := [resp7, resp3], asked := [(5, [3, 7])] }
theorem test_hyp_hitch_hub : ({} : Hitch).toHub.length < 32 ∧ trafficChannel .channel = 1 ∧ trafficChannel .spill = 3 := by decide +kernel
theorem test_hyp_hitch_fabric : ([resp7].all (fun g => decide (g.resp ≠ resp3.resp))) = true ∧ hitchDue.packet = none
    ∧ ([resp7] ++ [resp3]).head?.map (·.resp) = some (some (5, 7)) ∧ Tab.getD hitchDue.asked 5 [] = 3 :: [7]
    ∧ resp3.resp = some (5, 3) ∧ hitchDue.nextFabric = some 1 := by decide +kernel
theorem test_hyp_hitch_held : Tab.getD hitchHeld.asked 5 [] = 3 :: [7]
    ∧ (hitchHeld.toFabric.all (fun g => decide (g.resp ≠ some (5, 3)))) = true ∧ hitchHeld.nextFabric = none := by decide +kernel
theorem test_hyp_hitch_packet : (hitchDue.giveFabric 1).packet = some resp3.resp ∧ (hitchDue.giveFabric 1).nextFabric = none := by
  decide +kernel
def stSwitch : State := withUnit 1 { ctxs := [(2, { image := some 4 })], switchReq := some 2 }
theorem test_hyp_context_switch : (stSwitch.dev.unit 1).switchReq = some 2 ∧ (stSwitch.dev.unit 1).idle = true
    ∧ (stSwitch.dev.unit 1).flight = [] ∧ (stSwitch.dev.unit 1).reload = none := by decide +kernel
def stReload (begun : Bool) (n : Nat) : State :=
  withSection sec1 (withUnit 1 { reload := some ⟨1, 2 ^ 20, begun, n, [(0, 9)]⟩ })
theorem test_hyp_context_reload : laneEmpty (stReload false 0).dev 1 1 = true ∧ rowBusy (stReload false 0).dev 1 = false
    ∧ ((stReload false 0).dev.unit 1).active = 0 := by decide +kernel
theorem test_hyp_context_write : coreSection (stReload true 1023).dev 0 = some sec1
    ∧ (storeFault (stReload true 1023).dev sec1 1 (2 ^ 20) (1023 / 256)).isNone = true ∧ statsPoison (stReload true 1024).dev sec1 0 = none ∧ Ram.wf ([(0, 9)] : Ram 128) = true := by decide +kernel
def stWatchdog : State :=
  let s := withSection sec1 State.reset
  { s with dev := s.dev.updCore 0 (fun x => { x with fab := { x.fab with idleSteps := 2000000 } }) }
theorem test_hyp_watchdog : coreSection stWatchdog.dev 0 = some sec1 ∧ liveMbx stWatchdog.dev sec1 = some 0
    ∧ 2000000 ≤ (stWatchdog.dev.core 0).fab.idleSteps ∧ regionLoading stWatchdog.dev 1 = false ∧ stWatchdog.dev.set.state ≠ 3
    ∧ (stWatchdog.dev.host.mbx.all (fun e => decide (e.2.job = .run 1 0))) = true := by decide +kernel
def stScrub (pos : Nat) : State := withUnit 0 { mu := { classMap := 3, scrubPos := pos } }
theorem test_hyp_scrub : nextWeightSlot ((stScrub 128).dev.unit 0).mu 128 = some 128
    ∧ nextWeightSlot ((stScrub 128).dev.unit 0).mu 129 = some 129
    ∧ nextWeightSlot ((stScrub 255).dev.unit 0).mu 255 = some 255 ∧ ((stScrub 255).dev.unit 0).mu.scrubWait = 0
    ∧ arrayWanted (stScrub 128).dev 0 = false
    ∧ nextWeightSlot ((stScrub 255).dev.unit 0).mu 256 = none := by decide +kernel
theorem test_hyp_scrub_error : let d := stWatchdog.dev.setUnit 0 { mu := { classMap := 3, scrubPos := 127 } }
    coreSection d (⟨0, 0, 0⟩ : UnitRef).core.val = some sec1 ∧ sec1.state = .running ∧ liveMbx d sec1 = some 0
      ∧ (d.unit (⟨0, 0, 0⟩ : UnitRef).key).mu.fatalValid = false
      ∧ nextWeightSlot (d.unit 0).mu (d.unit 0).mu.scrubPos = some 127 ∧ arrayWanted d 0 = false := by decide +kernel

/-! ### Streams, translations and the tiers -/

theorem test_hyp_dq_wait : (let s := withUnit 1 (unitAt (word 0xD0 15 15 0 (3 + (2 <<< 4))))
    let t : State := { s with dev := s.dev.updSlot 0 3 (fun q => { q with done := 2 }) }
    Ready t.dev 1 0xD0 ∧ dqMet (t.dev.slot 0 3).done (Ram.read (t.dev.unit 1).ctx.expect 3 + BitVec.ofNat 32 2) = true) := by decide +kernel
theorem test_hyp_dq_drain : (let t := withUnit 1 (unitAt (word 0xD1 15 15 0 3))
    Ready t.dev 1 0xD1 ∧ dqMet (t.dev.slot 0 3).done (Ram.read (t.dev.unit 1).ctx.expect 3 + BitVec.ofNat 32 0) = true) := by decide +kernel
theorem test_hyp_dq_open : Ready (withUnit 1 (unitAt (word 0xD2 15 15 0 (3 + (2 <<< 4))))).dev 1 0xD2 := by decide +kernel

/-- Page 7 alone is VALID, with an entry; core 0 is given. -/
def withPage (e : BitVec 64) (x : Core) : State := { State.reset with dev := (State.reset.dev.setRes 7 e).setCore 0 x }
/-- A written near-tier page at core 0, frame 0. -/
def nearPage : BitVec 64 := setField (allocEntry false false 0 0) 1 2 1
/-- A written far-tier page at package 0, frame 0. -/
def farPage : BitVec 64 := setField (allocEntry false false 0x20 0) 1 2 2

theorem withPage_res (e : BitVec 64) (x : Core) (p : Nat) : (withPage e x).dev.res p = if p = 7 then e else resFree := by
  have h : ∀ q, State.reset.dev.res q = resFree := fun q => by
    simp [Device.res, State.reset, Device.reset, Ram.read]
  have k : (withPage e x).dev.res p = (State.reset.dev.setRes 7 e).res p := rfl
  rw [k, Device.res_setRes, h]

theorem test_hyp_residency (x : Core) : ResidencyWf (withPage nearPage x).dev := by
  intro p hp
  rw [withPage_res] at hp ⊢
  by_cases h : p = 7
  · subst h
    refine ⟨by decide, fun q hq hv => ?_⟩
    rw [withPage_res, if_neg hq] at hv
    exact absurd hv (by decide)
  · rw [if_neg h] at hp
    exact absurd hp (by decide)

theorem test_hyp_translation_fill : ((withPage nearPage { walks := [7] }).dev.core 0).walks.contains 7 = true
    ∧ resValid ((withPage nearPage { walks := [7] }).dev.res 7) = true := by decide +kernel
/-- Page 7's invalidation is on its way; a move of it has switched, and mailbox 0 waits for it. -/
def stInval : Device :=
  { State.reset.dev.setMb 0 { state := .running, job := .changing [7] } with
    tiers := { State.reset.dev.tiers with invals := [7], moves := [⟨7, 0x20, 0, 0, 0, 0, 0, true⟩] } }
theorem test_hyp_invalidation : stInval.tiers.invals = [7] ∧ pageReads stInval 7 = false ∧ (∀ q ∈ [7], q ∉ ([] : List Nat))
    ∧ (stInval.mb 0).job = .changing [7] ∧ (stInval.mb 0).state.started = true
    ∧ stInval.tiers.moves = [⟨7, 0x20, 0, 0, 0, 0, 0, true⟩] := by decide +kernel
/-- A load of one tile of one entry at page 7, over queue 0, to channel 5 at tap 0. -/
def load7 : Slot := { active := true, words := BitVec.ofNat 384 (0x70000 + (5 <<< 256)), c0 := 1, c1 := 1, c2 := 1 }
def stRequest : State := withPage nearPage { slots := [(0, load7)] }
theorem test_hyp_stream_request : nextStream (stRequest.dev.core 0) = some 0 ∧ sdStore load7.words = false
    ∧ pickQueue (loadCount (stRequest.dev.core 0)) load7.gang = some 0 ∧ accessFault stRequest.dev (load7.addr 0 0) = none
    ∧ nextStream ((requestLoad 0 0 load7 stRequest.dev).core 0) = none := by decide +kernel
def stFill : State :=
  withPage nearPage { slots := [(0, { load7 with reqTile := 1 })], tc := [(7, [⟨7, 0, 0⟩])], loadQ := [(0, [⟨0, 0, 0, 0x70000, none⟩])] }
theorem test_hyp_load_fill : oldestUnfilled (stFill.dev.core 0) 0 = some ⟨0, 0, 0, 0x70000, none⟩
    ∧ accessFault stFill.dev 0x70000 = none ∧ tcHas (stFill.dev.core 0) 7 = true := by decide +kernel
def stTile : State :=
  withPage nearPage { slots := [(0, { load7 with reqTile := 1 })], loadQ := [(0, [⟨0, 0, 0, 0x70000, some 9⟩])], tapPatterns := [(0, 0x8005)] }
theorem test_hyp_tile_release : sendable stTile.dev 0 0 = some 0
    ∧ (tileEntries (stTile.dev.core 0) 0 0).find? (fun y => y.idx = 0) = some ⟨0, 0, 0, 0x70000, some 9⟩ := by decide +kernel
/-- A store of the same tile, and the token at tap 0. -/
def stStore : State :=
  let s := withPage nearPage { slots := [(0, { load7 with words := load7.words ||| 0x10000000000#384 })] }
  { s with dev := s.dev.setUnit 0 { ctxs := [(0, { image := some 0, routes := [(0, 0x14005)], patterns := [(0, 0x8005)] })]
                                    latch := [(1, tok 9 |>.withChan 5)] } }
theorem test_hyp_store_accept : tapToken stStore.dev 0 0 = some (1, (tok 9).withChan 5)
    ∧ storeSlot (stStore.dev.core 0) 0 ((tok 9).withChan 5) = some 0
    ∧ pickQueue (storeCount (stStore.dev.core 0)) (stStore.dev.slot 0 0).gang = some 0 := by decide +kernel
def stAck : State := withPage nearPage { tc := [(7, [⟨7, 0, 0⟩])], storeQ := [(0, [⟨0, 0, 0x70000, 9, true⟩])] }
theorem test_hyp_store_ack : (Tab.getD (stAck.dev.core 0).storeQ 0 []).find? (·.issued) = some ⟨0, 0, 0x70000, 9, true⟩
    ∧ 0x70000 % 512 = 0 ∧ accessFault stAck.dev 0x70000 = none ∧ tcHas (stAck.dev.core 0) 7 = true
    ∧ gradOwner stAck.dev 7 = none := by decide +kernel
def stPromote : State :=
  let s := withPage farPage {}
  { s with dev := { s.dev with tiers := { s.dev.tiers with promoQ := [⟨7, 0, false⟩] } } }
theorem test_hyp_promotion : stPromote.dev.tiers.moves.length < 4 ∧ resTier (stPromote.dev.res 7) = 2
    ∧ stPromote.dev.tiers.demoteLow.toNat < offerCount stPromote.dev 0 ∧ resValid (stPromote.dev.res 7) = true
    ∧ resPin (stPromote.dev.res 7) = false ∧ resMoving (stPromote.dev.res 7) = false ∧ resUnit (stPromote.dev.res 7) = 0x20
    ∧ lowestGap 0 (usedFrames stPromote.dev 0) < frameLimit stPromote.dev 0 := by decide +kernel
def stCopy : State :=
  let s := withPage farPage {}
  { s with dev := { s.dev with tiers := { s.dev.tiers with moves := [⟨7, 0x20, 0, 0, 0, 0, 0, false⟩] } } }
theorem test_hyp_move_copy : memoriesWf stCopy.dev = true ∧ resUnit (stCopy.dev.res 7) = 0x20 ∧ resFrame (stCopy.dev.res 7) = 0
    ∧ resValid (stCopy.dev.res 7) = true ∧ (stCopy.dev.tiers.moves.find? (fun m => m.page = 7 && !m.switched)).isSome = true := by
  decide +kernel
theorem test_hyp_sweep : (let d := State.reset.dev; let e := { d with now := 60000000 }
    0 < e.tiers.decayS.toNat ∧ e.tiers.decayAt + 1000000 * e.tiers.decayS.toNat ≤ e.now ∧ meridianRuns e = true
      ∧ Ram.wf e.tiers.table = true) := by decide +kernel
theorem test_hyp_patrol : pageAt (withPage nearPage {}).dev 0 0 = some 7 := by decide +kernel
theorem test_hyp_allocation : (allocPage 9 false false 0 State.reset.dev).isSome = true ∧ resValid (State.reset.dev.res 9) = false
    ∧ Ram.wf State.reset.dev.tiers.frames = true := by decide +kernel

/-! ### Ephemeris entries, semaphores, barriers and channels -/

/-- Core 0 of `sec1` stands at an entry of a kind with these bits; the sequencer is otherwise `q`. -/
def stEntry (kind bits : Nat) (q : Seq) : State :=
  let s := withSection sec1 State.reset
  { s with dev := s.dev.setCore 0 { section_ := some 1
                                    seq := { q with entries := [(0, BitVec.ofNat 256 ((kind <<< 128) + bits))], count := 1 } } }
def issuing : Seq := { state := .issuing }
def waiting : Seq := { state := .waiting, started := true, acted := true }
theorem test_hyp_entry_nop : Stands (stEntry 0 0 issuing).dev 0 sec1 codeNop := by decide +kernel
theorem test_hyp_entry_mark : Stands (stEntry 5 7 issuing).dev 0 sec1 codeMark ∧ liveMbx (stEntry 5 7 issuing).dev sec1 = some 0 := by
  decide +kernel
theorem test_hyp_entry_stream : Stands (stEntry 2 0 issuing).dev 0 sec1 codeStream ∧ ((stEntry 2 0 issuing).dev.slot 0 0).active = false := by
  decide +kernel
theorem test_hyp_entry_chunk : Stands (stEntry 4 0 issuing).dev 0 sec1 codeChunk ∧ drained (stEntry 4 0 issuing).dev 0 = true := by
  decide +kernel
/-- UNITS: unit 0 of row 0 switches to context 2. -/
theorem test_hyp_entry_units : Stands (stEntry 1 (1 + (2 <<< 64)) issuing).dev 0 sec1 codeUnits
    ∧ regionWaits sec1 0 (entryAt (stEntry 1 (1 + (2 <<< 64)) issuing).dev 0) (stEntry 1 (1 + (2 <<< 64)) issuing).dev = false
    ∧ namedUnits sec1 0 1 0 ≠ [] := by decide +kernel
theorem test_hyp_units_done : Stands (stEntry 1 1 { waiting with unitsLeft := [1] }).dev 0 sec1 codeUnits
    ∧ bitOf 1 1 = false ∧ ((stEntry 1 1 { waiting with unitsLeft := [1] }).dev.unit 0).switchReq = none := by decide +kernel
theorem test_hyp_sem_add : Stands (stEntry 3 0x01 issuing).dev 0 sec1 0x01 ∧ drainMet (stEntry 3 0x01 issuing).dev 0 0x01 = true := by
  decide +kernel
theorem test_hyp_sem_sub : Stands (stEntry 3 0x80000002 issuing).dev 0 sec1 0x02
    ∧ drainMet (stEntry 3 0x80000002 issuing).dev 0 0x80000002 = true := by decide +kernel
theorem test_hyp_sem_wait : Stands (stEntry 3 0x03 issuing).dev 0 sec1 0x03
    ∧ Stands (stEntry 3 0x03 { waiting with waitDone := true }).dev 0 sec1 0x03 := by decide +kernel
/-- A tally with a wait that the addition just meets, and one that it just misses. -/
def quad1 : Quad := { sems := [(5, 3)], waits := [⟨0, 5, 3, 4⟩, ⟨1, 5, 3, 5⟩], ops := [⟨2, 5, 1, 1⟩] }
theorem test_hyp_tally : quad1.ops = [⟨2, 5, 1, 1⟩] ∧ (4 : BitVec 32).toInt ≤ (3 + 1 : BitVec 32).toInt
    ∧ ¬ (5 : BitVec 32).toInt ≤ (3 + 1 : BitVec 32).toInt := by decide +kernel
theorem test_hyp_bar_arrive : Stands (stEntry 3 0x10 issuing).dev 0 sec1 0x10 ∧ stopsForLoss (stEntry 3 0x10 issuing).dev 0 0x10 = false
    ∧ drainMet (stEntry 3 0x10 issuing).dev 0 0x10 = true ∧ mayArrive { issuing with rounds := [(0, 1)] } 0 = true := by decide +kernel
theorem test_hyp_bar_wait : Stands (stEntry 3 0x11 { issuing with rounds := [(0, 1), (1, 1)] }).dev 0 sec1 0x11
    ∧ stopsForLoss (stEntry 3 0x11 issuing).dev 0 0x11 = false
    ∧ ({ issuing with rounds := [(0, 1), (1, 1)] } : Seq).arrived 0 ≤ ({ issuing with rounds := [(0, 1), (1, 1)] } : Seq).released 0 := by
  decide +kernel
theorem test_hyp_bar_arrive_wait : Stands (stEntry 3 0x12 issuing).dev 0 sec1 0x12 ∧ stopsForLoss (stEntry 3 0x12 issuing).dev 0 0x12 = false
    ∧ Stands (stEntry 3 0x12 { waiting with rounds := [(0, 1), (1, 1)] }).dev 0 sec1 0x12 := by decide +kernel
def stArrival (level : Nat) : State :=
  let s := withSection sec1 State.reset
  { s with dev := { s.dev with sync := { arrivals := [(level, [⟨1, 3, 0, 0, false, false⟩])] } } }
theorem test_hyp_arrival_supervisor : supDone sec1 0 3 [0] = true ∧ (stArrival 0).dev.section? 1 = some sec1 := by decide +kernel
theorem test_hyp_arrival_root : barSystem sec1 3 = false ∧ sec1.save = none ∧ rootDone (stArrival 4).dev sec1 3 [0] = true := by
  decide +kernel
theorem test_hyp_barrier_release : (Tab.getD ({ releases := [(0, [⟨1, 3, 0, 0, false, false⟩])] } : SyncState).releases 0 []).length = 1 := by
  decide +kernel
theorem test_hyp_listen : Stands (stEntry 3 0x20 issuing).dev 0 sec1 0x20 ∧ ((stEntry 3 0x20 issuing).dev.ep 0 0).held = [] := by
  decide +kernel
theorem test_hyp_open : Stands (stEntry 3 0x2000021 issuing).dev 0 sec1 0x21 ∧ (0x2000021 : BitVec 256).getLsbD 25 = true := by
  decide +kernel
theorem test_hyp_close : Stands (stEntry 3 0x22 issuing).dev 0 sec1 0x22 ∧ Stands (stEntry 3 0x4022 issuing).dev 0 sec1 0x22 := by
  decide +kernel
/-- Endpoint 0 of core 0 and the messages on their way to it. -/
def stEp (x : Ep) (ms : List ChMsg) : State :=
  let s := withSection sec1 State.reset
  { s with dev := { s.dev.setCore 0 { section_ := some 1, eps := [(0, x), (1, { role := 1, state := .listen })] } with
      sync := { chan := [(0, ms)] } } }
def here (e : Nat) : EpName := ⟨0, 0, e⟩
theorem test_hyp_node : ownNode (stEp {} []).dev = 0 := by decide +kernel
theorem test_hyp_open_request : answerOpen {} 0 1 = .hold ∧ answerOpen { role := 1, state := .listen, gen := 1 } 0 1 = .grant
    ∧ answerOpen { role := 1, state := .listen, gen := 1 } 1 1 = .refuse
    ∧ (Tab.getD (stEp {} [.open_ (here 1) (here 0) 0 1]).dev.sync.chan 0 []).head? = some (.open_ (here 1) (here 0) 0 1) := by
  decide +kernel
theorem test_hyp_sends_to : ({ role := 2, dest := here 1 } : Ep).sendsTo (here 1) 0 = true := by decide +kernel
theorem test_hyp_grant : ((stEp { role := 2, state := .pending } [.grant (here 0) (here 1) 0 4]).dev.ep 0 0).state = .pending
    ∧ coreSection (stEp {} []).dev 0 = some sec1 := by decide +kernel
/-- A sending endpoint to endpoint 1 with the token of `stStore` at its tap. -/
def stSend (st : EpState) (cr cap : Nat) : State :=
  let s := stEp { role := 2, state := st, credits := cr, hchan := 5, ringCap := cap, ringBase := 0x70000, dest := here 1 } []
  { s with dev := (s.dev.setUnit 0 (stStore.dev.unit 0)).setRes 7 nearPage }
theorem test_hyp_token_entry : tapToken (stSend .open_ 1 0).dev 0 0 = some (1, (tok 9).withChan 5) ∧ ((tok 9).withChan 5).chan = 5
    ∧ ((tok 9).withChan 5).ctx = 0 ∧ ((stSend .open_ 1 0).dev.ep 0 1).state = .listen
    ∧ accessFault (stSend .pending 0 2).dev 0x70000 = none := by decide +kernel
/-- A receiver that holds a one-token message in slot 0 and may deliver at tap 0. -/
def stDeliver : State :=
  let s := stEp { role := 1, state := .listen, hchan := 5, granted := [(0, here 1)], rx := [(0, [(tok 9).withTileEnd true])] } []
  { s with dev := s.dev.updCore 0 (fun x => { x with tapPatterns := [(0, 0x8005)] }) }
theorem test_hyp_delivery : (stDeliver.dev.ep 0 0).nextSlot = some 0 ∧ wholeMessage 0 [(tok 9).withTileEnd true] = true
    ∧ tapReady stDeliver.dev 0 0 5 0 = true := by decide +kernel
def closing : Ep := { role := 2, state := .closing, opened := true, dest := here 1 }
theorem test_hyp_close_marker : ((stEp closing []).dev.core 0).eps.find? (fun y =>
    y.2.role = 2 && y.2.state = .closing && y.2.opened && y.2.msgTokens = 0 && y.2.ringHeld = 0) = some (0, closing) := by decide +kernel
theorem test_hyp_endpoint_close : ((stEp { role := 1, state := .listen, due := true } []).dev.ep 0 0).due = true := by decide +kernel
theorem test_hyp_halt : ((State.reset.dev.setCtrl 0 [.suspend, .halt, .suspend]).ctrl 0)
    = List.replicate 1 .suspend ++ .halt :: [.suspend] := by decide +kernel
theorem test_hyp_stops : atBoundary issuing = true ∧ issuing.walks = true ∧ atBoundary waiting = true := by decide +kernel


/-! ### Power, presence and management -/

/-- The state after reset at time `t` with another power, presence or management part. -/
def withPower (p : Power) : State := { State.reset with dev := { State.reset.dev with power := p } }
def withPresence (t : Nat) (x : Presence) : State := { State.reset with dev := { State.reset.dev with now := t, presence := x } }
def basePower : Power := State.reset.dev.power
theorem test_hyp_thermal_limit : basePower.thermalMv.length = 4 ∧ basePower.thermalQ.getLsbD 0 = decide (700 < 700) := by decide +kernel
/-- Quadrant 0 at 100 °C starts to throttle, at 97.9 °C and 698 mV it ends. -/
theorem test_hyp_thermal_entry : ({ basePower with tq := [1600, 0, 0, 0] } : Power).thermalQ.getLsbD 0 = false
    ∧ max 550 (700 - 10) < 700 ∧ ({ basePower with thermalQ := 1 } : Power).thermalQ.getLsbD 0 = true ∧ 700 ≤ min 700 (698 + 2) := by
  decide +kernel
theorem test_hyp_power_limit : ({ basePower with window := [3700000] } : Power).window = 3700000 :: [] := by decide +kernel
theorem test_hyp_hard_limit : basePower.hardQ.getLsbD 0 = false ∧ (1680 : Int) ≤ [1680, 0, 0, 0].getD 0 0
    ∧ ({ basePower with hardQ := 1 } : Power).hardQ.getLsbD 0 = true ∧ basePower.tq.getD 0 0 < 1648 := by decide +kernel
theorem test_hyp_throttle : basePower.throttle = false ∧ ({ basePower with throttle := true } : Power).throttle = true := by decide +kernel
theorem test_hyp_bands : basePower.inputLow = false ∧ 47000 ≤ (47000 : BitVec 32).toNat ∧ (49999 : BitVec 32).toNat < 50000
    ∧ 50000 < (50001 : BitVec 32).toNat ∧ 59500 < (59501 : BitVec 32).toNat ∧ basePower.inputHigh = false
    ∧ (59500 : BitVec 32).toNat ≤ 59500 := by decide +kernel
theorem test_hyp_frame : (List.replicate 25 (1040 : BitVec 32)).length = 25 ∧ (List.replicate 32 (1040 : BitVec 32)).length = 32
    ∧ basePower.tq.length = 4 ∧ meridianRuns State.reset.dev = true := by decide +kernel
theorem test_hyp_presence_change : (withPresence 0 {}).dev.presence.active = false ∧ (withPresence 0 {}).dev.presence.pressAt = none
    ∧ ({ active := true } : Presence).active = true ∧ ({ stuck := true } : Presence).active = false
    ∧ ({ pressAt := some 1, releasedAt := some 5 } : Presence).releasedAt = some 5 ∧ 250004 < 5 + 250000 := by decide +kernel
/-- A press from 1 µs that is released at 9.750001 s, at the last time at which it opens the window. -/
def stPress : State := withPresence 10000001 { pressAt := some 1, releasedAt := some 9750001 }
theorem test_hyp_press_end : stPress.dev.presence.releasedAt = some 9750001 ∧ 9750001 + 250000 ≤ stPress.dev.now
    ∧ 9750001 + 250000 ≤ 1 + 10000000 ∧ windowOpen stPress.dev = false
    ∧ windowOpen (withPresence 5 { windowEnd := some 6 }).dev = true := by decide +kernel
theorem test_hyp_press_stuck : (withPresence 10000001 { pressAt := some 1 }).dev.presence.pressAt = some 1
    ∧ 1 + 10000000 ≤ (withPresence 10000001 {}).dev.now := by decide +kernel
theorem test_hyp_stuck_release : ({ stuck := true, releasedAt := some 3 } : Presence).active = false ∧ 3 + 2000000 ≤ (withPresence 2000003 {}).dev.now := by
  decide +kernel
theorem test_hyp_window_close : ({ windowEnd := some 7 } : Presence).windowEnd = some 7 ∧ 7 ≤ (withPresence 7 {}).dev.now := by decide +kernel
/-- A command in mailbox 0 that waits for presence, with PRESENCE_WAIT_S of 2. -/
def stWait : State := { withPresence 2000000 {} with dev := { (withPresence 2000000 {}).dev with
  host := { State.reset.dev.host with mbx := [(0, { state := .waitingPresence, copy := [(6, 2)] })] } } }
theorem test_hyp_presence_wait : (stWait.dev.mb 0).state = .waitingPresence
    ∧ (stWait.dev.mb 0).since + 1000000 * Ram.slice (stWait.dev.mb 0).copy 6 1 ≤ stWait.dev.now := by decide +kernel
theorem test_hyp_maint : true ≠ (withPresence 0 {}).dev.presence.maint ∧ false ≠ ({ maint := true } : Presence).maint
    ∧ (withPresence 5 { windowEnd := some 6 }).dev.now < 6 := by decide +kernel
theorem test_hyp_seal : false ≠ (withPresence 0 {}).dev.presence.sealIntact
    ∧ 8 < ((9 : Nat) :: [8, 7, 6, 5, 4, 3, 2, 1].filter (fun t => decide (9 < t + 60000000))).length
    ∧ ({ toggling := true, toggles := 2 } : Presence).toggleFrom + 60000000 ≤ (withPresence 60000000 {}).dev.now := by decide +kernel
theorem test_hyp_smbus : meridianRuns State.reset.dev = true ∧ (1 : BitVec 4).getLsbD 0 = true := by decide +kernel
theorem test_hyp_hour : (State.reset.dev.mgmt.hour + 1) * 3600000000 ≤ (withPresence 3600000000 {}).dev.now := by decide +kernel
theorem test_hyp_dropped : 0 < ({ logDropped := 4 } : Mgmt).logDropped
    ∧ ({ logDropped := 4 } : Mgmt).logFrom + 1000000 ≤ (withPresence 1000000 {}).dev.now := by decide +kernel

/-! ### The host port -/

def withHost (h : HostSide) : State := { State.reset with dev := { State.reset.dev with host := h } }
/-- The host has set memory-space enable. -/
def stBars : State := withHost { State.reset.dev.host with memEnabled := true }
theorem test_hyp_doorbell : barsOpen stBars.dev = true ∧ State.reset.dev.boot.service ≠ 0 ∧ MbxAccess.full ≠ .high
    ∧ (State.reset.dev.mb 0).state = .idle ∧ (State.reset.dev.mb 0).rung = false := by decide +kernel
theorem test_hyp_acknowledge : ({ state := .done, seq := 7 } : Mailbox).seq = (7 : BitVec 64).setWidth 16
    ∧ ({ state := .running } : Mailbox).state ≠ .done ∧ State.reset.dev.boot.powered = true := by decide +kernel
theorem test_hyp_registers : (0x301018 : BitVec 26).toNat % 8 = 0 ∧ (0xF1018 : BitVec 26).toNat = 0x10000 * 15 + 0x1018
    ∧ (0x300028 : BitVec 26).toNat = 0x300028 ∧ (Instr.registerWrite (.bar0 0xF0FC0) 64 0).wf = true
    ∧ (0xF0FC0 : BitVec 26).toNat % 0x10000 < 0x1000 ∧ (Instr.registerWrite (.bar0 0x31003C) 4 0).wf = true
    ∧ (0x31003C : BitVec 26).toNat + 4 ≤ 0x310040 ∧ 0 < State.reset.dev.host.bar2Pages := by decide +kernel
/-- Page 0 is allocated and has no data yet, page 1 has data in a near frame, page 2 is unallocated. -/
def stBar2 : State :=
  { State.reset with dev := ((stBars.dev.setRes 0 (allocEntry true false 0 0)).setRes 1 (allocEntry true false 0 1 ||| 2)) }
theorem test_hyp_config : configOpen State.reset.dev = true ∧ 10 ≤ (15 : BitVec 64).toNat % 2 ^ 32 ∧ (15 : BitVec 64).toNat % 2 ^ 32 ≤ 20 := by
  decide +kernel
theorem test_hyp_bar2_read : barsOpen stBar2.dev = true ∧ memoriesWf stBar2.dev = true
    ∧ (0x1FFFF : BitVec 40).toNat + 2 ≤ 65536 * stBar2.dev.host.bar2Pages := by decide +kernel
theorem test_hyp_bar2_error : tierMeets (some (0x10000, .uncorrected)) 0x1FFFE 2 stBar2.dev = false
    ∧ tierMeets (some (0x1FFFF, .uncorrected)) 0x1FFFE 2 stBar2.dev = true := by decide +kernel
theorem test_hyp_bar2_write : resValid (stBar2.dev.res (0xFFFF / 65536)) = true ∧ resPoison (stBar2.dev.res (0x10000 / 65536)) = false
    ∧ resValid (stBar2.dev.res 2) = false ∧ (0x20000 + 1) % 65536 + 4 ≤ 65536 := by decide +kernel
/-- A bound window whose bank 0 fills, with its first word released. -/
def ingest1 : Ingest := { bound := some ⟨0, 1, 0, 0, 0, 0, 5⟩, filling := some false, bank0 := { released := 1 } }
theorem test_hyp_ingest_data : ingest1.filling = some false ∧ 32 * (ingest1.bank false).released ≤ (0x200 : BitVec 16).toNat / 16
    ∧ (0x1F0 : BitVec 16).toNat / 16 < 32 * (ingest1.bank false).released ∧ ({} : Ingest).bound = none := by decide +kernel
theorem test_hyp_ingest_end : 512 * (ingest1.bank false).released < (65536 : BitVec 64).toNat % 2 ^ 17 ∧ 1 ≤ (65536 : BitVec 64).toNat % 2 ^ 17 ∧ (65536 : BitVec 64).toNat % 2 ^ 17 ≤ 65536 := by decide +kernel
/-- The same window after the end of a packet of `len` bytes, with tap 0 of core 0 due for channel 5. -/
def stRelease8 (len : Nat) : State :=
  let s := withSection sec1 (withHost {})
  { s with dev := { s.dev.updCore 0 (fun x => { x with tapPatterns := [(0, 0x8005)] }) with
      host := { s.dev.host with ingest := [(0, { ingest1 with filling := none, fillBank := true, bank0 := { released := 1, length := some len } })] } } }
theorem test_hyp_ingest_release : tapReady (stRelease8 700).dev 0 0 5 0 = true ∧ ((stRelease8 700).dev.core 0).section_ = some 1
    ∧ drainBank { ingest1 with filling := none, fillBank := true } = false
    ∧ 512 * 1 < 700 ∧ 512 * 1 < 1025 := by decide +kernel

/-! ### Host commands -/

/-- Mailbox 0 rung with a command: opcode, PRESENCE_WAIT_S and arguments; `f` changes the block around it. -/
def withCmd (op wait args : Nat) (f : Device → Device) : State :=
  let d := f State.reset.dev
  { State.reset with dev := d.setMb 0 { rung := true, copy := Ram.blit ([] : Memory) 0 192 (op + (wait <<< 48) + (args <<< 128)) } }
def held (f : Device → Device) (op args : Nat) : State := withCmd op 0 args f
def withIdle (sec : Section) (d : Device) : Device := { d with sections := [sec] }
theorem test_hyp_rung : ∀ op ∈ [0x01, 0x24, 0x40, 0x43, 0x50, 0x51, 0x60, 0x74, 0x76], Rung (held id op 0).dev 0 op := by decide +kernel
/-- REG_READ of two registers of the fabric block, and of one. -/
theorem test_hyp_reg_read : Rung (held id 0x43 (2 <<< 48)).dev 0 0x43 ∧ checkRegs (held id 0x43 (2 <<< 48)).dev ((held id 0x43 (2 <<< 48)).dev.mb 0) = 0
    ∧ ((held id 0x43 ((1 <<< 8) + (1 <<< 48))).dev.mb 0).arg 6 2 = 1
    ∧ bitOf (((held id 0x43 ((1 <<< 8) + (1 <<< 48))).dev.mb 0).arg 1 1) 0 = true := by decide +kernel
theorem test_hyp_log_read : between (((held id 0x60 (128 <<< 64)).dev.mb 0).arg 8 4) 1 128 = true
    ∧ between (((held id 0x51 (128 <<< 32)).dev.mb 0).arg 4 2) 1 128 = true := by decide +kernel
theorem test_hyp_page_query : ((held id 0x24 (16776192 + (1024 <<< 32))).dev.mb 0).arg 0 4 + 1024 ≤ 2 ^ 24 := by decide +kernel
/-- A quote that names section 1. -/
def stQuote : State := held (withIdle sec1) 0x76 (1 <<< 256)
theorem test_hyp_quote : Rung stQuote.dev 0 0x76 ∧ stQuote.dev.section? ((stQuote.dev.mb 0).arg 32 4) = some sec1
    ∧ sec1.state ≠ .halted ∧ (stQuote.dev.mb 0).arg 36 12 = 0 := by decide +kernel
/-- SETTINGS of every item with a full mask, and of FALLBACK_POLICY to 2. -/
theorem test_hyp_settings : ∀ i ∈ [(1, 0xFFFFFFFFFFFF00FF, 7), (2, 0xFFFF0001, 1), (3, 7, 2), (4, 0x3FF, 0x3FF), (5, 0xFFFFFFFF00FF, 9)],
    let s := held id 0x40 (i.1 + (i.2.2 <<< 64) + (i.2.1 <<< 128))
    settingMask ((s.dev.mb 0).arg 0 2) = some i.2.1 ∧ Rung s.dev 0 0x40 ∧ checkSettings s.dev (s.dev.mb 0) = 0 := by decide +kernel

/-- PAGE_ALLOC of pages 5 and 6 with CLASS and PIN, tier by the loader's rule, no preferred home. -/
def stAlloc (first : Nat) : State := held id 0x21 (first + (2 <<< 32) + (3 <<< 64) + (0xFF <<< 80))
theorem test_hyp_page_alloc : Rung (stAlloc 5).dev 0 0x21 ∧ checkAlloc (stAlloc 5).dev ((stAlloc 5).dev.mb 0) = 0
    ∧ resValid ((stAlloc 5).dev.res 5) = false ∧ resValid ((stAlloc 5).dev.res 6) = false
    ∧ (allocRange ((stAlloc 5).dev.mb 0) 5 (taken 0 (stAlloc 5).dev)).isSome = true
    ∧ checkAlloc (stAlloc 0xFFFFFFFF).dev ((stAlloc 0xFFFFFFFF).dev.mb 0) = 0
    ∧ lowestRun (taken 0 (stAlloc 0xFFFFFFFF).dev) (fun _ => true) 2 = some 0 := by decide +kernel
/-- No tier offers a frame: every near quadrant and every far package is off. -/
def stFull : State := held (fun d => { d with power := { d.power with quadrantOff := 15 }, tiers := { d.tiers with ftRemoved := 0xFFFFFF } })
  0x21 (5 + (1 <<< 32) + (0xFF <<< 80))
theorem test_hyp_page_alloc_full : checkAlloc stFull.dev (stFull.dev.mb 0) = 0
    ∧ (allocRange (stFull.dev.mb 0) 5 (taken 0 stFull.dev)).isNone = true := by decide +kernel
theorem test_hyp_page_free : Rung (held (fun _ => stBar2.dev) 0x22 (0 + (2 <<< 32))).dev 0 0x22
    ∧ checkFree stBar2.dev ((held (fun _ => stBar2.dev) 0x22 (0 + (2 <<< 32))).dev.mb 0) = 0 := by decide +kernel
/-- PAGE_MOVE of page 0 to core 3, and of the unallocated page 9. -/
def stPageMove (p : Nat) : State := held (fun _ => stBar2.dev) 0x23 (p + (1 <<< 32) + (3 <<< 64))
theorem test_hyp_page_move : Rung (stPageMove 0).dev 0 0x23 ∧ checkMove (stPageMove 0).dev ((stPageMove 0).dev.mb 0) = 0
    ∧ resValid ((stPageMove 0).dev.res 0) = true ∧ resMoving ((stPageMove 0).dev.res 0) = false ∧ resUnit ((stPageMove 0).dev.res 0) ≠ 3
    ∧ 0 < offerCount (stPageMove 0).dev 3 ∧ lowestGap 0 (usedFrames (stPageMove 0).dev 3) < frameLimit (stPageMove 0).dev 3
    ∧ (startMove 9 3 2 0 (taken 0 (stPageMove 9).dev)).isNone = true := by decide +kernel
/-- XFER of 32 bytes between bus address 0x100 and the last bytes of page 0 and the first of page 1. -/
def stXfer (dir : Nat) : State := held (fun _ => stBar2.dev) 0x20 (dir + (0x100 <<< 64) + (0xFFF0 <<< 128) + (32 <<< 192))
theorem test_hyp_xfer : ∀ dir ∈ [0, 1], Rung (stXfer dir).dev 0 0x20 ∧ checkXfer (stXfer dir).dev ((stXfer dir).dev.mb 0) = 0
    ∧ hostPieces (taken 0 (stXfer dir).dev) ((stXfer dir).dev.mb 0) = some [(0x100, 32)] ∧ ((stXfer dir).dev.mb 0).arg 0 1 = dir
    ∧ resValid ((stXfer dir).dev.res ((0xFFF0 + 31) / 65536)) = true := by decide +kernel
theorem test_hyp_xfer_rows : ((List.range 16).filter (fun k => ((stXfer 0).dev.mb k).opcode = 0x20 && ((stXfer 0).dev.mb k).between)).length < 4
    ∧ partEntry none 0xFFF0 32 = none ∧ partEntry (some (0x10010, .uncorrected)) 0xFFF0 32 = some 0x10000
    ∧ tierMeets (some (0x10010, .uncorrected)) 0x10000 512 (stXfer 0).dev = true := by decide +kernel
theorem test_hyp_xfer_error : tierMeets (some (0x1000F, .uncorrected)) 0xFFF0 32 (taken 0 (stXfer 1).dev) = true
    ∧ (0x1000F : BitVec 40).toNat / 512 * 512 - 0xFFF0 = 16 := by decide +kernel

/-- A section whose package has one directory entry, of a kind, at 0x200. -/
def secOf (kind : Nat) : Section :=
  { handle := 1, pkg := Ram.blit ([] : Memory) 0x10 0x200 (1 + (kind <<< (8 * 0xF0)) + (0x200 <<< (8 * 0xF8)) + (1 <<< (8 * 0x1F0))),
    len := 0x240, state := .idle, cores := [0] }
/-- EXPORT and IMPORT of the one group of section 1, which has no tile, from and to host memory. -/
def stState (op form side len : Nat) : State :=
  held (fun d => { (withIdle (secOf 0x12) d) with host := { d.host with straps := 0xC00 } }) op
    (1 + (form <<< 32) + (side <<< 40) + (0x100 <<< 64) + (len <<< 128))
theorem test_hyp_export : Rung (stState 0x30 0 0 64).dev 0 0x30 ∧ checkState (stState 0x30 0 0 64).dev ((stState 0x30 0 0 64).dev.mb 0) = 0
    ∧ takenGroups (secOf 0x12) ((stState 0x30 0 0 64).dev.mb 0) = [0]
    ∧ (joinBytes (exportParts (taken 0 (stState 0x30 0 0 64).dev) (secOf 0x12) ((stState 0x30 0 0 64).dev.mb 0))).1 ≤ 64
    ∧ areaFault (taken 0 (stState 0x30 0 0 64).dev) (groupAreas (secOf 0x12) 0) = none := by decide +kernel
theorem test_hyp_export_logical :
    let s := stState 0x30 0 1 64
    let t : State := { s with dev := s.dev.setRes 0 (allocEntry true false 0 0) }
    Rung t.dev 0 0x30 ∧ checkState t.dev (t.dev.mb 0) = 0
      ∧ anyInvalid (taken 0 t.dev) (pagesOf 0x100 64) = false ∧ rewriteFault (taken 0 t.dev) [(0x100, 64)] = none
      ∧ partEntry none 0x100 64 = none := by decide +kernel
theorem test_hyp_export_fault : (areaFault (taken 0 (stState 0x30 0 0 64).dev) [(0, 16)]) = some 0x13 := by decide +kernel
theorem test_hyp_import : Rung (stState 0x31 0 0 64).dev 0 0x31 ∧ checkState (stState 0x31 1 0 0).dev ((stState 0x31 1 0 0).dev.mb 0) = 0
    ∧ (stageBytes (taken 0 (stState 0x31 0 0 64).dev) false 0x100 64).toOption.isSome = true
    ∧ storedOk (secOf 0x12) [0] 64 0 = true ∧ shardRecords (secOf 0x12).pkg [0] 0 0 1 0 = some [] := by decide +kernel

/-- A gated command while the jumper holds the window open. -/
def gated (op args : Nat) (f : Device → Device) : State := held (fun d => { f d with presence := { d.presence with maint := true } }) op args
theorem test_hyp_security : windowOpen (gated 0x71 0 id).dev = true ∧ SerialFree (gated 0x71 0 id).dev 0 ∧ CanStage (gated 0x72 0 id).dev 0 0 ∧ xferRuns (gated 0x77 0 id).dev = false
    ∧ (∀ op ∈ [0x71, 0x72, 0x73, 0x75, 0x77], Rung (gated op 0 id).dev 0 op) ∧ Rung (held id 0x70 0).dev 0 0x70 := by
  have h : ∀ op k, k ≠ 0 → ((gated op 0 id).dev.mb k).state = .accepted → False := by
    intro op k hk
    have e : (gated op 0 id).dev.mb k = ({} : Mailbox) := by
      show Tab.getD (Tab.set ([] : Tab Mailbox) 0 _) k ({} : Mailbox) = _
      rw [Tab.getD_set]; simp [hk, Tab.getD, Tab.find]
    rw [e]; decide
  refine ⟨by decide +kernel, ⟨fun k hk ha => (h _ k hk ha).elim, by decide +kernel⟩,
    Or.inr ⟨by decide +kernel, by decide +kernel, fun k hk _ ha => (h _ k hk ha).elim⟩, by decide +kernel, by decide +kernel, by decide +kernel⟩
theorem test_hyp_fw_commit : (gated 0x71 0 (fun d => { d with mgmt := { d.mgmt with staged := 1 } })).dev.mgmt.staged.toNat = 0 + 1 := by
  decide +kernel
/-- OPERATION 2 with the generator of the curve as the root, in host memory, and with 97 zero bytes. -/
def stRoot (p : Nat) : State := gated 0x75 2 (fun d => { d with host := { d.host with mem := Ram.blit ([] : Memory) 0 97 p } })
def rootBytes : Nat := bytesToNat (natToBytes 97 ((4 <<< 768) + (bpGx <<< 384) + bpGy)).reverse
theorem test_hyp_recertify : (stageBytes (takenGated 0 (stRoot rootBytes).dev) false 0 97).toOption.map (fun b => bigEndian b 0 97)
      = some ((4 <<< 768) + (bpGx <<< 384) + bpGy) ∧ onCurve bpGx bpGy = true
    ∧ (stageBytes (takenGated 0 (stRoot 0).dev) false 0 97).toOption.map (fun b => bigEndian b 0 97) = some 0 := by decide +kernel
theorem test_hyp_zeroize : (gated 0x77 3 id).dev.sections = [] := by decide +kernel
theorem test_hyp_gated_wait : windowOpen (withCmd 0x77 5 0 id).dev = false ∧ Rung (withCmd 0x77 5 0 id).dev 0 0x77
    ∧ checkZeroize (withCmd 0x77 5 0 id).dev ((withCmd 0x77 5 0 id).dev.mb 0) = 0
    ∧ Ram.slice ((withCmd 0x77 5 0 id).dev.mb 0).copy 6 1 = 5 ∧ Ram.slice ((withCmd 0x77 0 0 id).dev.mb 0).copy 6 1 = 0
    ∧ checkCommit { State.reset.dev with mgmt := { State.reset.dev.mgmt with staged := 1 } } ((held id 0x71 0).dev.mb 0) = 0 := by decide +kernel

/-- RUN and RUN_FUSED of section 1 with its whole package. -/
def idle1 : Section := { secOf 2 with pkg := [] }
def stRun : State := held (withIdle idle1) 0x12 1
def stFused : State := held (withIdle idle1) 0x13 (0xFFFFFFFF + (2 <<< (8 * 0x88)) + (0x100000001 <<< (8 * 0x90)))
theorem test_hyp_run : Rung stRun.dev 0 0x12 ∧ runArgsOk stRun.dev (stRun.dev.mb 0) = true
    ∧ Rung stFused.dev 0 0x13 ∧ checkFused stFused.dev (stFused.dev.mb 0) = 0 := by decide +kernel
/-- CANCEL of mailbox 1, which holds `y`, by its SEQ 0. -/
def stCancel (y : Mailbox) : State :=
  let s := held (withIdle idle1) 0x14 1
  { s with dev := s.dev.setMb 1 y }
theorem test_hyp_cancel : Rung (stCancel {}).dev 0 0x14 ∧ ((stCancel {}).dev.mb 1).state.live = false
    ∧ ((stCancel { state := .accepted }).dev.mb 1).seq.toNat = ((stCancel {}).dev.mb 0).arg 2 2
    ∧ ((stCancel { state := .preempted, job := .run 1 0 }).dev.mb 1).job = .run 1 0
    ∧ ((stCancel { state := .partial_, job := .run 1 0 }).dev.mb 1).state.started = true
    ∧ ((stCancel { state := .running, job := .loading 1 }).dev.mb 1).job = .loading 1
    ∧ ((stCancel { state := .running, job := .moving 3 [] [2] 0 0 }).dev.mb 1).job = .moving 3 [] [2] 0 0
    ∧ ((stCancel { state := .running, job := .run 1 0, applying := true }).dev.mb 1).applying = true
    ∧ 15 < ((held id 0x14 16).dev.mb 0).arg 0 1 ∧ ((held id 0x14 0).dev.mb 0).arg 0 1 = 0
    ∧ (∀ op ∈ [0x20, 0x72], ∀ n ∈ [0, 1], ((stCancel { state := .running, job := .working none n 8, copy := [(0, op)] }).dev.mb 1).opcode = op.toNat)
    ∧ (∀ j ∈ [Job.none, .posted none [] 0 0 0, .forming 1, .feeding none, .region 1 [] 0 false, .region 1 [] 0 true, .preempting 1, .offline 3, .meter 0,
          .comparing 1, .changing [5]], ((stCancel { state := .running, job := j }).dev.mb 1).job = j) := by decide +kernel
theorem test_hyp_unload : Rung (held (withIdle idle1) 0x11 1).dev 0 0x11 ∧ sectionBusy (held (withIdle idle1) 0x11 1).dev 1 = false
    ∧ (held (withIdle idle1) 0x11 1).dev.section? 1 = some idle1 := by decide +kernel
/-- EPOCH_REQUEST for a running section of a formed set, whose command is in mailbox 1. -/
def stEpoch : State :=
  let s := held (fun d => { (withIdle { secOf 0x13 with state := .running, mbx := some 1 } d) with set := { d.set with handle := 1, state := 2 } }) 0x17 1
  { s with dev := s.dev.setMb 1 { state := .running } }
theorem test_hyp_epoch : Rung stEpoch.dev 0 0x17 ∧ hasLinks (secOf 0x13).pkg = true ∧ linkEpochBarrier (secOf 0x13).pkg ≠ 0xFFFF
    ∧ ((taken 0 stEpoch.dev).mb 1).state.started = true := by decide +kernel
/-- An accepted RUN of section 1. -/
def stAccepted : State := { stRun with dev := stRun.dev.setMb 0 { (stRun.dev.mb 0) with rung := false, state := .accepted } }
theorem test_hyp_command_start : (stAccepted.dev.mb 0).waitsToRun = true ∧ meridianRuns stAccepted.dev = true
    ∧ sectionsIdle stAccepted.dev (stAccepted.dev.mb 0) = true ∧ startFault stAccepted.dev (stAccepted.dev.mb 0) = none
    ∧ (stAccepted.dev.mb 0).stages = [1] ∧ (∀ j < 16, j ≠ 0 → (stAccepted.dev.mb j).waitsToRun = false) := by decide +kernel

/-- The command of mailbox 0 runs stage 0 in section 1, whose one core has finished. -/
def stFinished (cmd : State) (upd : Nat) : State :=
  { cmd with dev := { (cmd.dev.setCore 0 { section_ := some 1, seq := { state := .finished } }).setMb 0 { (cmd.dev.mb 0) with
      rung := false, state := .running, job := .run 1 0, copy := Ram.blit (cmd.dev.mb 0).copy 21 1 upd } with
    sections := [{ idle1 with state := .running, mbx := some 0 }, { idle1 with handle := 2 }] } }
theorem test_hyp_command_end : ∀ upd ∈ [0, 1], let s := stFinished stRun upd
    let e := stopStreams [0] s.dev
    (s.dev.mb 0).job = .run 1 0 ∧ s.dev.set.handle ≠ 1 ∧ allFinished s.dev { idle1 with state := .running, mbx := some 0 } = true
      ∧ (e.mb 0).state.started = true ∧ lastStage (s.dev.mb 0) 0 = true ∧ (s.dev.mb 0).update = (upd == 1)
      ∧ recordsPoison e { idle1 with state := .running, mbx := some 0 } = none ∧ (e.mb 0).stages = [1] := by decide +kernel
/-- The same of a fused command of sections 1 and 2. -/
def stStages : State := stFinished (held (withIdle idle1) 0x13 (0xFFFFFFFF + (2 <<< (8 * 0x88)) + (0x200000001 <<< (8 * 0x90)))) 0
theorem test_hyp_handover : lastStage (stStages.dev.mb 0) 0 = false ∧ (stStages.dev.mb 0).stages = [1, 2]
    ∧ (stStages.dev.section? 2).map (·.state) = some .idle := by decide +kernel
theorem test_hyp_comparing : ({ job := .comparing 1 } : Mailbox).job = .comparing 1 ∧ (stFinished stRun 0).dev.section? 1 ≠ none
    ∧ (digestReads idle1 none (stFinished stRun 0).dev).2 = none := by decide +kernel
/-- A section whose one replicated group has one page, which is not allocated. -/
def replicated1 : Section := { secOf 0x12 with pkg := Ram.blit (Ram.blit (secOf 0x12).pkg 0 4 1) 0x247 1 0x10 }
theorem test_hyp_comparing_error : (digestReads replicated1 none State.reset.dev).2 = some (0x13, 0) := by decide +kernel
/-- A RUN with a deadline of 5 µs, accepted at 0 and running. -/
def stDeadline (policy : BitVec 2) (st : MbxState) (j : Job) : State :=
  let s := held (fun d => { (withIdle idle1 d) with now := 5, sched := { d.sched with policy := policy } }) 0x12 (1 + (5 <<< (8 * 0x14)))
  { s with dev := s.dev.setMb 0 { (s.dev.mb 0) with rung := false, state := st, job := j } }
theorem test_hyp_deadline : ∀ st ∈ [MbxState.accepted, .running], let s := stDeadline 2 st (if st = .running then .run 1 0 else .none)
    isRunOp (s.dev.mb 0).opcode = true ∧ (s.dev.mb 0).deadline = 5 ∧ deadlinePassed s.dev (s.dev.mb 0) = true ∧ s.dev.sched.policy = 2
      ∧ (s.dev.mb 0).waitsToRun = (st == .accepted) := by decide +kernel

/-! ### Pre-emption -/

/-- A section of the smallest package: no logical core, no segment. -/
def small1 (st : SecState) : Section := { handle := 1, pkg := [], len := 0, state := st, cores := [] }
def stSec (op args : Nat) (sec : Section) : State :=
  held (fun d => { (d.setCore 0 { section_ := some 1 }) with sections := [sec] }) op args
theorem test_hyp_preempt_idle : let s := stSec 0x15 1 (small1 .idle)
    let e := flushStores [] (settleTokens (small1 .idle) (settleSync (small1 .idle) (taken 0 s.dev)))
    Rung s.dev 0 0x15 ∧ checkPreempt s.dev (s.dev.mb 0) = 0 ∧ regionPending s.dev 1 = false ∧ e.section? 1 = some (small1 .idle)
      ∧ recordsPoison e (small1 .idle) = none := by decide +kernel
theorem test_hyp_preempt_running : let s := stSec 0x15 1 { small1 .running with cores := [0, 1] }
    Rung s.dev 0 0x15 ∧ checkPreempt s.dev (s.dev.mb 0) = 0 ∧ regionPending s.dev 1 = false ∧ [0, 1].Nodup
      ∧ applyBegun s.dev { small1 .running with cores := [0, 1] } = false
      ∧ (∀ r ∈ (some (⟨0, 0, 0⟩, 0, .corrected) : MuErr), r.2.2 ≠ .uncorrected)
      ∧ checkPreempt (stSec 0x15 1 (small1 .preempted)).dev (s.dev.mb 0) = 0 := by decide +kernel
/-- A saved section that a placement fits, and one whose package names a core that does not exist. -/
def save0 : Save := ⟨[], [], [], [], [], [], [], [], [], false⟩
theorem test_hyp_resume : let s := stSec 0x16 1 { small1 .preempted with save := some save0 }
    Rung s.dev 0 0x16 ∧ checkResume s.dev (s.dev.mb 0) = 0 ∧ (resumeSection 1 (taken 0 s.dev)).toOption.isSome = true
      ∧ (resumeSection 1 (taken 0 (stSec 0x16 1 (small1 .preempted)).dev)).toOption.isNone = true
      ∧ checkResume (stSec 0x16 1 (small1 .idle)).dev (s.dev.mb 0) = 0 := by decide +kernel
theorem test_hyp_core_offline : Rung (held id 0x41 3).dev 0 0x41 ∧ coreSection (held id 0x41 3).dev 3 = none ∧ ((held id 0x41 3).dev.mb 0).arg 1 7 = 0
    ∧ Rung (held id 0x42 15).dev 0 0x42 ∧ ((held id 0x42 15).dev.mb 0).arg 0 1 = 15
    ∧ (let s := stSec 0x41 0 { small1 .running with cores := [0] }
       Rung s.dev 0 0x41 ∧ coreSection s.dev 0 = some { small1 .running with cores := [0] } ∧ hasCover { small1 .running with cores := [0] } = false
         ∧ (regionJob s.dev 1).isNone = true) := by decide +kernel
/-- The apply phase of a running section's command has begun. -/
def stApplying : State :=
  let s := stSec 0x15 1 { small1 .running with cores := [0], mbx := some 2 }
  { s with dev := s.dev.setMb 2 { state := .running, job := .run 1 0, applying := true } }
theorem test_hyp_preempt_applying : applyBegun stApplying.dev { small1 .running with cores := [0], mbx := some 2 } = true
    ∧ checkPreempt stApplying.dev (stApplying.dev.mb 0) = 0 ∧ regionPending stApplying.dev 1 = false := by decide +kernel
/-- A RESUME whose re-placement has not completed. -/
theorem test_hyp_resume_again : let s := stSec 0x16 1 (small1 .preempted)
    let d := s.dev.setMb 0 { (s.dev.mb 0) with rung := false, state := .running, job := .working (some 1) 0 0 }
    (d.mb 0).opcode = 0x16 ∧ (d.mb 0).between = true ∧ serviceOn d = true := by decide +kernel
/-- A pre-empting section whose core 0 is suspended; its command is in mailbox 2. -/
def stSave : State :=
  { State.reset with dev := { (State.reset.dev.setCore 0 { section_ := some 1, seq := { state := .suspended }, quiesce := 2000000 }) with
      sections := [{ small1 .preempting with cores := [0], mbx := some 2 }],
      host := { State.reset.dev.host with mbx := [(2, { state := .running, job := .run 1 0 })] } } }
set_option maxRecDepth 100000 in
theorem test_hyp_preemption_save : let sec := { small1 .preempting with cores := [0], mbx := some 2 }
    let e := flushStores [0] (settleTokens sec (settleSync sec stSave.dev))
    stSave.dev.section? 1 = some sec ∧ allStopped stSave.dev sec = true ∧ allFinished stSave.dev sec = false
      ∧ quiescent stSave.dev sec = true ∧ e.section? 1 = some sec ∧ recordsPoison e sec = none ∧ (e.mb 2).state.started = true
      ∧ (e.mb 2).job = .run 1 0 ∧ coreSection stSave.dev 0 = some sec ∧ 2000000 ≤ (stSave.dev.core 0).quiesce := by decide +kernel
theorem test_hyp_auto_resume : let s := stSec 0 0 { small1 .preempted with save := some save0, autoResume := true }
    meridianRuns s.dev = true ∧ s.dev.sections.filter (autoResumes s.dev) = s.dev.sections
      ∧ (resumeSection 1 s.dev).toOption.isSome = true := by decide +kernel
theorem test_hyp_unit_failure : coreSection State.reset.dev 0 = none ∧ State.reset.dev.sched.offline.getLsbD 0 = false
    ∧ State.reset.dev.sched.hostOffline.getLsbD 0 = false := by decide +kernel

/-! ### Loading -/

theorem test_hyp_load : Rung (held id 0x10 2).dev 0 0x10 ∧ checkLoad (held id 0x10 2).dev ((held id 0x10 2).dev.mb 0) = 0
    ∧ checkLoad (held id 0x10 0).dev ((held id 0x10 0).dev.mb 0) = 0
    ∧ (stageBytes (taken 0 (held id 0x10 0).dev) false 0 0).toOption = some []
    ∧ signatureOk (packageKeys (held id 0x10 0).dev) [] 0 = false
    ∧ namedLength (held id 0x10 0).dev ((held id 0x10 0).dev.mb 0) = some 0
    ∧ hostStream ((held id 0x10 2).dev.mb 0) = false ∧ (∀ j < 16, ((held id 0x10 0).dev.mb j).opcode = 0x10 → ((held id 0x10 0).dev.mb j).between = false)
    ∧ bitOf (((held id 0x10 0x200).dev.mb 0).arg 1 1) 1 = true ∧ checkLoad (held id 0x10 0x200).dev ((held id 0x10 0x200).dev.mb 0) = 0
    ∧ (stageBytes (held id 0x10 1).dev true 0 16).toOption.isNone = true := by decide +kernel
theorem test_hyp_load_room : CanStage (held id 0x10 0).dev 0 0 := by
  refine Or.inr ⟨by decide +kernel, by decide +kernel, ?_⟩
  intro k hk _ ha
  have e : (held id 0x10 0).dev.mb k = ({} : Mailbox) := by
    show Tab.getD (Tab.set ([] : Tab Mailbox) 0 _) k ({} : Mailbox) = _
    rw [Tab.getD_set]; simp [hk, Tab.getD, Tab.find]
  rw [e] at ha; cases ha
/-- A LOAD between two of its rows. -/
theorem test_hyp_load_again : let d := (held id 0x10 0).dev.setMb 0 { ((held id 0x10 0).dev.mb 0) with rung := false, state := .running, job := .working none 0 0 }
    serviceOn d = true ∧ (d.mb 0).opcode = 0x10 ∧ (d.mb 0).between = true ∧ d.host.d3 = false := by decide +kernel
theorem test_hyp_load_alone : NoneWaits (held id 0x10 2).dev 0 [0x10] := by
  intro k hk ha
  have e : (held id 0x10 2).dev.mb k = ({} : Mailbox) := by
    show Tab.getD (Tab.set ([] : Tab Mailbox) 0 _) k ({} : Mailbox) = _
    rw [Tab.getD_set]; simp [hk, Tab.getD, Tab.find]
  rw [e] at ha; cases ha
theorem test_hyp_place : (placeSection (small1 .loading) State.reset.dev).toOption.isSome = true ∧ hasLinks (small1 .loading).pkg = false
    ∧ ((placeSection (small1 .loading) State.reset.dev).toOption.map (fun r => ((r.1.section? r.2.handle).isNone, r.2.cores)))
        = some (true, []) := by decide +kernel
/-- A region stream of one record, for logical core 0 and its unit 0, with no frame. -/
def stream1 : Memory := Ram.blit ([] : Memory) 6 74 (1 + (1 <<< (8 * 66)))
def run0 : Section := { small1 .running with cores := [0] }
def stRegion (sent : Bool) : State :=
  let s := stSec 0x18 1 run0
  { s with dev := s.dev.setMb 0 { (s.dev.mb 0) with rung := false, state := .running, job := .region 1 stream1 80 sent } }
theorem test_hyp_region_load : Rung (stSec 0x18 1 run0).dev 0 0x18 ∧ checkRegion (stSec 0x18 1 run0).dev ((stSec 0x18 1 run0).dev.mb 0) = 0
    ∧ (stageBytes (taken 0 (stSec 0x18 1 run0).dev) false 0 0).toOption = some []
    ∧ hostStream ((stSec 0x18 (1 + (1 <<< 32)) run0).dev.mb 0) = false ∧ checkRegion (stSec 0x18 (1 + (1 <<< 32)) run0).dev ((stSec 0x18 (1 + (1 <<< 32)) run0).dev.mb 0) = 0
    ∧ signatureOk (packageKeys (stSec 0x18 1 run0).dev) [] 0 = false := by decide +kernel
theorem test_hyp_region_turn : ((stRegion false).dev.mb 0).opcode = 0x18 ∧ serviceOn (stRegion false).dev = true
    ∧ (stRegion false).dev.section? 1 = some run0 ∧ unitsClear (stRegion false).dev (regionUnits run0 stream1) = true
    ∧ rsRegion stream1 = [(0, 1)] ∧ (∀ j < 16, j ≠ 0 → ((stRegion false).dev.mb j).job = .none) := by decide +kernel
/-- Core 0, held by `sec` or free, at an entry boundary with one control message and a configuration stream. -/
def stCtrl (sec : Option Nat) (m : CtrlMsg) (g : CfgState) : State :=
  { State.reset with dev := { ((State.reset.dev.setCore 0 { section_ := sec, cfg := g }).setCtrl 0 [m]) with sections := [run0] } }
theorem test_hyp_cfg_begin : ∀ mode ∈ [0, 1, 2], ctrlNow (stCtrl none (.cfgBegin mode 1 3) {}).dev 0 = some (.cfgBegin mode 1 3)
    ∧ maskUnits 0 3 = [0, 1] ∧ coreSection (stCtrl none (.cfgBegin mode 1 3) {}).dev 0 = none := by decide +kernel
/-- A frame of part 1 of row 2, column 3, context 1, before its CRC is written and with it. -/
def frame0 : Memory :=
  let f := Ram.blit ([] : Memory) 0 4 (physAddr 0 3 1 9)
  let f := Ram.blit (Ram.blit (Ram.blit f 4 1 1) 5 1 1) 6 1 0
  Ram.blit (Ram.blit f 8 4 0) 0x10 4096 7
def frame1 : Memory := makeFrame (physAddr 0 3 1 9) 1 0 0 7
theorem frame1_eq : frame1 = fixCrc frame0 0 := rfl
theorem test_frame_sound : frameOk 1 frame1 = true := by
  rw [frame1_eq, frameOk_fixCrc]; decide +kernel
theorem test_frame_place : bitsOf (frAddr frame1) 24 4 = 3 := by
  rw [frame1_eq, frAddr, fld_fixCrc _ _ _ (by omega)]; decide +kernel
theorem test_frame_unsound : frameOk 1 [] = false := by
  have h : (fld ([] : Memory) 4 1 = 1) = False := by simp [fld, Ram.slice]
  simp [frameOk, h]
theorem test_hyp_cfg_frame :
    ctrlNow (stCtrl none (.cfgFrame none frame1) { open_ := true }).dev 0 = some (.cfgFrame none frame1) := rfl
theorem test_hyp_cfg_commit : ctrlNow (stCtrl none .cfgCommit { open_ := true, mode := 1 }).dev 0 = some .cfgCommit
    ∧ coreSection (stCtrl none .cfgCommit {}).dev 0 = none ∧ coreSection (stCtrl (some 1) .cfgCommit {}).dev 0 = some run0
    ∧ (regionJob (stCtrl (some 1) .cfgCommit {}).dev 1).isNone = true
    ∧ ctrlNow (stCtrl none .cfgAbort { open_ := true, mode := 2 }).dev 0 = some .cfgAbort := by decide +kernel
/-- Core 0 has staged the 16 frames of its unit, which is still. -/
def stReady : State :=
  let s := stRegion true
  { s with dev := s.dev.setCore 0 { section_ := some 1, regionWait := 2000000, cfg := { open_ := true, mode := 2, units := 1, frames := 16 } } }
theorem test_hyp_region_ready : coreSection stReady.dev 0 = some run0 ∧ regionJob stReady.dev 1 = some (0, stream1)
    ∧ (rsRegion stream1).find? (fun r => run0.phys r.1 = 0) = some (0, 1)
    ∧ 16 * ((List.range 64).filter (fun b => bitOf 1 b)).length = 16 ∧ regionStill stReady.dev run0 false (maskUnits 0 1) = true
    ∧ (stReady.dev.mb 0).force = false := by decide +kernel

/-! ### Power-on, resets and power loss -/

/-- The block after one command. -/
def after (i : Instr) (s : State) : Device := match exec i s with | .next t => t.dev | _ => Device.reset
def withBoot (b : Boot) : State := { State.reset with dev := { State.reset.dev with boot := b } }
/-- Powered, no firmware yet; BOOT_SEL as given. -/
def stRom (sel : Nat) (b : Boot) : State :=
  let s := withBoot { b with powered := true, service := 1 }
  { s with dev := { s.dev with now := 2000000, host := { s.dev.host with straps := BitVec.ofNat 21 (sel <<< 10) } } }
theorem test_hyp_power_on : (withBoot {}).dev.boot.powered = false
    ∧ bootRomRuns (stRom 0 {}).dev = true ∧ (stRom 0 {}).dev.boot.exhausted = false ∧ bootPlan (stRom 0 {}).dev = [0, 2]
    ∧ bootRomRuns (stRom 2 { attempt := 1 }).dev = true ∧ bootSel (stRom 2 { attempt := 1 }).dev = 2
    ∧ activeSlot (stRom 2 { attempt := 1 }).dev.mgmt = 0
    ∧ (withBoot { powered := true, firmware := true, service := 1 }).dev.boot.service = 1 := by decide +kernel
/-- A boot attempt on the empty slot A fails with the code of a bad signature, and the recovery image is next. -/
def stRom2 : State := { stRom 0 {} with dev := { (stRom 0 {}).dev with mgmt := { almanacNext := 2 } } }
theorem test_boot_empty : ((after .bootAttempt stRom2).boot.lastError, (after .bootAttempt stRom2).boot.attempt,
    (after .bootAttempt stRom2).boot.firmware) = (0x22, 1, false) := by decide +kernel
def ready0 : Boot := { State.reset.dev.boot with perstCount := 7 }
theorem test_hyp_resets : ready0.powered = true ∧ ready0.perstLow = false ∧ ready0.resetting = false ∧ ready0.service = 2
    ∧ ready0.warmLow = false ∧ (withBoot { ready0 with resetting := true, perstLow := true }).dev.boot.resetting = true
    ∧ coreSection State.reset.dev 3 = none ∧ corePowered State.reset.dev 3 = true
    ∧ coreSection (withSection sec1 State.reset).dev 0 = some sec1
    ∧ liveMbx ((withSection sec1 State.reset).dev.setMb 0 { state := .running }) sec1 = some 0 := by decide +kernel
theorem test_mod_ready : modReady State.reset.dev = true ∧ modReady (stRom 0 {}).dev = false := by decide +kernel
theorem test_hyp_power_loss : State.reset.dev.boot.powered = true ∧ State.reset.dev.power.tripped = false
    ∧ State.reset.dev.power.quadrantOff.getLsbD 1 = false ∧ meridianRuns State.reset.dev = true
    ∧ 61000 < (61001 : BitVec 32).toNat ∧ (46999 : BitVec 32).toNat < 47000
    ∧ (1760 : Int) ≤ (1760 : BitVec 16).toInt ∧ (1840 : Int) ≤ (1840 : BitVec 16).toInt := by decide +kernel
/-- RESET_STATUS of a ready module after one function-level reset (the example of chapter 18). -/
theorem test_flr_status : bar0Word (withBoot { ready0 with perstCount := 0, last := 2, flrCount := 1 }).dev 0x300030 = 0x000000010000000A := by
  decide +kernel

/-! ### Reference steps, ports and flits -/

theorem test_hyp_reference_step : monitorRuns State.reset.dev 3 = true ∧ (State.reset.dev.core 3).fab.idleSteps ≤ 2000000
    ∧ monitorRuns { State.reset.dev with power := { basePower with tripped := true } } 3 = false
    ∧ sectionRuns (withSection sec1 stMove).dev 0 = true ∧ (1 : Nat) / 80 = 0
    ∧ stallCause { (withSection sec1 stMove).dev with units := [(1, { unitAt (word 1 0 15 6 1) with flight := [{ pos := 0, word := word 1 0 15 6 1, ctx := 0, occ := 0 }] })] } 0 1
        { unitAt (word 1 0 15 6 1) with flight := [{ pos := 0, word := word 1 0 15 6 1, ctx := 0, occ := 0 }] } = some 5
    ∧ min 2000000 (1999999 + bit01 true) = 2000000 ∧ coreSection (withSection sec1 stMove).dev 0 = some sec1
    ∧ ftqFull (unitAt (word 0x21 15 15 1 (2 <<< 36))) = false := by decide +kernel
def withPort (x : Port) : State := { State.reset with dev := { State.reset.dev with now := 5000000, ports := [(2, x)] } }
theorem test_hyp_ports_train : ((withPort {}).dev.port 2).state = 1 ∧ ((withPort {}).dev.port 2).trained = false
    ∧ ((withPort { trained := true }).dev.port 2).trained = true ∧ (0 : BitVec 16).toNat = ownNode (withPort {}).dev
    ∧ (5 : BitVec 16).toNat ≠ ownNode (withPort {}).dev
    ∧ ((withPort { state := 3 }).dev.port 2).since + 1000000 ≤ (withPort { state := 3 }).dev.now
    ∧ (withPort { trained := true, since := 4999900 }).dev.now ≤ 4999900 + 100 ∧ 4999899 + 100 < (withPort {}).dev.now
    ∧ (withPort { state := 2 }).dev.set.usedPorts.getLsbD 2 = false := by decide +kernel
/-- A packet of CHANNEL with a body of 20 bytes, and one of CONTROL. -/
def pk (typ len : Nat) : Packet := ⟨typ, 0, 4, false, len, 0, 0, 0, 5⟩
def stFlit (f : Port → Port) : State := withPort (f { state := 2, txq := [(2, [pk 1 20])] })
theorem test_hyp_flit_send : pickPool ((stFlit id).dev.port 2) = some 2 ∧ ((stFlit id).dev.port 2).resend = []
    ∧ pickPool ((withPort { state := 2 }).dev.port 2) = none
    ∧ (1 : Nat) ≤ ((stFlit fun x => { x with resend := [(1, 0)], replay := [(1, 0)] }).dev.port 2).resend.length
    ∧ ((withPort { state := 2, nakDue := true, gap := some 0 }).dev.port 2).nakDue = true
    ∧ ((withPort { state := 2, replay := [(1, 0)], replayRow := 16 }).dev.port 2).ackAt + 20 ≤ 5000000 := by decide +kernel
/-- The first DATA flit of a port: SEQ 1, and its CRC is good. -/
def flit1 : BitVec 2048 := (((after (.data 2 .send) (stFlit id)).port 2).lastSent).getD 0
set_option maxRecDepth 100000 in
theorem test_flit_fields : bitsOf flit1.toNat 0 2 = 1 ∧ bitsOf flit1.toNat 2 2 = 1 ∧ bitsOf flit1.toNat 16 12 = 1
    ∧ bitsOf flit1.toNat 28 12 = 0 ∧ bitsOf flit1.toNat 64 8 = 1 := by decide +kernel
set_option maxRecDepth 100000 in
theorem test_flit_good : flitGood flit1 true = true := by decide +kernel
set_option maxRecDepth 100000 in
/-- It is the flit that a fresh port expects, and its packet is the one sent. -/
theorem test_flit_received : ((after (.data 2 (.receive flit1 [])) (withPort { state := 2 })).port 2).expect = 2
    ∧ Tab.getD ((after (.data 2 (.receive flit1 [])) (withPort { state := 2 })).port 2).rx 2 [] = [pk 1 20] := by decide +kernel
/-- An IDLE and a NAK flit acknowledge up to SEQ 0. -/
def flitOf (typ : Nat) : BitVec 2048 := (emitFlit (flitBody typ 0 none 1 0) {}).lastSent.getD 0
theorem test_hyp_codewords : ({ state := 2, width := 2 } : Port).lanes.all (fun e => !e.2.2) = true
    ∧ (decodeWords [.clean, .clean] { state := 2 }).1 = true ∧ (decodeWords [.clean, .uncorrectable] { state := 2 }).1 = false
    ∧ (decodeWords [.clean, .corrected] { state := 2 }).2.corrected = 1 ∧ (decodeWords [.clean, .uncorrectable] { state := 2 }).2.uncorr = 1 := by
  decide +kernel
set_option maxRecDepth 100000 in
theorem test_hyp_flit_receive : flitGood (flitOf 0) true = true ∧ bitsOf (flitOf 0).toNat 0 2 = 0
    ∧ ([(0, 0)] : List (BitVec 12 × BitVec 2048)).findIdx? (fun e => e.1.toNat = bitsOf (flitOf 0).toNat 28 12) = some 0
    ∧ flitGood (flitOf 2) true = true ∧ bitsOf (flitOf 2).toNat 0 2 = 2
    ∧ (takeCommon 0 (flitOf 2) { state := 2, replay := [(1, 0)] }).replay = [(1, 0)]
    ∧ flitGood 1 true = false := by decide +kernel

/-! ### Packets and sets -/

/-- The head of pool 2 of port 2 is this packet; the module is in a set. -/
def stPacket (k : Packet) (t : LinkSet) (sec : Section) : State :=
  { State.reset with dev := { State.reset.dev with now := 9000000, ports := [(2, { state := 2, rx := [(2, [k])] })], set := t, sections := [sec] } }
def formed1 : LinkSet := { state := 2, handle := 1, nodes := [0, 4], parent := some 4, usedPorts := 4 }
def linked : Section := { run0 with mbx := some 0 }
theorem test_hyp_channel_packets : headPacket (stPacket (pk 1 20) formed1 linked).dev 2 2 = some (pk 1 20)
    ∧ (pk 1 20).dest = ownNode (stPacket (pk 1 20) formed1 linked).dev
    ∧ ofSet (stPacket (pk 1 20) formed1 linked).dev (pk 1 20) = true ∧ linked.save.isNone = true
    ∧ (stPacket (pk 1 20) formed1 linked).dev.section? 1 = some linked
    ∧ ({ role := 2, dest := ⟨4, 0, 0⟩ } : Ep).sendsTo (chanSrc { pk 5 0 with src := 4 }) 0 = true ∧ ({} : Ep).sendsTo (chanSrc (pk 5 0)) 0 = false
    ∧ bitsOf ({ pk 5 0 with arg := 2 ^ 23 } : Packet).arg 23 1 = 1 ∧ bitsOf (pk 5 0).arg 23 1 = 0
    ∧ ofSet (stPacket (pk 1 20) { formed1 with setId := 3 } linked).dev (pk 1 20) = false := by decide +kernel
def forming1 : LinkSet := { formed1 with state := 1, parent := none, children := [4] }
/-- SET_HELLO of node 4 with this package's tag and firmware. -/
def hello : Packet := { pk 0x14 18 with arg := 1, body := pkgTag linked.pkg + (1 <<< 128) }
theorem test_hyp_sets_form : bitsOf hello.body 0 128 = pkgTag linked.pkg
    ∧ bitsOf hello.body 128 16 = (stPacket hello forming1 linked).dev.boot.fwMajor.toNat
    ∧ (∀ n ∈ forming1.children, (Tab.find (Tab.set forming1.heard 4 (bitsOf hello.arg 0 11)) n).isSome = true)
    ∧ Tab.find (Tab.set forming1.heard 4 (bitsOf hello.arg 0 11)) 5 = none
    ∧ formingMbx ((stPacket hello { forming1 with formTimeout := 3 } linked).dev.setMb 0 { job := .forming 1 }) = some 0
    ∧ 1000000 * (3 : BitVec 16).toNat ≤ (stPacket hello forming1 linked).dev.now
    ∧ bitsOf (pk 0x14 18).body 0 128 ≠ pkgTag linked.pkg := by decide +kernel
def stSet (k : Packet) : State := stPacket k formed1 linked
theorem test_hyp_sets_lose : (stSet (pk 0x12 0)).dev.set.beatAt + 1000 ≤ (stSet (pk 0x12 0)).dev.now ∧ meridianRuns (stSet (pk 0x12 0)).dev = true
    ∧ 4 ∈ treeNodes (stSet (pk 0x12 0)).dev ∧ Tab.getD formed1.beats 4 0 + heartbeatLimit (stSet (pk 0x12 0)).dev ≤ 9000000
    ∧ bitsOf (pk 0x13 0).arg 0 10 ∈ formed1.nodes ∧ bitsOf ({ pk 0x13 0 with arg := 9 } : Packet).arg 0 10 ∉ formed1.nodes
    ∧ (∃ l ∈ [(4, 1)], l.1 = bitsOf ({ pk 0x13 0 with arg := 4 } : Packet).arg 0 10) ∧ 4 ∈ formed1.nodes
    ∧ formed1.usedPorts.getLsbD 2 = true ∧ ofSet (stSet (pk 0x13 0)).dev (pk 0x13 0) = true := by decide +kernel
/-- The set halts and core 0 has not stopped in time. -/
def stHalting : State :=
  let s := stPacket (pk 1 0) { formed1 with state := 3 } linked
  { s with dev := (s.dev.setMb 0 { state := .running }).setCore 0 { section_ := some 1, quiesce := 2000000 } }
theorem test_hyp_halting : liveMbx stHalting.dev linked = some 0 ∧ linked.state = .running
    ∧ (∃ c ∈ linked.cores, 2000000 ≤ (stHalting.dev.core c).quiesce) := by decide +kernel
def there : Packet := { pk 1 0 with dest := 1 }
def bcast1 : Broadcast := ⟨0, 0, 0, some 0, 0, 0, 0, [], none⟩
def fed : Broadcast := { bcast1 with feeder := some (0, 0) }
def config1 (arg : Nat) : Packet := { pk 0x30 32 with bcast := true, arg := arg, body := 64 <<< 64 }
theorem test_hyp_packets_go_on : nextPort formed1.dimsActive 0 there.dest = some (1, false) ∧ there.dest ≠ ownNode (stSet there).dev
    ∧ nextPort 0 0 there.dest = none ∧ knownType (pk 7 0).typ = false
    ∧ inDims 0 (ownNode (stSet (config1 0)).dev) = true ∧ inDims 0 (config1 0).dest = true
    ∧ bitsOf (config1 0).body 0 64 + ((config1 0).len - 16) < bitsOf (config1 0).body 64 64
    ∧ (∀ q ∈ bcastSends 1 1 0, portTakes 4 ((stSet (config1 1)).dev.port q) = true ∧ portTakes 5 ((stSet (config1 1)).dev.port q) = true)
    ∧ portTakes 4 { state := 2, txq := [(4, [config1 1])] } = false ∧ inDims 1 1 = true
    ∧ inDims 0 1 = false ∧ (formed1.bcasts = []) := by decide +kernel
/-- Node 1 of a line of two nodes acknowledges to node 0. -/
def ackOf1 : Packet := { pk 0x31 8 with src := 1 }
theorem test_hyp_config_ack : bcastChildren (stSet ackOf1).dev { bcast1 with dims := 1 } = [1]
    ∧ ([({ bcast1 with dims := 1 } : Broadcast)].find? (fun b => b.id = ackOf1.set && (bcastChildren (stSet ackOf1).dev b).contains ackOf1.src
        && !b.acked.contains ackOf1.src)).isSome = true := by decide +kernel
theorem test_hyp_bcast_timeout : [fed].find? (fun b => match b.feeder with
    | some f => decide (f.2 + 1000000 * ({} : LinkSet).bcastTimeout.toNat ≤ 300000000)
    | none => false) = some fed := by decide +kernel

/-! ### The Sextant -/

def withMeter (t : Nat) (m : Meter) : State := { State.reset with dev := { State.reset.dev with now := t, meter := m } }
def job1 : JobRecord := ⟨0, false, false, false, 4, 7, 0, 0, 100⟩
def meter1 : Meter := { shares := [(7, 4)], regs := { open_ := [job1] }, shareAge := 10, checkpointAge := 60000, pulses := 1, pulseAge := 80 }
theorem test_hyp_sextant : meter1.running = true ∧ meter1.nextShares = none ∧ job1.tag = 7 ∧ 10 ≤ meter1.shareAge ∧ 60000 ≤ meter1.checkpointAge
    ∧ meter1.pulsesEmitted < meter1.pulses ∧ false ≠ meter1.regs.sealIntact ∧ calMode meter1 = false
    ∧ calMode { meter1 with calJumper := true, regs := { meter1.regs with sealIntact := false } } = true
    ∧ ({ meter1 with running := false, failSave := some ({}, []) } : Meter).failSave = some ({}, []) := by decide +kernel
/-- 1 ms at 3,600 W registers 1,000 µWh; a quarter of it is the share of 4 cores (R506, R516). -/
theorem test_meter_interval : (meterInterval 3600000000 56000 64286 meter1).regs.total = 1000000
    ∧ (meterInterval 3600000000 56000 64286 meter1).regs.open_.map (·.energy) = [250100]
    ∧ (meterInterval 3600000000 56000 64286 meter1).regs.idle = 750000 := by decide +kernel
def stBus (f : MeterFrame) (w : List (Option Nat × Nat)) : State :=
  let s := withMeter 2000000 { bus := [f], waiting := w }
  { s with dev := s.dev.setMb 0 { state := .running, job := .meter 0 } }
theorem test_hyp_meter_bus : (withMeter 2000000 {}).dev.meter.polledAt + 1000000 ≤ 2000000 ∧ meridianRuns (withMeter 2000000 {}).dev = true
    ∧ awaitsMeter (stBus (.readRequest (some 0)) [(some 0, 0)]).dev 0 = true ∧ sharesValid [(7, 4)] = true ∧ sharesValid [(7, 17)] = false
    ∧ (stBus (.jobsRequest 0 1 4) []).dev.meter.bus = [.jobsRequest 0 1 4] := by decide +kernel

/-! ### The whole machine -/

theorem test_hyp_front : ({ stNop with pending := [.sharesSend] } : State).pending = [.sharesSend]
    ∧ queueWf { stNop with pending := [.sharesSend] } = true ∧ (Instr.registerWrite (.bar0 0) 8 0).wf = true := by decide +kernel
theorem test_hyp_latched : barsOpen stBars.dev = true ∧ memoriesWf stBars.dev = true
    ∧ (∀ saved loop jumper, State.reset.pending.head? ≠ some (.meterStart saved loop jumper)) ∧ (withBoot {}).dev.boot.powered = false :=
  ⟨by decide +kernel, by decide +kernel, by intro _ _ _ h; simp [State.reset] at h, by decide +kernel⟩
theorem test_idle_steps : (∃ d, step State.reset = .next { State.reset with dev := d }) := ⟨_, rfl⟩
/-- PWR_VCORE after power-up (Table 17.10). -/
theorem test_pwr_vcore : regWord State.reset.dev 5 0 0x68 = 0x02BC02BC02BC02BC := by decide +kernel

/-! ### Further clauses: words, links, contexts, entries, barriers and channels -/

theorem test_hyp_discard_zero : Ready (withUnit 1 (unitAt (word 8 0 15 0 0))).dev cu1.key 8
    ∧ 0 = imm (nextWord (unitAt (word 8 0 15 0 0))) 0 16 ∧ 0 ≤ ((unitAt (word 8 0 15 0 0)).lane 0 0).length := by decide +kernel
/-- MM_ACC and V_FUNC that capture, and go on. -/
theorem test_hyp_goes_on : Ready stMm.dev cu1.key 0x20 ∧ Ready (withUnit 1 (unitAt (word 0x62 8 15 1 (32 <<< 55)))).dev cu1.key 0x62
    ∧ ¬ (vSelA (nextWord (unitAt (word 0x62 8 15 1 (32 <<< 55)))) = 1 ∨ vSelB (nextWord (unitAt (word 0x62 8 15 1 (32 <<< 55)))) = 1) := by
  decide +kernel
/-- Quadrant 1 is off: its links stand still, and a flit that would cross it goes through the hub die. -/
def stDark : Device := { State.reset.dev with power := { State.reset.dev.power with quadrantOff := 2 } }
theorem test_hyp_routes : ((List.range 64).any fun l => linkDark stDark.power.quadrantOff l) = true
    ∧ linkDark stDark.power.quadrantOff 0 = false ∧ onRoute (routeQuads stDark.power.quadrantOff 1 3) 0 = false
    ∧ routeQuads stDark.power.quadrantOff 3 0 = [3, 4, 0] ∧ routeQuads stDark.power.quadrantOff 0 3 = [0, 2, 3]
    ∧ routeQuads 4 0 3 = [0, 4, 3] ∧ 4 ∈ routeQuads 4 0 3 := by decide +kernel
theorem test_hyp_hitch_fits : ({ toHub := List.replicate 31 0 } : Hitch).toHub.length < 32
    ∧ ({ toFabric := List.replicate 31 resp7 } : Hitch).toFabric.length < 32 := by decide +kernel
/-- The reload of context 1 of unit 1, whose frame store page is unallocated. -/
theorem test_hyp_context_fault : (let s := withSection { sec1 with storeBase := [0x10000], storePages := [1] } (stReload true 0)
    coreSection s.dev 0 = some { sec1 with storeBase := [0x10000], storePages := [1] }
      ∧ (storeAt { sec1 with storeBase := [0x10000], storePages := [1] } 1 5 0).isSome = true
      ∧ (storeFault s.dev { sec1 with storeBase := [0x10000], storePages := [1] } 1 5 0).isSome = true) := by decide +kernel
theorem test_hyp_watchdog_jobs : ∀ k e, (stWatchdog.dev.mb k).job ≠ .offline e := by
  intro k e
  show (Tab.getD [(0, ({ state := .running, job := .run 1 0 } : Mailbox))] k {}).job ≠ _
  by_cases h : k = 0 <;> simp [Tab.getD, Tab.find, h]
/-- GATE stays at its maximum (R20). -/
theorem test_hyp_gate : (let t := (withUnit 1 (unitAt (word 0xD2 15 15 0 (3 + (2 <<< 4))))).dev.updSlot 0 3 (fun q => { q with gate := 0xFFFFFFFE })
    Ready t 1 0xD2 ∧ min ((t.slot 0 3).gate.toNat + dqCount (nextWord (t.unit 1))) (2 ^ 32 - 1) = 0xFFFFFFFF) := by decide +kernel
/-- The frame of a freed page 7 waits for its invalidation alone. -/
theorem test_hyp_freeing : (let d : Device := { State.reset.dev with tiers := { State.reset.dev.tiers with invals := [7], freeing := [(7, 0x20, 0)]
                                                                                                           frames := [(0x20 * 2 ^ 19, 1)] } }
    d.tiers.moves = [] ∧ Ram.wf d.tiers.frames = true ∧ (∀ e ∈ d.tiers.freeing, e.1 ∉ ([] : List Nat))) := by decide +kernel
theorem test_hyp_mark : Stands (stEntry 5 7 issuing).dev 0 sec1 codeMark
    ∧ portsBusy sec1 0 (entryAt (stEntry 1 (1 + (2 <<< 64)) issuing).dev 0) (stEntry 1 (1 + (2 <<< 64)) issuing).dev = false := by decide +kernel
/-- A section whose barrier 3 is SYSTEM and has cores 0 and 1. -/
def secBar : Section :=
  { secOf 0x10 with pkg := Ram.blit (secOf 0x10).pkg 0x24C 4 0x10003, state := .running, cores := [0, 1], mbx := some 0 }
/-- A count that is short of complete, at a supervisor and at the root, and complete ones at a root with and without a parent. -/
theorem test_hyp_arrival_short : supDone secBar 0 3 [1] = false ∧ supDone secBar 0 3 [1, 0] = true ∧ barSystem secBar 3 = true
    ∧ barCores secBar 3 = [0, 1] ∧ secBar.save = none
    ∧ (let d : Device := { (stArrival 4).dev with set := { state := 2, handle := 1, nodes := [0, 4], children := [4] }, sections := [secBar] }
       rootDone d secBar 3 [0] = false ∧ rootDone d secBar 3 [0, 20] = true ∧ d.section? 1 = some secBar ∧ d.set.parent = none
         ∧ rootDone { d with set := { d.set with children := [], parent := some 4 } } secBar 3 [0] = true) := by decide +kernel
theorem test_hyp_endpoint_idle : ((stEp {} []).dev.ep 0 0).due = false ∧ ((stEp {} []).dev.ep 0 0).ringHeld = 0 := by decide +kernel
/-- CH_OPEN to node 4 (LOCAL = 0), and one to this node. -/
theorem test_hyp_open_remote : Stands (stEntry 3 (0x21 + (4 <<< 26)) issuing).dev 0 sec1 0x21
    ∧ (entryAt (stEntry 3 (0x21 + (4 <<< 26)) issuing).dev 0).getLsbD 25 = false
    ∧ ephBits (entryAt (stEntry 3 (0x21 + (4 <<< 26)) issuing).dev 0) 26 10 ≠ ownNode (stEntry 3 0 issuing).dev
    ∧ ((stEntry 3 0 issuing).dev.ep 0 0).due = false := by decide +kernel
/-- CH_CLOSE of an open sender and of a listening receiver. -/
def stClose (side : Nat) (x : Ep) : State :=
  let s := stEntry 3 (0x22 + (side <<< 14)) issuing
  { s with dev := s.dev.updCore 0 (fun y => { y with eps := [(0, x)] }) }
theorem test_hyp_close_sides : Stands (stClose 0 { role := 2, state := .open_ }).dev 0 sec1 0x22
    ∧ (entryAt (stClose 0 {}).dev 0).getLsbD 14 = false ∧ ((stClose 0 { role := 2, state := .open_ }).dev.ep 0 0).state = .open_
    ∧ Stands (stClose 1 { role := 1, state := .listen }).dev 0 sec1 0x22
    ∧ (entryAt (stClose 1 {}).dev 0).getLsbD 14 = true ∧ ((stClose 1 { role := 1, state := .listen }).dev.ep 0 0).role = 1 := by decide +kernel
/-- What stands behind the front of the queue waits for its own row. -/
theorem test_hyp_pop : coreSection (stEp {} [.credit (here 0) (here 1) 0 1, .grant (here 0) (here 1) 0 4]).dev 0 = some sec1
    ∧ (∀ m ∈ (Tab.getD (stEp {} [.credit (here 0) (here 1) 0 1, .grant (here 0) (here 1) 0 4]).dev.sync.chan 0 []).tail, m.actsAtOnce = false)
    ∧ ((popChan 0 (stEp { role := 2, state := .pending, dest := here 1 } [.grant (here 0) (here 1) 0 4]).dev).ep 0 0).state = .pending
    ∧ ((popChan 0 (stEp { role := 2, state := .pending, dest := here 1 } [.grant (here 0) (here 1) 0 4]).dev).ep 0 0).sendsTo (here 1) 0 = true
    ∧ ((popChan 0 (stEp { role := 2, state := .open_, dest := here 1 } [.credit (here 0) (here 1) 0 1]).dev).ep 0 0).state = .open_ := by
  decide +kernel
/-- A token with no message of its sender on its way, behind one of it, and for another node. -/
theorem test_hyp_token_order : takeArrival [] (Tab.getD (stSend .open_ 1 0).dev.sync.chan 0 []) = none
    ∧ (∀ m ∈ ([] : List ChMsg), m.sender ≠ (0, 0))
    ∧ takeArrival [] [.open_ (here 0) (here 1) 0 0] = none
    ∧ (∃ m ∈ [ChMsg.open_ (here 0) (here 1) 0 0], m.sender = (ChMsg.token (here 0) (here 1) 0 (tok 9)).sender)
    ∧ (⟨4, 0, 0⟩ : EpName).node ≠ ownNode (stSend .open_ 1 0).dev := by decide +kernel
/-- With no credit the token goes to the overflow ring, whose page is there. -/
theorem test_hyp_overflow : ((stSend .open_ 0 2).dev.ep 0 0).credits = 0 ∧ ((stSend .open_ 0 2).dev.ep 0 0).ringHeld < 2
    ∧ accessFault (stSend .open_ 0 2).dev (((stSend .open_ 0 2).dev.ep 0 0).ringAddr 0) = none
    ∧ tapToken (stSend .open_ 0 2).dev 0 0 = some (1, (tok 9).withChan 5) := by decide +kernel
def runSeq : Seq := { state := .issuing, count := 1 }
theorem test_hyp_suspend_resume : (State.reset.dev.setCtrl 0 [.suspend, .resume]).ctrl 0 = .suspend :: .resume :: []
    ∧ atBoundary runSeq = true ∧ runSeq.walks = true ∧ runSeq.epochStop = false
    ∧ ([CtrlMsg.halt].head? ≠ some .resume) ∧ (∀ m ∈ [CtrlMsg.suspend, .resume], m.overtaken = true) := by decide +kernel

/-! ### Further clauses: power, presence, registers and pages -/

/-- VCORE of quadrant 0 slews: 5 mV/µs down, 1 mV/µs up. -/
def stSlew (p : Power) : Device := { (withPresence 3 {}).dev with power := p }
theorem test_slew_down : vcoreMv (stSlew { basePower with setMv := [600, 700, 700, 700] }) 0 = 685
    ∧ vcoreMv (stSlew { basePower with slewFrom := [600, 700, 700, 700] }) 0 = 603 := by decide +kernel
theorem test_hyp_slew : ∀ k < 4, targetMv (stSlew basePower) k ≠ 0 := by decide +kernel
theorem test_hyp_hub_limit : (meridianRuns (withBoot { ready0 with warmLow := true }).dev = false)
    ∧ ({ basePower with hubTq := [1680, 0, 0, 0] } : Power).hardQ.getLsbD 0 = false
    ∧ (1680 : Int) ≤ ({ basePower with hubTq := [1680, 0, 0, 0] } : Power).hubTq.getD 0 0 := by decide +kernel
theorem test_hyp_long_frame : (List.replicate 26 (1040 : BitVec 32)).length = 26 ∧ (List.replicate 53 (1040 : BitVec 32)).length = 53
    ∧ basePower.hubTq.length = 4 ∧ State.reset.dev.boot.powered = true := by decide +kernel
/-- The input changes at 20 ms after its last change, and 1 µs before that. -/
theorem test_hyp_confirmed : inputsSampled (withPresence 20000 { changedAt := some 0 }).dev = true
    ∧ confirmed (some 0) (withPresence 20000 {}).dev = true ∧ confirmed (some 0) (withPresence 19999 {}).dev = false
    ∧ inputsSampled (withBoot {}).dev = false ∧ true ≠ (withPresence 0 {}).dev.presence.active
    ∧ pressTooLong (withPresence 9999999 { active := true, pressAt := some 0 }).dev = false
    ∧ pressTooLong (withPresence 10000000 { active := true, pressAt := some 0 }).dev = true
    ∧ pressTooLong (withPresence 300000 { pressAt := some 0, releasedAt := some 50000 }).dev = false ∧ 50000 + 250000 ≤ 300000
    ∧ ({ stuck := true, releasedAt := some 5 } : Presence).releasedAt = some 5 ∧ 2000004 < 5 + 2000000 := by decide +kernel
theorem test_hyp_smbus_address : (0x58 : BitVec 7).toNat = 0x58 + bitsOf State.reset.dev.host.straps.toNat 16 3
    ∧ (0x59 : BitVec 7).toNat ≠ 0x58 + bitsOf State.reset.dev.host.straps.toNat 16 3
    ∧ (stRom 0 {}).dev.boot.powered = true ∧ (stRom 0 {}).dev.boot.firmware = false := by decide +kernel
theorem test_hyp_mailbox_busy : ({ state := .running } : Mailbox).state ≠ .idle ∧ ({ rung := true } : Mailbox).rung = true
    ∧ ({ state := .done, seq := 7 } : Mailbox).seq ≠ (8 : BitVec 64).setWidth 16 := by decide +kernel
/-- The words of the strap block and of ingest window 1. -/
theorem test_hyp_bar0_words : barsOpen stBars.dev = true ∧ (0x300020 : BitVec 26).toNat = 0x300000 + 0x20
    ∧ (0x300000 : BitVec 26).toNat = 0x300000 + 0x00
    ∧ (∀ k ∈ [0, 0x10, 0x18, 0x20], (BitVec.ofNat 26 (0x230000 + k)).toNat = 0x210000 + k + 0x20000 * 1 ∧ (0x230000 + k) % 8 = 0)
    ∧ (0x300018 : BitVec 26).toNat = 0x300018 ∧ (0x300028 : BitVec 26).toNat = 0x300028 ∧ (0x300030 : BitVec 26).toNat = 0x300030 := by
  decide +kernel
/-- OVERRUN clears by writing 1 alone. -/
theorem test_overrun : (let s := withHost { State.reset.dev.host with memEnabled := true, ingest := [(1, { overrun := true })] }
    ((Tab.getD (after (.registerWrite (.bar0 0x230000) 8 4) s).host.ingest 1 {}).overrun,
     (Tab.getD (after (.registerWrite (.bar0 0x230000) 8 3) s).host.ingest 1 {}).overrun)) = (false, true) := by decide +kernel
theorem test_hyp_config_words : configOpen State.reset.dev = true ∧ State.reset.dev.host.d3 = false ∧ configOpen (withHost { d3 := true }).dev = true := by
  decide +kernel
/-- A window whose other bank is still full. -/
theorem test_hyp_ingest_full : ({ ingest1 with bank1 := { length := some 5 } } : Ingest).bank true ≠ {} := by decide +kernel
/-- The first packet's last word, at the boundary of 512 bytes. -/
theorem test_hyp_ingest_last : 1024 - 512 * 1 ≤ 512 ∧ 512 < 1025 - 512 * 1 := by decide +kernel
/-- REG_READ with clear, of one register. -/
theorem test_hyp_reg_clear : (let s := held id 0x43 ((1 <<< 8) + (1 <<< 48))
    Rung s.dev 0 0x43 ∧ checkRegs s.dev (s.dev.mb 0) = 0 ∧ (s.dev.mb 0).arg 6 2 = 1) := by decide +kernel
theorem test_hyp_quote_device : Rung (held id 0x76 0).dev 0 0x76 ∧ ((held id 0x76 0).dev.mb 0).arg 36 12 = 0
    ∧ ((held id 0x76 0).dev.mb 0).arg 32 4 = 0 := by decide +kernel
/-- PAGE_MOVE of page 0, which is poisoned. -/
def stPoisonMove : State := held (fun _ => stBar2.dev.setRes 0 (stBar2.dev.res 0 ||| 0x80)) 0x23 (0 + (1 <<< 32) + (3 <<< 64))
theorem test_hyp_page_move_poison : Rung stPoisonMove.dev 0 0x23 ∧ checkMove stPoisonMove.dev (stPoisonMove.dev.mb 0) = 0
    ∧ resPoison (stPoisonMove.dev.res 0) = true ∧ (startMove 0 3 2 0 (taken 0 stPoisonMove.dev)).isSome = true
    ∧ stPoisonMove.dev.tiers.moves.length < 4 ∧ (stPoisonMove.dev.mb 0).arg 4 4 = 1 := by decide +kernel
/-- XFER of 32 bytes: the host fails at the last byte; a row of its first block. -/
theorem test_hyp_xfer_ends : 31 < ([(0x100, 32)].map (·.2)).sum ∧ 4096 * 0 < ([(0x100, 32)].map (·.2)).sum
    ∧ (stXfer 0).dev.host.d3 = false ∧ 0xFFF0 + 32 ≤ 2 ^ 40 ∧ resPoison ((stXfer 0).dev.res 1) = false := by decide +kernel

/-! ### Further clauses: security, runs and ends -/

theorem test_hyp_fw_rows : Rung (held id 0x70 0).dev 0 0x70 ∧ ((held id 0x70 0).dev.mb 0).arg 0 1 ≤ 1 ∧ ((held id 0x70 0).dev.mb 0).arg 1 7 = 0
    ∧ checkSource (held id 0x70 0).dev ((held id 0x70 0).dev.mb 0) = 0 := by decide +kernel
/-- The record copy that a commit replaces is torn; the other one stays. -/
theorem test_torn_record : (let g : Mgmt := writeSlotRecord 1 {}
    (activeSlot g, slotRecordOk g.recordA || slotRecordOk g.recordB, slotRecordOk {})) = (1, true, false) := by decide +kernel
theorem test_hyp_recertify_ops : ∀ op ∈ [1, 2, 3], Rung (gated 0x75 op id).dev 0 0x75 ∧ ((gated 0x75 op id).dev.mb 0).arg 0 1 = op
    ∧ ((gated 0x75 op id).dev.mb 0).arg 1 1 ≤ 1 ∧ ((gated 0x75 op id).dev.mb 0).arg 3 5 = 0 ∧ (gated 0x75 op id).dev.host.d3 = false := by
  decide +kernel
/-- ZEROIZE beside a pre-empted section. -/
theorem test_hyp_zeroize_saved : (let s := gated 0x77 1 (withIdle { small1 .preempted with save := some save0 })
    (∀ sec ∈ s.dev.sections, sec.state = .preempted) ∧ Rung s.dev 0 0x77 ∧ checkZeroize s.dev (s.dev.mb 0) = 0 ∧ xferRuns s.dev = false) := by
  decide +kernel
/-- CANCEL of a command that is being stopped, placed or programmed, and of a load that still loads. -/
theorem test_hyp_cancel_kinds : (∀ j ∈ [Job.stopping 1 0 none, .placing [] 5, .programming [] true, .programming [] false, .aborting 1, .cancelling 3,
      .committing 1, .working none 0 8, .feeding (some 5)], ((stCancel { state := .running, job := j }).dev.mb 1).job = j
        ∧ ((stCancel { state := .running, job := j }).dev.mb 1).state.started = true)
    ∧ (let s := held (withIdle { idle1 with state := .loading }) 0x14 1
       let t := { s with dev := s.dev.setMb 1 { state := .running, job := .loading 1 } }
       ((stopBroadcast 1 (taken 0 t.dev)).section? 1).any (fun c => c.state = .loading) = true) := by decide +kernel
/-- UNLOAD of a section with a page that is allocated, and whose invalidation must therefore be acknowledged. -/
theorem test_hyp_unload_pages : (let sec := { idle1 with storeBase := [5], storePages := [1], reportBase := 100 }
    let s := held (fun d => (withIdle sec d).setRes 5 nearPage) 0x11 1
    Rung s.dev 0 0x11 ∧ s.dev.section? 1 = some sec ∧ sectionBusy s.dev 1 = false ∧ storePagesOf sec = [5, 100, 101, 102]
      ∧ (after (.unload 0) s).tiers.invals.contains 5 = true) := by decide +kernel
theorem test_hyp_epoch_not : (stEpoch.dev.section? 1).any (fun c => c.state ≠ .halted) = true ∧ (stEpoch.dev.mb 0).arg 4 4 = 0 := by decide +kernel
/-- A fused command whose next stage is the same section. -/
theorem test_hyp_handover_same : (let s := stFinished (held (withIdle idle1) 0x13 (0xFFFFFFFF + (2 <<< (8 * 0x88)) + (0x100000001 <<< (8 * 0x90)))) 0
    (s.dev.mb 0).stages = [1, 1] ∧ allFinished s.dev { idle1 with state := .running, mbx := some 0 } = true
      ∧ (s.dev.section? 1).map (·.handle) = some 1) := by decide +kernel
/-- The marked release of an epoch has stopped the section's core. -/
theorem test_hyp_epoch_end : (let sec := { idle1 with state := .running, mbx := some 0, epochEnd := true }
    let s := stFinished stRun 0
    let d := { (s.dev.setCore 0 { section_ := some 1, seq := { state := .suspended, epochStop := true } }) with sections := [sec] }
    epochStopped d sec = true ∧ (stopStreams sec.cores d).section? 1 = some sec ∧ recordsPoison (stopStreams sec.cores d) sec = none
      ∧ ((stopStreams sec.cores d).mb 0).state.started = true ∧ d.set.handle ≠ 1) := by decide +kernel
/-- A deadline under each policy: a record at risk does not fit a fallback section. -/
theorem test_hyp_policies : ∀ pol ∈ [(0 : BitVec 2), 1, 2], let s := stDeadline pol .running (.run 1 0)
    (s.dev.mb 0).deadline ≠ 0 ∧ (s.dev.mb 0).atRisk = false ∧ (s.dev.mb 0).state.started = true ∧ s.dev.sched.policy = pol
      ∧ (atRisk s.dev (s.dev.mb 0) []).isNone = true := by decide +kernel
/-- A command that stops, and has stopped. -/
def stStopping (to_ : Option Nat) : State :=
  let s := stFinished stRun 0
  { s with dev := (s.dev.setCore 0 { section_ := some 1, seq := { state := .halted } }).setMb 0 { (s.dev.mb 0) with job := .stopping 1 0x61 to_ } }
theorem test_hyp_stopping : ∀ to_ ∈ [none, some 2], let s := stStopping to_
    stopDone s.dev { idle1 with state := .running, mbx := some 0 } to_ = true ∧ (s.dev.mb 0).state.live = true
      ∧ ((stopRun 1 s.dev).1.mb 0).state.live = true ∧ (stopRun 1 s.dev).2 = none
      ∧ ((releaseStages 0 (stopRun 1 s.dev).1).section? 2).any (fun t => t.state = .idle) = true := by decide +kernel

/-! ### Further clauses: pre-emption, loading and configuration -/

theorem test_hyp_preempt_waits : (∀ j, j < 16 → j ≠ 0 → ¬(((stSec 0x15 1 (small1 .idle)).dev.mb j).opcode = 0x18
      ∧ ((stSec 0x15 1 (small1 .idle)).dev.mb j).state = .accepted ∧ ((stSec 0x15 1 (small1 .idle)).dev.mb j).rung = false
      ∧ ((stSec 0x15 1 (small1 .idle)).dev.mb j).arg 0 4 = 1))
    ∧ checkPreempt (stSec 0x15 1 (small1 .preempting)).dev ((stSec 0x15 1 (small1 .preempting)).dev.mb 0) = 0
    ∧ regionPending (stSec 0x15 1 (small1 .preempting)).dev 1 = false := by decide +kernel
/-- A RESUME has its turn, also while another is accepted after it; one accepted before it takes the turn. -/
theorem test_hyp_place_turn : (let s := stSec 0x16 1 (small1 .preempted)
    let d := taken 0 (s.dev.setMb 3 { state := .accepted, order := 7, copy := [(0, 0x10)] })
    placeTurn d 0 = true ∧ placeTurn (d.setMb 0 { (d.mb 0) with order := 8 }) 0 = false
      ∧ placeTurn (taken 0 s.dev) 0 = true) := by decide +kernel
/-- What a resumption of the smallest saved section restores. -/
def stRestores : Device := taken 0 (stSec 0x16 1 { small1 .preempted with save := some save0 }).dev
theorem test_hyp_restores : stRestores.section? 1 = some { small1 .preempted with save := some save0 }
    ∧ ((resumeSection 1 stRestores).toOption.map (fun r => decide (PlacedWell r.2) && r.2.cores.all (fun c => decide (stRestores.ctrl c = []))
        && decide ((r.2.spills.map (fun g => (g.mu, g.desc))).Nodup))) = some true
    ∧ (save0.sems.map (·.1)).Nodup ∧ (∀ q ∈ save0.sems, q.1 / 1024 < 0) := by decide +kernel
/-- A retry whose section finds no cores: its package names none that exist, and it has no save. -/
theorem test_hyp_auto_resume_fails : (let sec := { small1 .preempted with autoResume := true }
    let s := stSec 0 0 sec
    s.dev.sections.filter (autoResumes s.dev) = [sec] ∧ (resumeSection 1 s.dev).toOption.isNone = true) := by decide +kernel
/-- A unit of core 0 fails while a section runs there. -/
theorem test_hyp_unit_failure_runs : coreSection (withSection sec1 State.reset).dev 0 = some sec1 ∧ sec1.state = .running ∧ hasCover sec1 = false
    ∧ regionJob (withSection sec1 State.reset).dev 1 = none := by decide +kernel
theorem test_hyp_offline_again : 3 ∈ ({ small1 .running with lostCores := [3] } : Section).lostCores ∧ 0 ∉ (small1 .running).lostCores := by
  decide +kernel
/-- The core of a pre-empting section has not been quiescent in time, and holds a suspend alone. -/
theorem test_hyp_quiescence : coreSection stSave.dev 0 = some { small1 .preempting with cores := [0], mbx := some 2 }
    ∧ (∀ g ∈ stSave.dev.ctrl 0, g = .suspend) ∧ (∀ g ∈ [CtrlMsg.suspend], g = .suspend) := by decide +kernel

/-- A LOAD that has passed its checks, and one whose package has link routes beside another such section. -/
def stPlacing (pk : Memory) (sec : Section) : State :=
  let s := held (withIdle sec) 0x10 0
  { s with dev := s.dev.setMb 0 { (s.dev.mb 0) with rung := false, state := .running, job := .placing pk 5 } }
theorem test_hyp_placing : (let s := stPlacing (secOf 0x13).pkg (secOf 0x13)
    (s.dev.mb 0).opcode = 0x10 ∧ serviceOn s.dev = true ∧ placeTurn s.dev 0 = true ∧ hasLinks (secOf 0x13).pkg = true
      ∧ linkBusy s.dev = true ∧ s.dev.set.bcasts = [] ∧ hasLinks ([] : Memory) = false
      ∧ placeTurn (s.dev.setMb 3 { state := .accepted, copy := [(0, 0x16)] }) 0 = true
      ∧ placeTurn ((s.dev.setMb 0 { (s.dev.mb 0) with order := 1 }).setMb 3 { state := .accepted, copy := [(0, 0x16)] }) 0 = false) := by
  decide +kernel
theorem test_hyp_load_new : ∀ pk n, ((held id 0x10 0).dev.mb 0).job ≠ .placing pk n := fun _ _ h => Job.noConfusion h
theorem test_hyp_load_held : ∀ b ∈ [0, 0x200], Rung (held id 0x10 b).dev 0 0x10 ∧ ((held id 0x10 b).dev.mb 0).arg 0 1 ≠ 2
    ∧ placeTurn (taken 0 (held id 0x10 b).dev) 0 = true ∧ serviceOn (held id 0x10 b).dev = true := by decide +kernel
theorem test_hyp_region_stages : regionPending (stSec 0x18 1 run0).dev ((stSec 0x18 1 run0).dev.mb 0 |>.arg 0 4) = false
    ∧ (∀ j, j < 16 → j ≠ 0 → ¬(((stSec 0x18 1 run0).dev.mb j).opcode = 0x18 ∧ ((stSec 0x18 1 run0).dev.mb j).state = .accepted
        ∧ ((stSec 0x18 1 run0).dev.mb j).rung = false ∧ ((stSec 0x18 1 run0).dev.mb j).arg 0 4 = 1))
    ∧ ((rsRegion stream1).map (fun r => run0.phys r.1)).Nodup ∧ ((stRegion false).dev.mb 0).state = .running := by decide +kernel
/-- A bad frame at a core of the section, in a load and in a region load. -/
theorem test_hyp_bad_frame : ctrlNow (stCtrl (some 1) (.cfgFrame none []) { open_ := true }).dev 0 = some (.cfgFrame none [])
    ∧ coreSection (stCtrl (some 1) (.cfgFrame none []) { open_ := true }).dev 0 = some run0
    ∧ (let s := stRegion true
       let d := (s.dev.setCore 0 { section_ := some 1, cfg := { open_ := true, mode := 2, units := 1 } }).setCtrl 0 [.cfgFrame none []]
       ctrlNow d 0 = some (.cfgFrame none []) ∧ coreSection d 0 = some run0 ∧ run0.before = none
         ∧ regionJob d 1 = some (0, stream1) ∧ (d.core 0).cfg.mode = 2 ∧ (d.core 0).cfg.frames < 160) := by decide +kernel
theorem test_hyp_frame_modes : bitsOf (frAddr frame1) 24 4 < 10 ∧ (2 : Nat) ≠ 0 ∧ (159 : Nat) < 160 := by
  refine ⟨?_, by decide, by decide⟩
  rw [test_frame_place]; decide
/-- The commit of a region at a running section's core, whose REGION_LOAD has ended. -/
theorem test_hyp_region_commit : (let s := stCtrl (some 1) .cfgCommit { open_ := true, mode := 2, units := 1 }
    ctrlNow s.dev 0 = some .cfgCommit ∧ coreSection s.dev 0 = some run0 ∧ run0.state = .running ∧ regionJob s.dev 1 = none) := by decide +kernel
/-- CFG_ABORT of a load that a CANCEL has stopped: core 0 is its last. -/
theorem test_hyp_cfg_aborting : (let s := stCtrl (some 1) .cfgAbort { open_ := true }
    let d := s.dev.setMb 0 { state := .running, job := .aborting 1 }
    ctrlNow d 0 = some .cfgAbort ∧ coreSection d 0 = some run0 ∧ .cfgAbort ∉ (d.ctrl 0).tail ∧ (∀ q ∈ run0.cores, q = 0)
      ∧ (d.mb 0).job = .aborting run0.handle
      ∧ (∀ j, j < 16 → (d.mb j).job = .aborting run0.handle → j = 0)) := by decide +kernel
theorem test_hyp_region_due : (∀ q ∈ regionCores run0 stream1, (stReady.dev.core q).cfg.open_ = true ∧ (stReady.dev.core q).cfg.mode = 2
      ∧ (stReady.dev.core q).cfg.frames = regionDue run0 stream1 q) ∧ (stReady.dev.core 0).cfg.ready = 0 ∧ run0.before = none
    ∧ 2000000 ≤ (stReady.dev.core 0).regionWait := by decide +kernel

/-! ### Further clauses: start-up, ports, sets and the Sextant -/

/-- The start threshold and the ends of the range of Table 17.1; an input after a power-fail shutdown. -/
theorem test_hyp_start_range : 50000 ≤ (50000 : BitVec 32).toNat ∧ (61000 : BitVec 32).toNat ≤ 61000 ∧ (49999 : BitVec 32).toNat < 50000
    ∧ 61000 < (61001 : BitVec 32).toNat ∧ (59500 : BitVec 32).toNat ≤ 59500
    ∧ ({ basePower with inputFail := 3 } : Power).inputFail ≠ 0 ∧ basePower.inputFail = 0 := by decide +kernel
/-- PCIE_CFG bounds the link that a power-on trains. -/
theorem test_strapped_link : (let s := withBoot {}
    ((after (.powerOn 0x1000 0 0 7 16 56000) s).host.linkWidth.toNat, (after (.powerOn 0 0 0 7 16 49999) s).boot.powered)) = (8, false) := by
  decide +kernel
/-- A retry under BOOT_SEL 0b10, 1 s after the last attempt, of slot A. -/
theorem test_hyp_retry : bootRomRuns (stRom 2 { attempt := 1, attemptAt := 1000000 }).dev = true ∧ 1000000 + 1000000 ≤ (stRom 2 {}).dev.now
    ∧ (stRom 2 {}).dev.boot.slot = 0 ∧ bootPlan (stRom 2 {}).dev = [0]
    ∧ (withBoot { powered := true, firmware := true, chosen := false, service := 1 }).dev.power.tripped = false := by decide +kernel
/-- Inputs held low, alone and together. -/
theorem test_hyp_releases : (let w : Boot := { ready0 with resetting := true, warmLow := true }
    let p : Boot := { ready0 with resetting := true, perstLow := true, valuesDone := true }
    w.valuesDone = false ∧ p.warmLow = false ∧ p.valuesDone = true ∧ ({ w with perstLow := true } : Boot).perstLow = true
      ∧ ({ w with defaults := true } : Boot).defaults = true ∧ w.defaults = false ∧ ready0.defaults = false ∧ ready0.resetting = false) := by
  decide +kernel
/-- The points at which Meridian resets a core. -/
theorem test_hyp_core_reset : (withBoot { ready0 with resetting := true }).dev.boot.resetting = true
    ∧ ({ State.reset.dev with sched := { State.reset.dev.sched with offline := 8 } } : Device).sched.offline.getLsbD 3 = true
    ∧ State.reset.dev.sched.offline.getLsbD 3 = false ∧ State.reset.dev.boot.resetting = false := by decide +kernel
theorem test_hyp_rail : State.reset.dev.boot.firmware = true ∧ 8 ≤ (13 : Fin 14).val ∧ (7 : Fin 14).val < 8
    ∧ (∀ j < 16, (State.reset.dev.mb j).job = .none) := by decide +kernel
/-- A unit that has a correction to write back, in a step that leaves the array idle. -/
theorem test_hyp_write_back : (let x : Machine.Unit := { mu := { writeBack := [5] } }
    let d := (withUnit 0 x).dev
    x.mu.initLeft = 0 ∧ x.moved = false ∧ arrayWanted d 0 = false ∧ min 1 x.mu.writeBack.length = 1) := by decide +kernel
/-- A training that ends Order 2 in time, Order 4 at last, and one whose Order 2 takes too long. -/
theorem test_hyp_orders : (withPort {}).dev.boot.firmware = true ∧ ({} : Port).order = 2
    ∧ (withPort {}).dev.now ≤ 4920000 + trainMaxUs 2 2 ∧ 4919999 + trainMaxUs 2 2 < (withPort {}).dev.now
    ∧ ({ order := 4 } : Port).order ≤ 2 + 2 ∧ 0 + 2 < ({ order := 3 } : Port).order
    ∧ (withBoot { powered := true, service := 1 }).dev.boot.firmware = false := by decide +kernel
/-- The sixteenth replay in a row is over at a port that a formed set uses. -/
def stReplays : State :=
  { State.reset with dev := { State.reset.dev with now := 5000000, set := formed1
                                                   ports := [(2, { state := 2, replay := [(1, 0)], replayRow := 16 })] } }
theorem test_hyp_replays : 16 ≤ (stReplays.dev.port 2).replayRow ∧ stReplays.dev.set.usedPorts.getLsbD 2 = true ∧ stReplays.dev.set.state = 2
    ∧ (∀ l ∈ stReplays.dev.set.losses, l.1 ≠ neighbour stReplays.dev.set.dimsActive (ownNode stReplays.dev) 2)
    ∧ (stReplays.dev.port 2).replay ≠ [] ∧ (stReplays.dev.port 2).ackAt + 20 ≤ stReplays.dev.now := by decide +kernel
/-- A message waits at core 0 from another sender, and one from the packet's own. -/
def stWaits (src : Nat) : State :=
  let s := stPacket (pk 1 20) formed1 linked
  { s with dev := { s.dev with sync := { s.dev.sync with chan := [(0, [.open_ ⟨src, 0, 0⟩ ⟨0, 0, 0⟩ 0 0])] } } }
theorem test_hyp_arrives_alone : (∀ w ∈ Tab.getD (stWaits 9).dev.sync.chan 0 [], w.actsAtOnce = false ∧ w.sender ≠ ((pk 1 20).src, 0))
    ∧ bitsOf (pk 1 20).arg 10 4 = 0 := by decide +kernel
theorem test_hyp_arrives_behind : (∀ w ∈ Tab.getD (stWaits 4).dev.sync.chan 0 [], w.actsAtOnce = false)
    ∧ (∃ w ∈ Tab.getD (stWaits 4).dev.sync.chan 0 [], w.sender = ((pk 1 20).src, bitsOf (pk 1 20).arg 10 4)) := by decide +kernel
/-- The set halts, and core 0 has stopped, or goes on. -/
def stOver (q : Seq) : State :=
  let s := stPacket (pk 1 0) { formed1 with state := 3, losses := [(4, 1)] } linked
  { s with dev := (s.dev.setMb 0 { state := .running, job := .run 1 0 }).setCore 0 { section_ := some 1, seq := q, quiesce := 2000000 } }
theorem test_hyp_over : (∀ st ∈ [SeqState.finished, .suspended, .halted], let s := stOver { state := st }
    s.dev.section? 1 = some linked ∧ linked.state = .running ∧ linked.mbx = some 0 ∧ (s.dev.mb 0).job = .run 1 0
      ∧ (∀ c ∈ linked.cores, (s.dev.core c).storeQ = []) ∧ recordsPoison s.dev linked = none ∧ goingOn s.dev linked = [])
    ∧ goingOn (stOver { state := .issuing }).dev linked = [0] ∧ linked.cores.Nodup
    ∧ (∃ c ∈ linked.cores, 2000000 ≤ ((stOver { state := .issuing }).dev.core c).quiesce)
    ∧ ¬ (∃ l ∈ (stOver {}).dev.set.losses, l.2 = 0) := by decide +kernel
theorem test_hyp_forming_down : forming1.state = 1 ∧ forming1.usedPorts.getLsbD 2 = true ∧ (∀ l ∈ [(9, 0)], l.1 ≠ 4) := by decide +kernel
/-- A Sextant stopped without a good save, with a record open at its checkpoint. -/
theorem test_hyp_checkpoint : (let m : Meter := { meter1 with running := false, checkpoint := { open_ := [job1] } }
    m.failSave = none ∧ m.checkpoint.open_.length ≤ 16 ∧ (∀ c ∈ m.closed, ¬(c.tag = job1.tag ∧ c.startMs = job1.startMs))
      ∧ meter1.regs.open_.length ≤ 16) := by decide +kernel
/-- The contact conducts for 40 ms of a pulse; no number is given twice after a start from the checkpoint (log entry 100). -/
theorem test_pulse : (pulseActive { meter1 with pulsesEmitted := 1, pulseAge := 39 }, pulseActive { meter1 with pulsesEmitted := 1, pulseAge := 40 })
    = (true, false) := by decide +kernel
theorem test_hyp_calibration : (∀ b ∈ [true, false], calMode { meter1 with calJumper := true, regs := { meter1.regs with sealIntact := b } } = !b) := by
  decide +kernel

end Sys2Proof.Tests
end

section
/-!
PROOFS. What every step keeps: the canonical form of the module's memories and the straps, and that every well-formed command
completes.
-/
namespace Sys2Proof.Machine
open Sys2Proof.Safety

/-! ### The relation, and the parts of the state it turns on -/

/-- The five memories that `memoriesWf` speaks of. -/
theorem memoriesWf_iff (d : Device) : memoriesWf d = true ↔ Ram.wf d.tiers.near = true ∧ Ram.wf d.tiers.far = true
    ∧ Ram.wf d.tiers.table = true ∧ Ram.wf d.mgmt.store = true ∧ Ram.wf d.host.mem = true := by
  simp only [memoriesWf, Bool.and_eq_true, and_assoc]

/-- `d` keeps, of a block `o`, the two things that hardly any operation touches: its memories are canonical when those of `o`
are, and its straps are those of `o` (R25).  It is a relation between two blocks, so that a chain of operations is read from the
inside out: each lemma `Keeps.f` takes what holds before the operation `f` to what holds after it. -/
def Keeps (o d : Device) : Prop :=
  (memoriesWf o = true → memoriesWf d = true) ∧ d.host.straps = o.host.straps

theorem sendVector_straps (h : HostSide) (v : Nat) : (sendVector h v).straps = h.straps := by unfold sendVector; split <;> rfl
theorem sendVector_mem (h : HostSide) (v : Nat) : (sendVector h v).mem = h.mem := by unfold sendVector; split <;> rfl

theorem releaseVectors_kept (h : HostSide) : (releaseVectors h).straps = h.straps ∧ (releaseVectors h).mem = h.mem := by
  unfold releaseVectors
  refine List.foldlRecOn (motive := fun (x : HostSide) => x.straps = h.straps ∧ x.mem = h.mem) _ _ ⟨rfl, rfl⟩ fun x hx v _ => ?_
  split
  · exact ⟨(sendVector_straps ..).trans hx.1, (sendVector_mem ..).trans hx.2⟩
  · exact hx
theorem releaseVectors_straps (h : HostSide) : (releaseVectors h).straps = h.straps := (releaseVectors_kept h).1
theorem releaseVectors_mem (h : HostSide) : (releaseVectors h).mem = h.mem := (releaseVectors_kept h).2

theorem tierClear_memories (off : Nat) (t : Tiers) : (Ram.wf t.near = true → Ram.wf (tierClear off t).near = true)
    ∧ (Ram.wf t.far = true → Ram.wf (tierClear off t).far = true)
    ∧ (Ram.wf t.table = true → Ram.wf (tierClear off t).table = true) := by
  unfold tierClear
  split <;> exact ⟨id, id, id⟩

theorem putSlotRecord_store (slot : Nat) (torn : Bool) (g : Mgmt) : (putSlotRecord slot torn g).store = g.store :=
  (apply_ite Mgmt.store _ _ _).trans (ite_self _)

/-- A placement that succeeds leaves a block that `o` keeps its straps and memories in. -/
def OkKeeps {ε α : Type} (o : Device) (r : Except ε (Device × α)) : Prop := ∀ x, r = .ok x → Keeps o x.1

namespace Keeps
variable {o d : Device}

theorem memories (h : Keeps o d) (ho : memoriesWf o = true) : memoriesWf d = true := h.1 ho
theorem straps (h : Keeps o d) : d.host.straps = o.host.straps := h.2

theorem refl : Keeps d d := ⟨id, rfl⟩

theorem setHost {x : HostSide} (h : Keeps o d) (hs : x.straps = d.host.straps) (hm : x.mem = d.host.mem) :
    Keeps o { d with host := x } := by
  refine ⟨fun ho => ?_, hs.trans h.2⟩
  obtain ⟨hn, hf, ht, hst, hmem⟩ := (memoriesWf_iff d).mp (h.1 ho)
  exact (memoriesWf_iff _).mpr ⟨hn, hf, ht, hst, hm ▸ hmem⟩

theorem setMem {x : Memory} (h : Keeps o d) (hx : Ram.wf d.host.mem = true → Ram.wf x = true) :
    Keeps o { d with host := { d.host with mem := x } } := by
  refine ⟨fun ho => ?_, h.2⟩
  obtain ⟨hn, hf, ht, hst, hm⟩ := (memoriesWf_iff d).mp (h.1 ho)
  exact (memoriesWf_iff _).mpr ⟨hn, hf, ht, hst, hx hm⟩

theorem setTiers {x : Tiers} (h : Keeps o d) (hn : Ram.wf d.tiers.near = true → Ram.wf x.near = true)
    (hf : Ram.wf d.tiers.far = true → Ram.wf x.far = true) (ht : Ram.wf d.tiers.table = true → Ram.wf x.table = true) :
    Keeps o { d with tiers := x } := by
  refine ⟨fun ho => ?_, h.2⟩
  obtain ⟨hn', hf', ht', hst, hm⟩ := (memoriesWf_iff d).mp (h.1 ho)
  exact (memoriesWf_iff _).mpr ⟨hn hn', hf hf', ht ht', hst, hm⟩

theorem setMgmt {x : Mgmt} (h : Keeps o d) (hx : Ram.wf d.mgmt.store = true → Ram.wf x.store = true) :
    Keeps o { d with mgmt := x } := by
  refine ⟨fun ho => ?_, h.2⟩
  obtain ⟨hn, hf, ht, hst, hm⟩ := (memoriesWf_iff d).mp (h.1 ho)
  exact (memoriesWf_iff _).mpr ⟨hn, hf, ht, hx hst, hm⟩

/-- The two say nothing of the parts other than the tiers, Meridian's store and the host's side. -/
theorem of_eq {e : Device} (h : Keeps o d) (ht : e.tiers = d.tiers := by rfl) (hm : e.mgmt = d.mgmt := by rfl)
    (hh : e.host = d.host := by rfl) : Keeps o e := by
  unfold Keeps memoriesWf at *
  rw [ht, hm, hh]
  exact h

/-! ### Parts of the block that hold neither a memory nor the straps -/

theorem setOrders {n : Nat} (h : Keeps o d) : Keeps o { d with host := { d.host with orders := n } } := .setHost h rfl rfl

theorem setMoves {l : List Move} (h : Keeps o d) : Keeps o { d with tiers := { d.tiers with moves := l } } :=
  .setTiers h id id id

theorem setLogDrops {n : Nat} {c : BitVec 32} (h : Keeps o d) :
    Keeps o { d with mgmt := { d.mgmt with logDropped := n, almanacDropped := c } } := .setMgmt h id

theorem setDefects {l k : List Nat} (h : Keeps o d) :
    Keeps o { d with mgmt := { d.mgmt with defects := l }, boot := { d.boot with defects := k } } :=
  .setMgmt (d := { d with boot := _ }) h id

theorem setSync_quads_set {s : SyncState} {q : Tab Quad} {x : LinkSet} (h : Keeps o d) :
    Keeps o { d with sync := s, quads := q, set := x } := h

theorem setNow {x : Nat} (h : Keeps o d) : Keeps o { d with now := x } := h

theorem setBoot {x : Boot} (h : Keeps o d) : Keeps o { d with boot := x } := h

theorem setUnits {x : Tab Unit} (h : Keeps o d) : Keeps o { d with units := x } := h

theorem setCores {x : Tab Core} (h : Keeps o d) : Keeps o { d with cores := x } := h

theorem setSync {x : SyncState} (h : Keeps o d) : Keeps o { d with sync := x } := h

theorem setSections {x : List Section} (h : Keeps o d) : Keeps o { d with sections := x } := h

theorem setTraining {x : Training} (h : Keeps o d) : Keeps o { d with training := x } := h

theorem setSched {x : Sched} (h : Keeps o d) : Keeps o { d with sched := x } := h

theorem setSet {x : LinkSet} (h : Keeps o d) : Keeps o { d with set := x } := h

/-! ### Branches and folds -/

/-- A block that several branches go on from is spoken of once. -/
theorem share {x y : Device} (hx : Keeps o x) (f : Keeps o x → Keeps o y) : Keeps o y := f hx

theorem ite {c : Prop} {_ : Decidable c} {x y : Device} (hx : Keeps o x) (hy : Keeps o y) :
    Keeps o (if c then x else y) := by
  split
  · exact hx
  · exact hy

theorem iteFst {β : Type} {c : Prop} {_ : Decidable c} {x y : Device × β} (hx : Keeps o x.1) (hy : Keeps o y.1) :
    Keeps o (if c then x else y).1 := by
  split
  · exact hx
  · exact hy

theorem getD {x : Option Device} (h : Keeps o d) (hx : ∀ e, x = some e → Keeps o e) : Keeps o (x.getD d) := by
  cases x with
  | none => exact h
  | some e => exact hx e rfl

theorem foldl {β : Type} {l : List β} {f : Device → β → Device} (h : Keeps o d) (hf : ∀ e x, Keeps o e → Keeps o (f e x)) :
    Keeps o (l.foldl f d) :=
  List.foldlRecOn l f h fun e he x _ => hf e x he

theorem foldlFst {α β : Type} {l : List β} {f : Device × α → β → Device × α} {a : Device × α} (h : Keeps o a.1)
    (hf : ∀ e x, Keeps o e.1 → Keeps o (f e x).1) : Keeps o (l.foldl f a).1 :=
  List.foldlRecOn (motive := fun a => Keeps o a.1) l f h fun e he x _ => hf e x he

theorem foldlBind {β : Type} {l : List β} {f : Device → β → Option Device} {e : Device} (h : Keeps o d)
    (hf : ∀ d x e, Keeps o d → f d x = some e → Keeps o e)
    (he : l.foldl (fun (a : Option Device) x => a.bind (fun d => f d x)) (some d) = some e) : Keeps o e := by
  refine List.foldlRecOn (motive := fun a => ∀ e, a = some e → Keeps o e) l _ (by rintro _ ⟨⟩; exact h) ?_ e he
  intro a ha x _ e he
  obtain ⟨b, hb, hbe⟩ := Option.bind_eq_some_iff.mp he
  exact hf b x e (ha b hb) hbe


/-! ### The operations of Machine/Ops.lean -/

theorem setMb {m x} (h : Keeps o d) : Keeps o (Device.setMb d m x) :=
  h
theorem updMb {m f} (h : Keeps o d) : Keeps o (Device.updMb d m f) :=
  .setMb h
theorem setUnit {u x} (h : Keeps o d) : Keeps o (Device.setUnit d u x) :=
  h
theorem updUnit {u f} (h : Keeps o d) : Keeps o (Device.updUnit d u f) :=
  .setUnit h
theorem setCore {c x} (h : Keeps o d) : Keeps o (Device.setCore d c x) :=
  h
theorem updCore {c f} (h : Keeps o d) : Keeps o (Device.updCore d c f) :=
  .setCore h
theorem updQuad {q f} (h : Keeps o d) : Keeps o (Device.updQuad d q f) :=
  h
theorem setCtrl {c ms} (h : Keeps o d) : Keeps o (Device.setCtrl c ms d) :=
  .updQuad h
theorem pushCtrl {c ms} (h : Keeps o d) : Keeps o (pushCtrl c ms d) :=
  .setCtrl h
theorem setPort {p x} (h : Keeps o d) : Keeps o (Device.setPort d p x) :=
  h
theorem updPort {p f} (h : Keeps o d) : Keeps o (Device.updPort d p f) :=
  .setPort h
theorem updSection {hnd f} (h : Keeps o d) : Keeps o (Device.updSection d hnd f) :=
  h
theorem dropSection {hnd} (h : Keeps o d) : Keeps o (Device.dropSection d hnd) :=
  h
theorem irq {v} (h : Keeps o d) : Keeps o (irq v d) :=
  .ite h (.setHost h (sendVector_straps ..) (sendVector_mem ..))
theorem putRecord {typ err subject mbx seq data} (h : Keeps o d) : Keeps o (putRecord typ err subject mbx seq data d) :=
  .setMgmt h fun hs => Ram.wf_blit (by split; exacts [Ram.wf_blit hs .., hs]) ..
theorem newSecond (h : Keeps o d) : Keeps o (newSecond d) :=
  .ite h (.putRecord h)
theorem logRec {typ err subject mbx seq data} (h : Keeps o d) : Keeps o (logRec typ err subject mbx seq data d) :=
  .ite (.setLogDrops (.ite (.newSecond h) h)) (.putRecord (.ite (.newSecond h) h))
theorem log {typ subject data} (h : Keeps o d) : Keeps o (log typ subject data d) :=
  .logRec h
theorem logCmd {typ err subject m data} (h : Keeps o d) : Keeps o (logCmd typ err subject m data d) :=
  .logRec h
theorem logEnd {typ err subject m data} (h : Keeps o d) : Keeps o (logEnd typ err subject m data d) := by
  unfold Machine.logEnd
  split
  · exact .logCmd h
  · exact .log h
theorem unbind {m} (h : Keeps o d) : Keeps o (unbind m d) :=
  h
theorem endFailed {m e} (h : Keeps o d) : Keeps o (endFailed m e d) :=
  .ite (.irq (.unbind (.updMb h))) (.unbind (.updMb h))
theorem endDone {m} (h : Keeps o d) : Keeps o (endDone m d) :=
  .unbind (.updMb h)
theorem endRefused {m e} (h : Keeps o d) : Keeps o (endRefused m e d) :=
  .updMb h
theorem reply {m off n v} (h : Keeps o d) : Keeps o (reply m off n v d) :=
  .updMb h
theorem setDegraded {m} (h : Keeps o d) : Keeps o (setDegraded m d) := by
  unfold Machine.setDegraded
  split
  · exact .updMb h
  · exact h
theorem setRes {p e} (h : Keeps o d) : Keeps o (d.setRes p e) :=
  .setTiers h id id fun ht => Ram.wf_write ht ..
theorem takeFrame {unit r} (h : Keeps o d) (hr : takeFrame d unit = some r) : Keeps o r.2 := by
  unfold Machine.takeFrame at hr
  dsimp only at hr
  split at hr
  · cases hr; exact h
  · cases hr
theorem giveFrame {unit frame} (h : Keeps o d) : Keeps o (giveFrame d unit frame) :=
  h
theorem writeFrame {unit frame off n v} (h : Keeps o d) : Keeps o (writeFrame d unit frame off n v) :=
  .ite (.setTiers h (fun hn => Ram.wf_blit hn ..) id id) (.setTiers h id (fun hf => Ram.wf_blit hf ..) id)
theorem skipMove {mv} (h : Keeps o d) : Keeps o (skipMove mv d) :=
  .ite (.updMb h) h
theorem endMove {mv} (h : Keeps o d) : Keeps o (endMove mv d) :=
  .skipMove (.giveFrame h)
theorem abortMove {p} (h : Keeps o d) : Keeps o (abortMove p d) := by
  unfold Machine.abortMove
  split
  · exact h
  · exact .setRes (.endMove h)
theorem touchTier {p} (h : Keeps o d) : Keeps o (touchTier p d) :=
  .ite (.setRes h) h
theorem writePage {p off n v} (h : Keeps o d) : Keeps o (writePage p off n v d) :=
  .ite (.writeFrame (.touchTier (.abortMove h))) h
theorem writeLogicalAux {fuel a n v} (h : Keeps o d) : Keeps o (writeLogicalAux fuel a n v d) := by
  induction fuel generalizing a n v d with
  | zero => exact h
  | succ fuel ih => exact .ite h (ih (.writePage h))
theorem writeLogical {a n v} (h : Keeps o d) : Keeps o (writeLogical a n v d) :=
  .writeLogicalAux h
theorem invalidate {p} (h : Keeps o d) : Keeps o (invalidate p d) :=
  h
theorem freePage {p} (h : Keeps o d) : Keeps o (freePage p d) :=
  .ite (.invalidate (.setRes (.setTiers (by
    split
    · exact .endMove h
    · exact h) id id id))) h
theorem giveFreed (h : Keeps o d) : Keeps o (giveFreed d) :=
  .foldl h (fun _ _ hd => .giveFrame hd)
theorem allocPage {p cls pin unit e} (h : Keeps o d) (he : allocPage p cls pin unit d = some e) : Keeps o e := by
  obtain ⟨r, hr, rfl⟩ := Option.map_eq_some_iff.mp he
  exact .invalidate (.setRes (.takeFrame h hr))

/-! ### The operations of Machine/Ostler.lean -/

theorem allocSegment {m cores bases i} (h : Keeps o d) : ∀ r, allocSegment m cores bases i d = .ok r → Keeps o r.1 := by
  unfold Machine.allocSegment
  split
  · rintro _ ⟨⟩; exact h
  · refine List.foldlRecOn (motive := OkKeeps o) _ _ (by rintro _ ⟨⟩; exact h) ?_
    intro acc ih k _ r hr
    split at hr
    · cases hr
    · have hd := ih _ rfl
      dsimp only at hr
      split at hr
      · cases hr; exact hd
      · split at hr
        · cases hr
        · split at hr
          · rename_i hp; cases hr; exact .allocPage hd hp
          · cases hr
theorem allocSegments {grad m cores bases} (h : Keeps o d) :
    ∀ r, allocSegments grad m cores bases d = .ok r → Keeps o r.1 := by
  refine List.foldlRecOn (motive := OkKeeps o) _ _ (by rintro _ ⟨⟩; exact h) ?_
  intro acc ih i _ r hr
  split at hr
  · cases hr
  · have hd := ih _ rfl
    split at hr
    · cases hr
    · rename_i hs
      cases hr
      split at hs
      · exact .allocSegment hd _ hs
      · cases hs; exact hd
theorem allocPinned {taken core n} (h : Keeps o d) : ∀ r, allocPinned taken core n d = some r → Keeps o r.1 := by
  intro r hr
  unfold Machine.allocPinned at hr
  split at hr
  · cases hr; exact h
  · split at hr
    · cases hr
    · obtain ⟨e, he, rfl⟩ := Option.map_eq_some_iff.mp hr
      exact .foldlBind h (fun _ _ _ hd hp => .allocPage hd hp) he
theorem allocStores {m cores bases} (h : Keeps o d) : ∀ r, allocStores m cores bases d = .ok r → Keeps o r.1 := by
  intro r hr
  unfold Machine.allocStores at hr
  dsimp only at hr
  split at hr
  · cases hr
  · rename_i hf
    have hd := List.foldlRecOn (motive := OkKeeps o) _ _ (by rintro _ ⟨⟩; exact h) ?_ _ hf
    · split at hr
      · cases hr
      · rename_i hp; cases hr; exact .allocPinned hd _ hp
    · intro acc ih l _ r hr
      split at hr
      · cases hr
      · split at hr
        · cases hr
        · rename_i hp; cases hr; exact .allocPinned (ih _ rfl) _ hp
theorem setGradIndex {sec} (h : Keeps o d) : Keeps o (setGradIndex sec d) :=
  .foldl h (fun _ _ hd => .foldl hd (fun _ _ he => .setRes he))
theorem pinPages {sec} (h : Keeps o d) : Keeps o (pinPages sec d) :=
  .foldl h (fun _ _ hd => .ite (.setRes hd) hd)
theorem writeMus {sec} (h : Keeps o d) : Keeps o (writeMus sec d) :=
  .foldl (.foldl h (fun _ _ hd => .foldl hd (fun _ _ he => .foldl he (fun _ _ hf => .updUnit hf)))) (fun _ _ hd => .updUnit hd)
theorem writeStoreImage {sec image} (h : Keeps o d) : Keeps o (writeStoreImage sec image d) :=
  .foldl h (fun _ _ hd => .writeLogical hd)
theorem writeStoreGen {sec l} (h : Keeps o d) : Keeps o (writeStoreGen sec l d) :=
  .foldl h (fun _ _ hd => .foldl hd (fun _ _ he => .foldl he (fun _ _ hf => .writeLogical hf)))
theorem writeStores {sec} (h : Keeps o d) : Keeps o (writeStores sec d) :=
  .foldl (.foldl h (fun _ _ hd => .writeStoreImage hd)) (fun _ _ hd => .writeStoreGen hd)
theorem finishPlace {sec r} (h : Keeps o d) (hr : finishPlace sec d = .ok r) : Keeps o r.1 := by
  unfold Machine.finishPlace at hr
  split at hr
  · cases hr
  · rename_i hs
    split at hr
    · cases hr
    · cases hr; exact .allocStores h _ hs
theorem placeSection {sec r} (h : Keeps o d) (hr : placeSection sec d = .ok r) : Keeps o r.1 := by
  unfold Machine.placeSection at hr
  dsimp only at hr
  split at hr
  · cases hr
  split at hr
  · cases hr
  split at hr
  · cases hr
  rename_i hseg
  split at hr
  · cases hr
  rename_i hfin
  split at hr
  · cases hr
  · cases hr
  · rename_i hgrad
    cases hr
    have h2 := Keeps.allocSegments (.finishPlace (.allocSegments h _ hseg) hfin) _ hgrad
    exact .writeStores (.setGradIndex (.pinPages (.ite h2 (.writeMus h2))))
theorem clearSems {cores} (h : Keeps o d) : Keeps o (clearSems cores d) :=
  .foldl h (fun _ _ hd => .updQuad hd)
theorem replyReport {m d0 sec fail link} (h : Keeps o d) : Keeps o (replyReport m d0 sec fail link d) :=
  .updMb h
theorem writeReport {d0 sec} (h : Keeps o d) : Keeps o (writeReport d0 sec d) :=
  .writeLogical h
theorem freePages {ps} (h : Keeps o d) : Keeps o (freePages ps d) :=
  .foldl h (fun _ _ hd => .freePage hd)
theorem clearGrad {sec} (h : Keeps o d) : Keeps o (clearGrad sec d) :=
  .foldl h (fun _ _ hd => .foldl hd (fun _ _ he => .ite (.setRes he) he))
theorem releaseSpills {sec} (h : Keeps o d) : Keeps o (releaseSpills sec d) :=
  .foldl h (fun _ _ hd => .updUnit hd)
theorem queuePromotions {sec} (h : Keeps o d) : Keeps o (queuePromotions sec d) :=
  .foldl h (fun _ _ hd => by
    split
    · exact .ite (.foldl hd (fun _ _ he => .ite he he)) hd
    · exact hd)

/-! ### The operations of Machine/Harness.lean -/

theorem resetIdle {c} (h : Keeps o d) : Keeps o (resetIdle c d) :=
  .updCore h
theorem progressed {c word} (h : Keeps o d) : Keeps o (progressed c word d) := by
  unfold Machine.progressed
  dsimp only
  split
  · exact .foldl (.ite (.resetIdle h) h) (fun _ _ hd => .updCore hd)
  · exact .ite (.resetIdle h) h
theorem settleFlight {u i x f} (h : Keeps o d) : Keeps o (settleFlight u i x f d) := by
  unfold Machine.settleFlight
  split
  · exact .ite (.progressed (.setUnit h)) (.setUnit h)
theorem ackOut {u p} (h : Keeps o d) : Keeps o (ackOut u p d) := by
  unfold Machine.ackOut
  dsimp only
  split
  · split
    · exact .settleFlight h
    · exact .setUnit h
  · exact .setUnit h
theorem dropSource {u src} (h : Keeps o d) : Keeps o (dropSource u src d) :=
  .ite (.updUnit h) (.ackOut h)
theorem releaseEdges {c} (h : Keeps o d) : Keeps o (releaseEdges c d) :=
  .foldl h (fun _ _ hd => .foldl hd (fun _ _ he => by
    split
    · exact he
    · split
      · exact .dropSource (.updUnit he)
      · exact he))

/-! ### The operations of Machine/Management.lean -/

theorem updPresence {f} (h : Keeps o d) : Keeps o (Device.updPresence d f) :=
  h
theorem updMgmt {f} (h : Keeps o d) (hf : (f d.mgmt).store = d.mgmt.store := by rfl) : Keeps o (d.updMgmt f) :=
  .setMgmt h fun hs => by rwa [hf]
theorem acceptGated {m} (h : Keeps o d) : Keeps o (acceptGated m d) :=
  .setOrders (.updMb (.logCmd h))
theorem acceptWaiting (h : Keeps o d) : Keeps o (acceptWaiting d) :=
  .foldl h (fun _ _ hd => .ite (.acceptGated hd) hd)
theorem pressOpens {t} (h : Keeps o d) : Keeps o (pressOpens t d) :=
  .ite (.log h) (.ite (.updPresence h) (.acceptWaiting (.irq (.log (.updPresence h)))))
theorem endPress {p r} (h : Keeps o d) : Keeps o (endPress p r d) := by
  unfold Machine.endPress
  dsimp only
  split
  · exact .pressOpens (.updPresence h)
  · exact .updPresence h
theorem pressStuck (h : Keeps o d) : Keeps o (pressStuck d) :=
  .ite (.irq (.log (.updPresence h))) h
theorem stuckRelease (h : Keeps o d) : Keeps o (stuckRelease d) := by
  unfold Machine.stuckRelease
  split
  · exact .ite (.log (.updPresence h)) h
  · exact h
theorem presenceTo {active} (h : Keeps o d) : Keeps o (presenceTo active d) := by
  have h1 : Keeps o (Machine.stuckRelease (Machine.pressStuck d)) := .stuckRelease (.pressStuck h)
  unfold Machine.presenceTo
  refine .ite (.ite (.updPresence (.updPresence (.updPresence h1))) ?_) (.updPresence (.updPresence h1))
  split
  · exact .ite (.updPresence (.updPresence (.updPresence h1))) (.updPresence (.endPress (.updPresence (.updPresence h1))))
  · exact .updPresence (.updPresence h1)
  · exact .updPresence (.updPresence (.updPresence h1))
theorem presenceChange {button contact} (h : Keeps o d) : Keeps o (presenceChange button contact d) :=
  .ite h (.ite (.updPresence h) (.ite (.presenceTo h) h))
theorem startPress (h : Keeps o d) : Keeps o (startPress d) :=
  .ite (.updPresence h) h
theorem pressEnd (h : Keeps o d) : Keeps o (pressEnd d) := by
  unfold Machine.pressEnd
  split
  · exact .ite (.endPress h) h
  · exact h
theorem windowClose (h : Keeps o d) : Keeps o (windowClose d) := by
  unfold Machine.windowClose
  split
  · exact .ite (.ite (.updPresence h) (.irq (.log (.updPresence h)))) h
  · exact h
theorem maintChange {fitted} (h : Keeps o d) : Keeps o (maintChange fitted d) :=
  .ite h (.ite (.updPresence h) (.ite h
    (.ite (.updPresence h) (.ite (.acceptWaiting (.irq (.log (.updPresence h)))) (.irq (.log (.updPresence h)))))))
theorem sealLoopChange {intact} (h : Keeps o d) : Keeps o (sealLoopChange intact d) :=
  .ite h (.ite (.updPresence h) (.ite h
    (.ite (.updPresence (.irq (.updPresence h))) (.ite (.updPresence (.irq (.updPresence h))) (.log (.irq (.updPresence h)))))))
theorem sealTogglingMinute (h : Keeps o d) : Keeps o (sealTogglingMinute d) :=
  .ite (.ite (.updPresence h) (.log (.updPresence h))) h
theorem presenceWaitExpiry {m} (h : Keeps o d) : Keeps o (presenceWaitExpiry m d) :=
  .ite (.endRefused h) h
theorem hourThrottle (h : Keeps o d) : Keeps o (hourThrottle d) :=
  .ite (.log h) h
theorem hourEnd (h : Keeps o d) : Keeps o (hourEnd d) :=
  .ite (.share (.foldl (.foldl h (fun _ _ hd => .log hd)) (fun _ _ hd => .log hd)) fun h1 => .hourThrottle (by
    split
    · exact .log (.ite h1 (.log h1))
    · exact .ite h1 (.log h1))) h
theorem dropRecord (h : Keeps o d) : Keeps o (dropRecord d) :=
  .ite (.newSecond h) h
theorem smbRead {code addr} (h : Keeps o d) : Keeps o (smbRead code addr d) :=
  .ite h (.updMgmt h)
theorem smbAlertResponse (h : Keeps o d) : Keeps o (smbAlertResponse d) :=
  .updMgmt h

/-! ### The operations of Machine/LinkPorts.lean -/

theorem enqueue {p cls k} (h : Keeps o d) : Keeps o (enqueue p cls k d) :=
  .updPort h
theorem countStale (h : Keeps o d) : Keeps o (countStale d) :=
  h
theorem sendPacket {k} (h : Keeps o d) : Keeps o (sendPacket k d) := by
  unfold Machine.sendPacket
  split
  · exact .enqueue h
  · exact .countStale h
theorem popPacket {p pool} (h : Keeps o d) : Keeps o (popPacket p pool d) := by
  unfold Machine.popPacket
  split
  · exact h
  · exact .updPort h

/-! ### The operations of Machine/StreamSlots.lean -/

theorem updSlot {c n f} (h : Keeps o d) : Keeps o (Device.updSlot d c n f) :=
  .updCore h
theorem countWritten {c e} (h : Keeps o d) : Keeps o (countWritten c e d) :=
  .updSlot h
theorem dropStore {c q e} (h : Keeps o d) : Keeps o (dropStore c q e d) :=
  .updCore h

/-! ### The operations of Machine/Sections.lean -/

theorem markPending {sec g k} (h : Keeps o d) : Keeps o (markPending sec g k d) :=
  .ite (.foldl h (fun _ _ hd => .setRes hd)) h
theorem countGroup {hnd g sat flush} (h : Keeps o d) : Keeps o (countGroup hnd g sat flush d) :=
  h
theorem writeEntry {addr data} (h : Keeps o d) : Keeps o (writeEntry addr data d) := by
  unfold Machine.writeEntry
  split
  · exact .setTraining (.countGroup (.writeLogical (.markPending h)))
  · exact .writeLogical h
theorem dropSuspends {sec} (h : Keeps o d) : Keeps o (dropSuspends sec d) :=
  .foldl h (fun _ _ hd => .setCtrl hd)
theorem coreReturns {c} (h : Keeps o d) : Keeps o (coreReturns c d) :=
  .ite h h
theorem lostReturns {hnd} (h : Keeps o d) : Keeps o (lostReturns hnd d) := by
  unfold Machine.lostReturns
  split
  · exact .updSection (.foldl h (fun _ _ hd => .coreReturns hd))
  · exact h
theorem writeCtxRecords {sec c} (h : Keeps o d) : Keeps o (writeCtxRecords sec c d) := by
  unfold Machine.writeCtxRecords
  split
  · exact .ite h (.writeLogical h)
  · exact h
theorem writeRecords {sec cores} (h : Keeps o d) : Keeps o (writeRecords sec cores d) :=
  .foldl h (fun _ _ hd => .ite (.foldl hd (fun _ _ he => .writeCtxRecords he)) hd)
theorem zeroRecords {sec} (h : Keeps o d) : Keeps o (zeroRecords sec d) :=
  .foldl (.foldl h (fun _ _ hd => .setRes (.writePage hd))) (fun _ _ hd => .updUnit hd)
theorem updEp {c e f} (h : Keeps o d) : Keeps o (Device.updEp d c e f) :=
  .updCore h
theorem closeSender {c e quiet} (h : Keeps o d) : Keeps o (closeSender c e quiet d) :=
  .updEp h
theorem rxToken {c e slot t} (h : Keeps o d) : Keeps o (rxToken c e slot t d) :=
  .ite (.updEp h) h
theorem rxClose {sec src dst slot side} (h : Keeps o d) : Keeps o (rxClose sec src dst slot side d) :=
  .ite (.updEp h) (.ite (.closeSender h) h)
theorem setChan {c ms} (h : Keeps o d) : Keeps o (setChan c ms d) :=
  h
theorem chanPost {c msg} (h : Keeps o d) : Keeps o (chanPost c msg d) :=
  .setChan h
theorem arriveMsg {sec m} (h : Keeps o d) : Keeps o (arriveMsg sec m d) := by
  unfold Machine.arriveMsg
  split
  · exact .rxToken h
  · exact .rxClose h
  · exact h
theorem settleChan {sec c n} (h : Keeps o d) : Keeps o (settleChan sec c n d) := by
  induction n generalizing d with
  | zero => exact h
  | succ n ih =>
    unfold Machine.settleChan
    split
    · exact ih (.arriveMsg (.setChan h))
    · exact h
theorem deliverChan {sec c msg} (h : Keeps o d) : Keeps o (deliverChan sec c msg d) :=
  .ite (.settleChan (.chanPost h)) (.chanPost h)
theorem sendChan {sec to_ msg} (h : Keeps o d) : Keeps o (sendChan sec to_ msg d) :=
  .ite (.deliverChan h) (.sendPacket h)
theorem closeEndpoint {sec c e} (h : Keeps o d) : Keeps o (closeEndpoint sec c e d) :=
  .ite (.foldl (.foldl (.updEp h) (fun _ _ hd => .sendChan hd)) (fun _ _ hd => .sendChan hd)) h
theorem closeWhole {sec c e} (h : Keeps o d) : Keeps o (closeWhole sec c e d) :=
  .foldl (.ite (.closeEndpoint h) (.updEp (.closeEndpoint h))) (fun _ _ hd => .sendChan hd)
theorem closeCore {c} (h : Keeps o d) : Keeps o (closeCore c d) := by
  unfold Machine.closeCore
  split
  · exact .foldl h (fun _ _ hd => .closeWhole hd)
  · exact h
theorem settleOwn {sec} (h : Keeps o d) : Keeps o (settleOwn sec d) :=
  .foldl h (fun _ _ hd => .ite hd (.foldl (.setChan hd) (fun _ _ he => .arriveMsg he)))
theorem closeEndpoints {sec} (h : Keeps o d) : Keeps o (closeEndpoints sec d) :=
  .settleOwn (.foldl h (fun _ _ hd => .foldl hd (fun _ _ he => .closeEndpoint he)))
theorem closeSection {sec} (h : Keeps o d) : Keeps o (closeSection sec d) :=
  .settleOwn (.foldl h (fun _ _ hd => .closeCore hd))
theorem closeSaved {v} (h : Keeps o d) : Keeps o (closeSaved v d) :=
  .foldl h (fun _ _ hd => .foldl hd
    (fun _ _ he => .foldl (.foldl he (fun _ _ hf => .ite hf (.sendPacket hf))) (fun _ _ hf => .ite hf (.sendPacket hf))))
theorem replyQueues {m ids} (h : Keeps o d) : Keeps o (replyQueues m ids d) :=
  .foldl (.reply h) (fun _ _ hd => .reply hd)
theorem replyAddr {m addr} (h : Keeps o d) : Keeps o (replyAddr m addr d) :=
  .reply h
theorem replyAccess {m addr q} (h : Keeps o d) : Keeps o (replyAccess m addr q d) :=
  .reply (.replyAddr h)
theorem endCompare (h : Keeps o d) : Keeps o (endCompare d) :=
  h
theorem endComparing {m} (h : Keeps o d) : Keeps o (endComparing m d) := by
  unfold Machine.endComparing
  split
  · exact .endCompare h
  · exact h
theorem haltCore {c} (h : Keeps o d) : Keeps o (haltCore c d) :=
  .updCore h
theorem sendHalts {cores} (h : Keeps o d) : Keeps o (sendHalts cores d) :=
  .foldl h (fun _ _ hd => .ite hd (.pushCtrl hd))
theorem failWaiting {hnd code} (h : Keeps o d) : Keeps o (failWaiting hnd code d) :=
  .foldl h (fun _ _ hd => .ite (.endFailed hd) hd)
theorem releaseStages {m} (h : Keeps o d) : Keeps o (releaseStages m d) :=
  h
theorem emptySpills {c} (h : Keeps o d) : Keeps o (emptySpills c d) :=
  .foldl h (fun _ _ hd => .updUnit hd)
theorem resetCoreState {c} (h : Keeps o d) : Keeps o (resetCoreState c d) :=
  .ite h (.setSync (.setCtrl (.updCore (.foldl (.emptySpills h) (fun _ _ hd => .updUnit hd)))))
theorem lastStore {c q e} (h : Keeps o d) : Keeps o (lastStore c q d e) :=
  .ite h (by
    split
    · exact .countWritten (.dropStore (.writeEntry h))
    · exact .log (.dropStore h))
theorem lastStores {c} (h : Keeps o d) : Keeps o (lastStores c d) :=
  .foldl h (fun _ _ hd => .foldl hd (fun _ _ he => .lastStore he))
theorem resetIdleCore {c} (h : Keeps o d) : Keeps o (resetIdleCore c d) :=
  .ite h (.resetCoreState (.releaseEdges (.lastStores (.closeCore h))))
theorem endChange {m ps} (h : Keeps o d) : Keeps o (endChange m ps d) :=
  .ite (.updMb h) (.endDone h)
theorem settleJobs (h : Keeps o d) : Keeps o (settleJobs d) :=
  .foldl h (fun _ _ hd => by
    split
    · exact .ite hd (.endDone hd)
    · exact .ite hd (.endDone (.resetIdleCore hd))
    · exact .ite hd (.endDone hd)
    · exact hd)
theorem haltSection {hnd code} (h : Keeps o d) : Keeps o (haltSection hnd code d) := by
  unfold Machine.haltSection
  split
  · exact h
  · exact .share (.ite (.writeRecords (.sendHalts h)) (.sendHalts h)) fun h1 => .settleJobs
      (.lostReturns (.failWaiting (.updSection (.closeEndpoints (by
    split
    · exact .releaseStages (.endFailed (.endComparing h1))
    · exact h1)))))
theorem pageHalt {hnd e} (h : Keeps o d) : Keeps o (pageHalt hnd e d) :=
  .haltSection (by
    split
    · exact .replyAddr h
    · exact h)
theorem flushEntry {c q e} (h : Keeps o d) : Keeps o (flushEntry c q e d) := by
  unfold Machine.flushEntry
  split
  · exact .haltSection (.replyAccess (.dropStore h))
  · exact .lastStore h
theorem noPending {c} (h : Keeps o d) : Keeps o (noPending c d) :=
  .ite h (.updCore h)
theorem flushCore {c} (h : Keeps o d) : Keeps o (flushCore c d) :=
  .noPending (.foldl h (fun _ _ hd => .foldl hd (fun _ _ he => .flushEntry he)))
theorem flushStores {cores} (h : Keeps o d) : Keeps o (flushStores cores d) :=
  .foldl h (fun _ _ hd => .flushCore hd)
theorem stopStreams {cores} (h : Keeps o d) : Keeps o (stopStreams cores d) :=
  .flushStores (.foldl h (fun _ _ hd => .updCore hd))
theorem muError {u word cls scrub} (h : Keeps o d) : Keeps o (muError u word cls scrub d) := by
  unfold Machine.muError
  dsimp only
  split
  · exact .haltSection (by
    split
    · exact .reply (.logEnd (.updUnit h))
    · exact .logEnd (.updUnit h))
  · exact .logEnd (.updUnit h)
theorem tierError {who hnd scrub addr q} (h : Keeps o d) : Keeps o (tierError who hnd scrub addr q d) := by
  unfold Machine.tierError
  dsimp only
  split
  · exact .haltSection (by
    split
    · exact .replyAccess (.logEnd (.setRes h))
    · exact .logEnd (.setRes h))
  · exact .logEnd (.setRes h)
theorem countTierRead {p err} (h : Keeps o d) : Keeps o (countTierRead p err d) := by
  unfold Machine.countTierRead
  dsimp only
  split
  · exact .ite h h
  · exact .ite h h
  · exact h
theorem tierFound {who err a n} (h : Keeps o d) : Keeps o (tierFound who err a n d) := by
  unfold Machine.tierFound
  split
  · exact h
  · exact .ite (.ite (.tierError h) (.countTierRead h)) h
theorem writeFound {who err a n} (h : Keeps o d) : Keeps o (writeFound who err a n d) := by
  unfold Machine.writeFound
  split
  · exact .tierFound h
  · exact h
theorem streamFault {hnd addr q code} (h : Keeps o d) : Keeps o (streamFault hnd addr q code d) :=
  .haltSection (by
    split
    · exact .replyAccess h
    · exact h)
theorem releaseCores {sec} (h : Keeps o d) : Keeps o (releaseCores sec d) :=
  .freePages (.foldl (.releaseSpills h) (fun _ _ hd => .setSync (.setCtrl (.updCore (.foldl hd (fun _ _ he => .updUnit he))))))
theorem countStaleTokens {sec} (h : Keeps o d) : Keeps o (countStaleTokens sec d) :=
  .foldl h (fun _ _ hd => .updCore hd)
theorem leaveSet {st} (h : Keeps o d) : Keeps o (leaveSet st d) :=
  h
theorem clearBarriers {all hnd} (h : Keeps o d) : Keeps o (clearBarriers all hnd d) :=
  h
theorem unloadSection {hnd} (h : Keeps o d) : Keeps o (unloadSection hnd d) := by
  unfold Machine.unloadSection
  split
  · exact h
  · exact .share (.ite (.countStaleTokens (.closeSection (.stopStreams h))) (by
    split
    · exact .closeSaved h
    · exact h)) fun h1 => .share (.freePages (.clearGrad (.ite (.releaseCores h1) h1))) fun h2 => .dropSection
        (.clearBarriers (.ite (.leaveSet h2) h2))

/-! ### The operations of Machine/Fabric.lean -/

theorem runWord {op can init adv u} (h : Keeps o d) : Keeps o (runWord op can init adv u d) := by
  unfold Machine.runWord
  dsimp only
  split
  · exact .settleFlight h
  · exact .ite (.settleFlight h) h
theorem retireNow {u pos x} (h : Keeps o d) : Keeps o (retireNow u pos x d) :=
  .progressed (.setUnit h)
theorem wordNop {u} (h : Keeps o d) : Keeps o (wordNop u d) :=
  .ite (.retireNow h) h
theorem wordLoopBegin {u} (h : Keeps o d) : Keeps o (wordLoopBegin u d) :=
  .ite (.retireNow h) h
theorem wordLoopEnd {u} (h : Keeps o d) : Keeps o (wordLoopEnd u d) :=
  .ite (.retireNow h) h
theorem wordYield {u} (h : Keeps o d) : Keeps o (wordYield u d) :=
  .ite (.retireNow h) h
theorem harnessLink {u dir edge} (h : Keeps o d) : Keeps o (harnessLink u dir edge d) := by
  unfold Machine.harnessLink
  dsimp only
  split
  · exact .ite h (.share (.updUnit (.dropSource (.setUnit h))) fun h1 => .ite (.resetIdle h1) h1)
  · exact h
theorem tapTake {c tap src} (h : Keeps o d) : Keeps o (tapTake c tap src d) :=
  .dropSource (.updUnit h)
theorem tapSend {c tap t} (h : Keeps o d) : Keeps o (tapSend c tap t d) :=
  .updUnit (.updCore h)
theorem putSpill {r t} (h : Keeps o d) : Keeps o (putSpill r t d) :=
  .updUnit h
theorem unspill {r} (h : Keeps o d) : Keeps o (unspill r d) :=
  .updUnit (.updUnit h)
theorem spillWrite {u r t} (h : Keeps o d) : Keeps o (spillWrite u r t d) :=
  .setDegraded (.updCore (.putSpill h))
theorem tokenTransfer {u src} (h : Keeps o d) : Keeps o (tokenTransfer u src d) := by
  unfold Machine.tokenTransfer
  dsimp only
  split
  · exact h
  · split
    · exact h
    · exact .ite h (.ite (.dropSource (.setUnit h)) (by
      split
      · exact .ite (.dropSource (.updUnit (.spillWrite h))) h
      · exact h))
theorem muCorrected {u word cls} (h : Keeps o d) : Keeps o (muCorrected u word cls d) :=
  .setMgmt (.updUnit h) id
theorem spillReturn {u port lane err at_} (h : Keeps o d) : Keeps o (spillReturn u port lane err at_ d) := by
  unfold Machine.spillReturn
  dsimp only
  split
  · exact h
  · exact .ite h (.ite (.muError (.updUnit (.updUnit h))) (.unspill (.ite (.muCorrected (.updUnit h)) (.updUnit h))))
theorem deadlockRecords {sec ids m} (h : Keeps o d) : Keeps o (deadlockRecords sec ids m d) :=
  .foldl (.logCmd h) (fun _ _ hd => .ite (.logCmd hd) hd)
theorem latchDeadlock {c} (h : Keeps o d) : Keeps o (latchDeadlock c d) := by
  unfold Machine.latchDeadlock
  split
  · exact .updCore h
  · exact h
theorem watchdogExpiry {c} (h : Keeps o d) : Keeps o (watchdogExpiry c d) := by
  unfold Machine.watchdogExpiry
  split
  · exact h
  · split
    · exact h
    · exact .ite h (.haltSection (.replyQueues (.deadlockRecords (.latchDeadlock h))))
theorem contextSwitch {u} (h : Keeps o d) : Keeps o (contextSwitch u d) := by
  unfold Machine.contextSwitch
  dsimp only
  split
  · exact .ite (.setUnit h) h
  · exact h
theorem resetTaps {u k} (h : Keeps o d) : Keeps o (resetTaps u k d) :=
  .updCore h
theorem contextReload {u} (h : Keeps o d) : Keeps o (contextReload u d) := by
  unfold Machine.contextReload
  dsimp only
  split
  · exact .ite (.setUnit h) h
  · exact h
theorem commitReload {u r} (h : Keeps o d) : Keeps o (commitReload u r d) := by
  unfold Machine.commitReload
  split
  · exact h
  · dsimp only
    split
    · exact .pageHalt (.resetTaps (.setUnit (.ite (.writeCtxRecords h) h)))
    · exact .resetTaps (.setUnit (.ite (.writeCtxRecords h) h))
theorem countReloadFrame {u image count} (h : Keeps o d) : Keeps o (countReloadFrame u image count d) :=
  .ite (.updCore h) h
theorem contextWrite {u err} (h : Keeps o d) : Keeps o (contextWrite u err d) := by
  unfold Machine.contextWrite
  dsimp only
  split
  · exact .ite (by
    split
    · exact .tierFound h
    · exact h) (.ite (by
    split
    · exact .streamFault (by
      split
      · exact .tierFound h
      · exact h)
    · exact .countReloadFrame (.setUnit (by
      split
      · exact .tierFound h
      · exact h))) (.commitReload (by
    split
    · exact .tierFound h
    · exact h)))
  · split
    · exact .tierFound h
    · exact h
theorem flitTurn {l arrive credit ends} (h : Keeps o d) : Keeps o (flitTurn l arrive credit ends d) :=
  .ite h h
theorem updHitch {q vc f} (h : Keeps o d) : Keeps o (updHitch q vc f d) :=
  h
theorem hitchToHub {q vc arrive ready} (h : Keeps o d) : Keeps o (hitchToHub q vc arrive ready d) := by
  unfold Machine.hitchToHub
  dsimp only
  split
  · exact .ite (by
    split
    · exact .resetIdle (.updHitch h)
    · exact .updHitch h) (.updHitch h)
  · exact .updHitch h

/-! ### The operations of Machine/Streams.lean -/

theorem wordDqOpen {u} (h : Keeps o d) : Keeps o (wordDqOpen u d) :=
  .ite (.retireNow (.updSlot h)) h
theorem raiseAffinity {p} (h : Keeps o d) : Keeps o (raiseAffinity p d) :=
  .ite (.setTiers (.setRes h) id id id) (.setRes h)
theorem translationFill {c p err} (h : Keeps o d) : Keeps o (translationFill c p err d) :=
  .ite (.ite (.tierError (.ite (.setTiers (.updCore h) id id id) (.updCore h)))
    (.ite (.updCore (.raiseAffinity (.setRes (.ite (.setTiers (.updCore h) id id id) (.updCore h)))))
      (.ite (.setTiers (.updCore h) id id id) (.updCore h)))) h
theorem countFarRead {c p} (h : Keeps o d) : Keeps o (countFarRead c p d) :=
  .ite h (by
    split
    · exact h
    · exact .ite (.raiseAffinity (.updCore h)) (.updCore h))
theorem requestLoad {c n s} (h : Keeps o d) : Keeps o (requestLoad c n s d) := by
  unfold Machine.requestLoad
  dsimp only
  split
  · exact .streamFault h
  · exact .updCore h
theorem requestStore {c n} (h : Keeps o d) : Keeps o (requestStore c n d) := by
  unfold Machine.requestStore
  split
  · exact h
  · split
    · exact .flushEntry h
    · exact .updCore (.ite (.resetIdle h) h)
theorem requestLoop {c k} (h : Keeps o d) : Keeps o (requestLoop c k d) := by
  induction k generalizing d with
  | zero => exact h
  | succ k ih =>
    unfold Machine.requestLoop
    split
    · exact h
    · exact ih (.ite (.requestStore h) (.requestLoad h))
theorem countMove {mv} (h : Keeps o d) : Keeps o (countMove mv d) :=
  .ite (.updMb (.ite h h)) (.ite h h)
theorem finishMove {mv} (h : Keeps o d) : Keeps o (finishMove mv d) :=
  .ite (.countMove (.giveFrame h)) h
theorem finishMoves (h : Keeps o d) : Keeps o (finishMoves d) :=
  .foldl h (fun _ _ hd => .finishMove hd)
theorem loadFill {c q err} (h : Keeps o d) : Keeps o (loadFill c q err d) := by
  unfold Machine.loadFill
  split
  · exact h
  · dsimp only
    split
    · exact .streamFault h
    · exact .ite (.updCore h) (.ite (.tierError h)
        (.finishMoves (.updSlot (.updCore (.countFarRead (.ite h (.countTierRead h)))))))
theorem tileRelease {c n} (h : Keeps o d) : Keeps o (tileRelease c n d) :=
  .ite h (by
    split
    · exact h
    · dsimp only
      split
      · exact .updSlot (.updCore (.tapSend h))
      · exact h)
theorem storeAccept {c tap} (h : Keeps o d) : Keeps o (storeAccept c tap d) := by
  unfold Machine.storeAccept
  split
  · exact h
  · split
    · exact h
    · dsimp only
      split
      · exact h
      · exact .updCore (.tapTake h)
theorem storeAck {c q err} (h : Keeps o d) : Keeps o (storeAck c q err d) := by
  unfold Machine.storeAck
  split
  · exact h
  · split
    · exact .flushEntry h
    · exact .ite (.updCore h) (.ite (.tierError h) (.countWritten (.dropStore (.writeEntry (.ite (.countTierRead h) h)))))
theorem startMove {p unit kind mbx e} (h : Keeps o d) (he : startMove p unit kind mbx d = some e) : Keeps o e := by
  unfold Machine.startMove at he
  dsimp only at he
  split at he
  · cases he
  · obtain ⟨r, hr, rfl⟩ := Option.map_eq_some_iff.mp he
    exact .setMoves (.setRes (.takeFrame h hr))
theorem startDemotion {e} (h : Keeps o d) (he : startDemotion d = some e) : Keeps o e := by
  obtain ⟨c, -, hc⟩ := List.exists_of_findSome?_eq_some he
  split at hc
  · cases hc
  · obtain ⟨p, -, hp⟩ := Option.bind_eq_some_iff.mp hc
    obtain ⟨u, -, hu⟩ := Option.bind_eq_some_iff.mp hp
    exact .startMove h hu
theorem startPromotion_fst {n} (h : Keeps o d) : ∀ e, (startPromotion n d).1 = some e → Keeps o e := by
  induction n generalizing d with
  | zero => exact fun _ he => nomatch he
  | succ n ih =>
    unfold Machine.startPromotion
    split
    · exact fun _ he => nomatch he
    · rename_i rest _
      have h1 : Keeps o { d with tiers := { d.tiers with promoQ := rest } } := h
      dsimp only
      split
      · rename_i hm
        rintro e ⟨⟩
        split at hm
        · exact .startMove h1 hm
        · cases hm
      · exact ih h1
theorem startPromotion_snd {n} (h : Keeps o d) : Keeps o (startPromotion n d).2 := by
  induction n generalizing d with
  | zero => exact h
  | succ n ih =>
    unfold Machine.startPromotion
    split
    · exact h
    · dsimp only
      split
      · exact h
      · exact ih h
theorem settleChanges (h : Keeps o d) : Keeps o (settleChanges d) :=
  .foldl h (fun _ _ hd => by
    split
    · exact .ite (.endDone hd) hd
    · exact hd)
theorem migrationStart (h : Keeps o d) : Keeps o (migrationStart d) := by
  have h1 := Keeps.setTiers (x := { (Machine.finishMoves d).tiers with demoting := demoteRuns (Machine.finishMoves d) })
    (.finishMoves h) id id id
  have hs := Keeps.startPromotion_fst (n := (Machine.finishMoves d).tiers.promoQ.length) h1
  have hn := Keeps.startPromotion_snd (n := (Machine.finishMoves d).tiers.promoQ.length) h1
  refine .ite h1 ?_
  split
  · rename_i he; rw [he] at hs; exact hs _ rfl
  · rename_i he; rw [he] at hn; exact .getD hn fun _ => .startDemotion hn
theorem pageMoveLoop {m n} (h : Keeps o d) : Keeps o (pageMoveLoop m n d) := by
  induction n generalizing d with
  | zero => exact h
  | succ n ih =>
    unfold Machine.pageMoveLoop
    split
    · refine .ite h (.ite (.endFailed (.replyAddr h)) ?_)
      split
      · rename_i he; exact ih (.updMb (.startMove h he))
      · exact ih (.updMb h)
    · exact h
theorem pageMoveStep {m} (h : Keeps o d) : Keeps o (pageMoveStep m d) := by
  unfold Machine.pageMoveStep
  split
  · dsimp only
    split
    · exact .endDone (.reply (.reply (.pageMoveLoop h)))
    · exact .pageMoveLoop h
  · exact h
theorem invalidationDone (h : Keeps o d) : Keeps o (invalidationDone d) := by
  unfold Machine.invalidationDone
  split
  · exact h
  · exact .foldl (.settleChanges (.finishMoves (.giveFreed (.foldl h (fun _ _ hd => .ite (.updCore hd) hd)))))
      (fun _ _ hd => .pageMoveStep hd)
theorem dropMove {mv addr} (h : Keeps o d) : Keeps o (dropMove mv addr d) :=
  .ite (by
    split
    · exact .endFailed (.replyAddr (.setRes (.endMove h)))
    · exact .setRes (.endMove h)) (.setRes (.endMove h))
theorem switchMove {mv} (h : Keeps o d) : Keeps o (switchMove mv d) :=
  .setTiers (.invalidate (.setRes (.ite h (.writeFrame h)))) id id id
theorem moveCopyDone {p err} (h : Keeps o d) : Keeps o (moveCopyDone p err d) := by
  unfold Machine.moveCopyDone
  split
  · exact h
  · exact .share (by
    split
    · exact .dropMove (.tierFound h)
    · exact .finishMoves (.switchMove (.tierFound h))) fun h1 => .ite (.pageMoveStep h1) h1
theorem decaySweep (h : Keeps o d) : Keeps o (decaySweep d) :=
  .ite h (.setTiers (.foldl h (fun _ _ hd => .setRes hd)) id id id)
theorem patrolScrub {c frame entry err} (h : Keeps o d) : Keeps o (patrolScrub c frame entry err d) := by
  unfold Machine.patrolScrub
  split
  · exact h
  · split
    · exact .tierError h
    · exact .log h
  · exact h

/-! ### The operations of Machine/Sequencer.lean -/

theorem updSeq {c f} (h : Keeps o d) : Keeps o (Device.updSeq d c f) :=
  .updCore h
theorem retireEntry {c} (h : Keeps o d) : Keeps o (retireEntry c d) :=
  .progressed (.updCore h)
theorem entryTurn {code act c} (hact : ∀ sec v e, Keeps o e → Keeps o (act sec c v e).1) (h : Keeps o d) :
    Keeps o (entryTurn code act c d) := by
  unfold Machine.entryTurn
  dsimp only
  split
  · exact .ite (.share (hact _ _ _ (.updSeq h)) fun h1 => .ite (.retireEntry h1) (.updSeq h1)) h
  · exact h
theorem actMark {sec x1 v} (h : Keeps o d) : Keeps o (actMark sec x1 v d).1 := by
  unfold Machine.actMark
  split
  · exact .updMb h
  · exact h
theorem startStream {c desc slot} (h : Keeps o d) : Keeps o (startStream c desc slot d) :=
  .updCore h
theorem actStream {x0 c v} (h : Keeps o d) : Keeps o (actStream x0 c v d).1 :=
  .iteFst h (.startStream h)
theorem actChunk {sec c x2} (h : Keeps o d) : Keeps o (actChunk sec c x2 d).1 :=
  .iteFst h (by
    dsimp only
    split
    · exact .iteFst (.updSeq h) (.updMb (.updSeq h))
    · exact .updSeq h)
theorem askReload {u ctx image} (h : Keeps o d) : Keeps o (askReload u ctx image d) :=
  .updUnit h
theorem askSwitch {u ctx} (h : Keeps o d) : Keeps o (askSwitch u ctx d) :=
  .updUnit h
theorem startUnits {sec c v} (h : Keeps o d) : Keeps o (startUnits sec c v d) :=
  .share (.ite (.foldl (.foldl h (fun _ _ hd => .askReload hd)) (fun _ _ hd => .askReload hd)) h) fun h1 => .share
    (.ite (.foldl h1 (fun _ _ hd => .askSwitch hd)) h1) fun h2 => .updSeq (.ite (.foldl h2 (fun _ _ hd => .askSwitch hd)) h2)
theorem stepUnits {c ctx} (h : Keeps o d) : Keeps o (stepUnits c ctx d) :=
  .updSeq (.foldlFst h (fun _ _ hd => .iteFst (.iteFst hd (.iteFst (.askSwitch hd) hd)) (.iteFst hd hd)))
theorem actUnits {sec c v} (h : Keeps o d) : Keeps o (actUnits sec c v d).1 :=
  .iteFst h (.ite (.stepUnits h) (.startUnits h))
theorem dropWait {c} (h : Keeps o d) : Keeps o (dropWait c d) :=
  h
theorem stopSeq {st c} (h : Keeps o d) : Keeps o (stopSeq st c d) :=
  .updSeq (.dropWait h)
theorem takeResume {c} (h : Keeps o d) : Keeps o (takeResume c d) :=
  .ite (.updSeq (.setCtrl h)) h
theorem sendResume {c} (h : Keeps o d) : Keeps o (sendResume c d) :=
  .takeResume (.pushCtrl h)
theorem popCtrl {c} (h : Keeps o d) : Keeps o (popCtrl c d) :=
  .setCtrl h
theorem suspendMessage {c} (h : Keeps o d) : Keeps o (suspendMessage c d) :=
  .ite (.takeResume (.stopSeq (.popCtrl h))) h
theorem abandonUnits {c} (h : Keeps o d) : Keeps o (abandonUnits c d) :=
  .foldl h (fun _ _ hd => .updUnit hd)
theorem haltMessage {c} (h : Keeps o d) : Keeps o (haltMessage c d) :=
  .ite (.haltCore (.stopSeq (.abandonUnits (.setCtrl h)))) h

/-! ### The operations of Machine/SyncChannels.lean -/

theorem sendTally {sec c op v} (h : Keeps o d) : Keeps o (sendTally sec c op v d) :=
  .updQuad h
theorem actSem {op sec c v} (h : Keeps o d) : Keeps o (actSem op sec c v d).1 :=
  .iteFst (.sendTally h) h
theorem actSemWait {sec c v} (h : Keeps o d) : Keeps o (actSemWait sec c v d).1 :=
  .iteFst h (.iteFst h (.updSeq (.sendTally h)))
theorem releaseWait {c} (h : Keeps o d) : Keeps o (releaseWait c d) :=
  .updSeq h
theorem tallyOperation {k} (h : Keeps o d) : Keeps o (tallyOperation k d) := by
  unfold Machine.tallyOperation
  dsimp only
  split
  · exact h
  · exact .foldl (.updQuad h) (fun _ _ hd => .releaseWait hd)
theorem postArrival {level m} (h : Keeps o d) : Keeps o (postArrival level m d) :=
  h
theorem postRelease {c m} (h : Keeps o d) : Keeps o (postRelease c m d) :=
  h
theorem arrive {sec c b} (h : Keeps o d) : Keeps o (arrive sec c b d) :=
  .updSeq (.postArrival h)
theorem tryArrive {sec c v} (h : Keeps o d) : Keeps o (tryArrive sec c v d).1 :=
  .iteFst h (.iteFst (.arrive h) h)
theorem actBarArrive {sec c v} (h : Keeps o d) : Keeps o (actBarArrive sec c v d).1 :=
  .tryArrive h
theorem actBarWait {x0 c v} (h : Keeps o d) : Keeps o (actBarWait x0 c v d).1 :=
  h
theorem actBarArriveWait {sec c v} (h : Keeps o d) : Keeps o (actBarArriveWait sec c v d).1 :=
  .tryArrive h
theorem stopAtMark {c b} (h : Keeps o d) : Keeps o (stopAtMark c b d) :=
  .ite (.updSeq h) h
theorem barTurn {code act c} (hact : ∀ sec v e, Keeps o e → Keeps o (act sec c v e).1) (h : Keeps o d) :
    Keeps o (barTurn code act c d) :=
  have h1 := Keeps.entryTurn hact h
  .ite (.stopSeq h) (.ite (.stopAtMark h1) h1)
theorem releaseLive {sec b round epoch} (h : Keeps o d) : Keeps o (releaseLive sec b round epoch d) :=
  .foldl (.foldl (.updSection h) (fun _ _ hd => .ite (.updQuad hd) hd)) (fun _ _ hd => .postRelease hd)
theorem releaseLocal {sec b round epoch} (h : Keeps o d) : Keeps o (releaseLocal sec b round epoch d) := by
  unfold Machine.releaseLocal
  split
  · exact .updSection h
  · exact .releaseLive h
theorem releaseSystem {sec b round epoch} (h : Keeps o d) : Keeps o (releaseSystem sec b round epoch d) :=
  .releaseLocal (.foldl h (fun _ _ hd => .sendPacket hd))
theorem setCount {k x} (h : Keeps o d) : Keeps o (setCount k x d) :=
  h
theorem clearCount {k} (h : Keeps o d) : Keeps o (clearCount k d) :=
  h
theorem rootComplete {sec b round epoch} (h : Keeps o d) : Keeps o (rootComplete sec b round epoch d) :=
  .ite (.releaseLocal h) (by
    split
    · exact .ite h (.setCount (.sendPacket h))
    · exact .releaseSystem h)
theorem countArrival {level sec m} (h : Keeps o d) : Keeps o (countArrival level sec m d) :=
  .ite (.ite (.postArrival (.clearCount h)) (.setCount h)) (.ite (.rootComplete (.clearCount h)) (.setCount h))
theorem barrierArrival {level} (h : Keeps o d) : Keeps o (barrierArrival level d) := by
  unfold Machine.barrierArrival
  split
  · exact h
  · dsimp only
    split
    · exact .countArrival h
    · exact h
theorem barrierRelease {c} (h : Keeps o d) : Keeps o (barrierRelease c d) := by
  unfold Machine.barrierRelease
  split
  · exact h
  · exact .updSeq h
theorem takeOpen {sec c src dst slot gen} (h : Keeps o d) : Keeps o (takeOpen sec c src dst slot gen d) := by
  unfold Machine.takeOpen
  dsimp only
  split
  · exact .updEp h
  · exact .sendChan (.updEp h)
  · exact .sendChan (.updCore h)
theorem reopen {sec c e} (h : Keeps o d) : Keeps o (reopen sec c e d) :=
  .foldl h (fun _ _ hd => .takeOpen (.updEp hd))
theorem closeDue {sec c e} (h : Keeps o d) : Keeps o (closeDue sec c e d) :=
  .ite (.closeEndpoint h) h
theorem actListen {sec c v} (h : Keeps o d) : Keeps o (actListen sec c v d).1 :=
  .reopen (.updEp (.closeDue h))
theorem actOpen {sec c v} (h : Keeps o d) : Keeps o (actOpen sec c v d).1 :=
  .sendChan (.updEp (.closeDue h))
theorem actClose {x0 c v} (h : Keeps o d) : Keeps o (actClose x0 c v d).1 :=
  .updEp h
theorem popChan {c} (h : Keeps o d) : Keeps o (popChan c d) := by
  unfold Machine.popChan
  dsimp only
  split
  · exact .settleChan (.setChan h)
  · exact .setChan h
theorem openReceived {c} (h : Keeps o d) : Keeps o (openReceived c d) := by
  unfold Machine.openReceived
  split
  · exact .takeOpen (.popChan h)
  · exact h
theorem sendToken {sec c e t ends} (h : Keeps o d) : Keeps o (sendToken sec c e t ends d) :=
  .sendChan (.ite (.updEp h) (.resetIdle (.updEp h)))
theorem drainRing {sec c e err n} (h : Keeps o d) : Keeps o (drainRing sec c e err n d) := by
  induction n generalizing d with
  | zero => exact h
  | succ n ih =>
    unfold Machine.drainRing
    dsimp only
    split
    · split
      · exact .streamFault (.tierFound h)
      · exact ih (.sendToken (.updEp (.tierFound h)))
    · exact h
theorem grantReceived {c err} (h : Keeps o d) : Keeps o (grantReceived c err d) := by
  unfold Machine.grantReceived
  split
  · exact .drainRing (.updEp (.popChan h))
  · exact .ite (.closeSender (.popChan h)) (.popChan h)
  · exact h
theorem creditReturn {c err} (h : Keeps o d) : Keeps o (creditReturn c err d) := by
  unfold Machine.creditReturn
  split
  · exact .drainRing (.updEp (.popChan h))
  · exact h
theorem countEntry {c e t} (h : Keeps o d) : Keeps o (countEntry c e t d) :=
  .ite (.updCore (.updEp h)) (.updEp h)
theorem overflow {sec c e t ends} (h : Keeps o d) : Keeps o (overflow sec c e t ends d) := by
  unfold Machine.overflow
  dsimp only
  split
  · exact .streamFault h
  · exact .setDegraded (.updCore (.updEp (.writeLogical (.writeLogical h))))
theorem dropToken {c e ends} (h : Keeps o d) : Keeps o (dropToken c e ends d) :=
  .ite (.updEp h) h
theorem channelTokenEntry {c e} (h : Keeps o d) : Keeps o (channelTokenEntry c e d) := by
  unfold Machine.channelTokenEntry
  dsimp only
  split
  · exact .ite h (by
    split
    · exact .dropToken (.countEntry (.tapTake h))
    · exact .ite (.overflow (.countEntry (.tapTake h))) h
    · exact .ite (.sendToken (.countEntry (.tapTake h))) (.ite (.overflow (.countEntry (.tapTake h))) h)
    · exact .ite (.sendToken (.countEntry (.tapTake h))) (.ite (.overflow (.countEntry (.tapTake h))) h)
    · exact h)
  · exact h
theorem closeMarker {c} (h : Keeps o d) : Keeps o (closeMarker c d) := by
  unfold Machine.closeMarker
  split
  · exact .sendChan (.updEp h)
  · exact h
theorem messageDelivery {c e} (h : Keeps o d) : Keeps o (messageDelivery c e d) := by
  unfold Machine.messageDelivery
  dsimp only
  split
  · split
    · exact .ite (.sendChan (.updEp (.tapSend h))) h
    · exact h
  · exact h
theorem endpointClose {c e} (h : Keeps o d) : Keeps o (endpointClose c e d) := by
  unfold Machine.endpointClose
  split
  · exact .closeDue h
  · exact h

/-! ### The operations of Machine/Training.lean -/

theorem clearPending {sec g} (h : Keeps o d) : Keeps o (clearPending sec g d) :=
  .foldl h (fun _ _ hd => .setRes hd)
theorem applyTile {sec err seed step a g k acc} (h : Keeps o acc.dev) :
    Keeps o (applyTile sec err seed step a g k acc).dev := by
  unfold Machine.applyTile
  dsimp only
  split
  · exact h
  · split
    · exact .setTraining (.foldl h fun _ _ hd => .tierFound hd)
    · exact .setTraining (.countGroup
        (.writeLogical (.share (.writeLogical (.setTraining (.foldl h fun _ _ hd => .tierFound hd)))
        fun h1 => .share (.ite (.writeLogical h1) h1) fun h2 => .ite (.writeLogical h2) h2)))
theorem statusReads {sec gs off n err} (h : Keeps o d) : Keeps o (statusReads sec gs off n err d).1 :=
  .foldl h (fun _ _ hd => .writeFound hd)
theorem applyPhase {sec err seed step} (h : Keeps o d) : Keeps o (applyPhase sec err seed step d).1 := by
  unfold Machine.applyPhase
  dsimp only
  split
  · exact .foldl h fun _ _ hd => .tierFound hd
  · generalize hr : List.foldl _ _ (List.zipIdx _) = r
    have h1 : Keeps o r.1 := by
      rw [← hr]
      refine .foldlFst (.foldl h fun _ _ hd => .tierFound hd) fun _ _ hd => ?_
      exact List.foldlRecOn (motive := fun (a : ApplyAcc) => Keeps o a.dev) _ _ hd fun _ ha _ _ => .applyTile ha
    split
    · exact h1
    · split
      · exact .statusReads (.foldl h1 fun _ _ hd => .clearPending hd)
      · exact .foldl (.statusReads (.foldl h1 fun _ _ hd => .clearPending hd)) fun _ _ hd => .writeLogical hd
theorem sendRound {sec} (h : Keeps o d) : Keeps o (sendRound sec d) :=
  .foldl h (fun _ _ hd => .foldl hd (fun _ _ he => .foldl he (fun _ _ hf => .sendPacket hf)))
theorem digestReads {sec err} (h : Keeps o d) : Keeps o (digestReads sec err d).1 :=
  .statusReads (.foldl h (fun _ _ hd => .tierFound hd))
theorem startCompare {sec set} (h : Keeps o d) : Keeps o (startCompare sec set d) :=
  .sendRound (.foldl h (fun _ _ hd => .writeLogical hd))
theorem dropRound (h : Keeps o d) : Keeps o (dropRound d) :=
  h
theorem replyLeaves {m sec repaired source} (h : Keeps o d) : Keeps o (replyLeaves m sec repaired source d) :=
  .foldl (.reply h) (fun _ _ hd => .reply hd)
theorem sendPage {sec g leaf node} (h : Keeps o d) : Keeps o (sendPage sec g leaf node d) :=
  .foldl h (fun _ _ hd => .sendPacket hd)
theorem sendRepairs {sec} (h : Keeps o d) : Keeps o (sendRepairs sec d) :=
  .foldl h (fun _ _ hd => by
    split
    · exact .ite (.foldl hd (fun _ _ he => .sendPage he)) hd
    · exact hd)
theorem leavesDone {sec} (h : Keeps o d) : Keeps o (leavesDone sec d) :=
  .ite (.sendRound h) h
theorem compareRounds {sec fuel} (h : Keeps o d) : Keeps o (compareRounds sec fuel d).1 := by
  induction fuel generalizing d with
  | zero => exact h
  | succ fuel ih =>
    unfold Machine.compareRounds
    dsimp only
    have h1 := Keeps.dropRound h
    exact .iteFst h (.iteFst (ih (.sendRound h1)) (.iteFst h1 (.iteFst (.leavesDone (.sendRepairs h1)) h1)))
theorem writeRepair {sec g leaf} (h : Keeps o d) : Keeps o (writeRepair sec g leaf d) := by
  unfold Machine.writeRepair
  dsimp only
  split
  · exact h
  · rename_i v _
    exact .of_eq (d := Machine.writePage ((leafPages sec g).getD leaf 0) 0 65536 v d) (.writePage h)
theorem repairStep {sec} (h : Keeps o d) : Keeps o (repairStep sec d).1 :=
  .share (.foldl h (fun _ _ hd => .writeRepair hd)) fun h1 => .iteFst (.ite (.leavesDone h1) h1)
    (.iteFst (.ite (.leavesDone h1) h1) (.dropRound (.ite (.leavesDone h1) h1)))
theorem compareStep {sec} (h : Keeps o d) : Keeps o (compareStep sec d).1 :=
  .iteFst (.repairStep h) (.compareRounds h)

/-! ### The operations of Machine/Runs.lean -/

theorem zeroCounts {sec} (h : Keeps o d) : Keeps o (zeroCounts sec d) :=
  .foldl (.foldl h (fun _ _ hd => .updCore hd)) (fun _ _ hd => .updUnit hd)
theorem noDrops {sec} (h : Keeps o d) : Keeps o (noDrops sec d) :=
  .foldl h (fun _ _ hd => .updCore hd)
theorem prepareSection {m hnd} (h : Keeps o d) : Keeps o (prepareSection m hnd d) := by
  unfold Machine.prepareSection
  split
  · exact h
  · exact .updSection (.setTraining (.noDrops (.zeroRecords (.zeroCounts (.clearBarriers (.clearSems h))))))
theorem bindIngest {m to_} (h : Keeps o d) : Keeps o (bindIngest m to_ d) :=
  .foldl h (fun _ _ hd => hd)
theorem beginStage {m hnd stage} (h : Keeps o d) : Keeps o (beginStage m hnd stage d) := by
  unfold Machine.beginStage
  split
  · exact h
  · exact .updMb (.updSection (.foldl h (fun _ _ hd => .updCore hd)))
theorem startRun {m} (h : Keeps o d) : Keeps o (startRun m d) :=
  .beginStage (.bindIngest (.updMb (.foldl h (fun _ _ hd => .prepareSection hd))))
theorem clearScrub {x} (h : Keeps o d) : Keeps o (clearScrub x d) :=
  .foldl h (fun _ _ hd => by
    split
    · exact .foldl hd (fun _ _ he => .updUnit he)
    · exact hd)
theorem commandStart (h : Keeps o d) : Keeps o (commandStart d) :=
  .ite h (by
    split
    · exact h
    · split
      · exact .endFailed (.ite (.clearScrub h) h)
      · exact .startRun h)
theorem noteDrops {m} (h : Keeps o d) : Keeps o (noteDrops m d) := by
  unfold Machine.noteDrops
  split
  · exact h
  · exact .updMb (.replyQueues h)
theorem countMissed {m} (h : Keeps o d) : Keeps o (countMissed m d) :=
  .ite h h
theorem idleSection {hnd} (h : Keeps o d) : Keeps o (idleSection hnd d) := by
  unfold Machine.idleSection
  split
  · exact .lostReturns (.updSection (.dropSuspends h))
  · exact h
theorem doneRun {m hnd} (h : Keeps o d) : Keeps o (doneRun m hnd d) :=
  .settleJobs (.countMissed (.endDone (.releaseStages (.idleSection (.ite (.updMb h) h)))))
theorem finishRun {m sec} (h : Keeps o d) : Keeps o (finishRun m sec d) := by
  unfold Machine.finishRun
  split
  · exact .pageHalt h
  · exact .doneRun (.noteDrops (.closeEndpoints (.writeRecords h)))
theorem settleCompare {m sec r} (h : Keeps o r.1) : Keeps o (settleCompare m sec r) := by
  unfold Machine.settleCompare
  dsimp only
  split
  · exact .updMb h
  · exact .finishRun (.endCompare h)
  · exact .finishRun (.endCompare (.updMb (.replyLeaves (.updMb h))))
  · exact .settleJobs (.endFailed (.releaseStages
      (.idleSection (.closeEndpoints (.writeRecords (.endCompare (.replyLeaves (.updMb h))))))))
theorem stopRun {hnd} (h : Keeps o d) : Keeps o (stopRun hnd d).1 := by
  unfold Machine.stopRun
  split
  · exact h
  · dsimp only
    exact .settleJobs (.lostReturns
      (.failWaiting (.updSection (.closeEndpoints (.writeRecords (.flushStores (.sendHalts h)))))))
theorem replyLosses {m} (h : Keeps o d) : Keeps o (replyLosses m d) :=
  .foldl (.reply h) (fun _ _ hd => .reply hd)
theorem dissolveSet {code} (h : Keeps o d) : Keeps o (dissolveSet code d) :=
  .setSet (.leaveSet h)
theorem endHalting (h : Keeps o d) : Keeps o (endHalting d) := by
  unfold Machine.endHalting
  dsimp only
  split
  · exact .dissolveSet h
  · rename_i sec _
    have h1 : Keeps o (sec.cores.foldl (fun d c => (d.core c).eps.foldl (fun d e =>
        if e.2.dest.node = ownNode d then d else Machine.closeSender c e.1 true d) d) d) :=
      .foldl h fun _ _ hd => .foldl hd fun _ _ he => .ite he (.closeSender he)
    split
    · exact .dissolveSet (.failWaiting h1)
    · generalize hr : (if sec.state = .preempted then _ else _) = r
      have h2 : Keeps o r.1 := by
        rw [← hr]
        split
        · dsimp only
          exact .failWaiting h1
        · exact .stopRun (.failWaiting h1)
      refine .dissolveSet ?_
      split
      · exact .endFailed (.replyAddr (.releaseStages (.endComparing h2)))
      · exact .ite (.endFailed (.replyLosses (.releaseStages (.endComparing h2)))) (.releaseStages (.endComparing h2))
theorem compareRun {m err sec} (h : Keeps o d) : Keeps o (compareRun m err sec d) := by
  unfold Machine.compareRun
  split
  · exact .finishRun h
  · refine .ite (.endHalting h) (.ite (.haltSection h) ?_)
    dsimp only
    split
    · exact .pageHalt (.digestReads h)
    · exact .settleCompare (.compareStep (.startCompare (.digestReads h)))
theorem applyRun {m err sec} (h : Keeps o d) : Keeps o (applyRun m err sec d) := by
  unfold Machine.applyRun
  dsimp only
  split
  · exact .pageHalt (.foldlFst (.updMb h) (fun _ _ hd => .iteFst hd (by
    split
    · exact .applyPhase hd
    · exact hd)))
  · exact .compareRun (.foldlFst (.updMb h) (fun _ _ hd => .iteFst hd (by
    split
    · exact .applyPhase hd
    · exact hd)))
theorem endEpoch {m sec} (h : Keeps o d) : Keeps o (endEpoch m sec d) :=
  .ite (.finishRun (.reply (.setSet (.stopStreams h)))) (.stopStreams h)
theorem stopCommand {m code to_} (h : Keeps o d) : Keeps o (stopCommand m code to_ d) := by
  unfold Machine.stopCommand
  split
  · split
    · exact .updMb (.updSection (.sendHalts h))
    · exact .endFailed h
  · exact .updMb h
  · exact h
theorem switchFallback {m f} (h : Keeps o d) : Keeps o (switchFallback m f d) :=
  .beginStage (.bindIngest (.prepareSection (.unbind (.setSched (.updMb h)))))
theorem finishStop {m hnd code to_} (h : Keeps o d) : Keeps o (finishStop m hnd code to_ d) :=
  .ite (.stopRun h) (.settleJobs (by
    split
    · exact .endFailed (.replyAddr (.releaseStages (.stopRun h)))
    · exact .switchFallback (.releaseStages (.stopRun h))
    · exact .countMissed (.endFailed (.releaseStages (.stopRun h)))))
theorem commandEnd {m err} (h : Keeps o d) : Keeps o (commandEnd m err d) := by
  unfold Machine.commandEnd
  split
  · split
    · exact h
    · exact .ite h (.ite (.endHalting h)
        (.ite (.endEpoch h) (.ite (.ite (.stopStreams h) (.ite (.applyRun (.stopStreams h)) (.finishRun (.stopStreams h)))) h)))
  · split
    · dsimp only
      split
      · exact .pageHalt (.digestReads h)
      · exact .settleCompare (.compareStep (.digestReads h))
    · exact h
  · split
    · exact .ite (.ite (.endHalting (.finishStop h)) (.finishStop h)) h
    · exact h
  · exact h
theorem stageHandover {m} (h : Keeps o d) : Keeps o (stageHandover m d) := by
  unfold Machine.stageHandover
  dsimp only
  split
  · split
    · exact .ite (.ite (.haltSection h) (.ite h (.ite (.stopStreams h) (by
      split
      · exact .pageHalt (.stopStreams h)
      · exact .settleJobs (.beginStage (.idleSection (.closeEndpoints (.writeRecords (.stopStreams h))))))))) h
    · exact h
  · exact h
theorem lateNever {m} (h : Keeps o d) : Keeps o (lateNever m d) :=
  .updMb h
theorem startFallback {m f} (h : Keeps o d) : Keeps o (startFallback m f d) := by
  unfold Machine.startFallback
  dsimp only
  split
  · exact .updMb (.updSection (.stopCommand h))
  · exact .switchFallback h
theorem lateCommand {m rec_} (h : Keeps o d) : Keeps o (lateCommand m rec_ d) := by
  unfold Machine.lateCommand
  dsimp only
  split
  · split
    · exact .ite (.startFallback h) (.lateNever h)
    · exact .lateNever h
  · exact .ite h (.ite (.lateNever h) (.ite (.stopCommand h) (.countMissed (.endFailed h))))
  · exact .lateNever h
theorem deadlineCheck {m} (h : Keeps o d) : Keeps o (deadlineCheck m d) :=
  .ite h (.ite (.lateCommand h) h)

/-! ### The operations of Machine/Loading.lean -/

theorem writeFrameTarget {image f c} (h : Keeps o d) : Keeps o (writeFrameTarget image f c d) :=
  .ite (.updUnit (.updCore h)) (.ite (.updCore (.updCore h)) (.ite (.updCore (.updCore h)) (.updCore h)))
theorem setFence {mine all} (h : Keeps o d) : Keeps o (setFence mine all d) :=
  .foldl h (fun _ _ hd => .updUnit hd)
theorem liftFence {mine} (h : Keeps o d) : Keeps o (liftFence mine d) :=
  .foldl h (fun _ _ hd => .updUnit hd)
theorem holdLane {ctx on units} (h : Keeps o d) : Keeps o (holdLane ctx on units d) :=
  .foldl h (fun _ _ hd => .updUnit hd)
theorem cfgBegin {c} (h : Keeps o d) : Keeps o (cfgBegin c d) := by
  unfold Machine.cfgBegin
  split
  · dsimp only
    split
    · exact .foldl (.updCore (.popCtrl h)) (fun _ _ hd => .updUnit hd)
    · exact .holdLane (.updCore (.popCtrl h))
    · exact .setFence (.updCore (.popCtrl h))
  · exact h
theorem undoRegion {sec} (h : Keeps o d) : Keeps o (undoRegion sec d) := by
  unfold Machine.undoRegion
  split
  · exact h
  · exact .foldl (.updSection (.foldl h (fun _ _ hd => .setUnit hd))) (fun _ _ hd => .ite hd (.writeStoreImage hd))
theorem abortRegion {hnd e} (h : Keeps o d) : Keeps o (abortRegion hnd e d) := by
  unfold Machine.abortRegion
  split
  · exact .endFailed (.undoRegion (.foldl h (fun _ _ hd => .setCtrl hd)))
  · exact h
theorem endLoad {m code} (h : Keeps o d) : Keeps o (endLoad m code d) :=
  .ite (.updMb h) (by
    split
    · exact .endDone h
    · exact .endFailed h)
theorem dropWritten {g mine} (h : Keeps o d) : Keeps o (dropWritten g mine d) :=
  .ite (.holdLane (.foldl h (fun _ _ hd => .updUnit hd))) (.foldl h (fun _ _ hd => .updUnit hd))
theorem frameFailed {c f} (h : Keeps o d) : Keeps o (frameFailed c f d) := by
  unfold Machine.frameFailed
  dsimp only
  split
  · exact .updCore h
  · exact .ite (.abortRegion (.updCore h))
      (.haltSection (.foldl (.setCtrl (.updCore (.dropWritten (.logEnd (.updCore h))))) (fun _ _ hd => by
    split
    · exact .ite (.endLoad hd) hd
    · exact hd)))
theorem cfgFrame {c} (h : Keeps o d) : Keeps o (cfgFrame c d) := by
  unfold Machine.cfgFrame
  split
  · exact .ite (.popCtrl h) (.ite (.frameFailed (.popCtrl h))
      (.ite (.ite (.popCtrl h) (.updCore (.popCtrl h))) (.writeFrameTarget (.popCtrl h))))
  · exact h
theorem dropTokens {sec u} (h : Keeps o d) : Keeps o (dropTokens sec u d) :=
  .updSection (.updCore (.foldl (.foldl (.updUnit h) (fun _ _ hd => .ackOut hd)) (fun _ _ hd => .updUnit hd)))
theorem dropBorder {sec u k} (h : Keeps o d) : Keeps o (dropBorder sec u k d) := by
  unfold Machine.dropBorder
  dsimp only
  split
  · exact h
  · split
    · exact h
    · exact .updSection (.updCore (.dropSource (.updUnit h)))
theorem finishRegion {hnd} (h : Keeps o d) : Keeps o (finishRegion hnd d) := by
  unfold Machine.finishRegion
  split
  · exact .ite h (.endDone (.ite (by
    dsimp only
    split
    · exact .updMb (.updMb (.updSection h))
    · exact .updMb (.updSection h)) (.updSection h)))
  · exact h
theorem cfgCommit {c} (h : Keeps o d) : Keeps o (cfgCommit c d) := by
  unfold Machine.cfgCommit
  split
  · exact .ite (.popCtrl h) (.ite (.updCore (.updCore (.foldl (.popCtrl h) (fun _ _ hd => .updUnit hd))))
      (.ite (.updCore (.holdLane (.foldl (.popCtrl h) (fun _ _ hd => .resetTaps (.updUnit hd))))) (by
    split
    · exact .updCore (.popCtrl h)
    · exact .share (.foldl (.foldl (.ite (.foldl (.updSection (.popCtrl h)) (fun _ _ hd => .dropTokens hd))
        (.updSection (.popCtrl h))) (fun _ _ hd => .writeFrameTarget hd))
          (fun _ _ hd => .foldl (.updUnit hd) (fun _ _ he => .resetTaps he))) fun h1 => .finishRegion
            (.updCore (.liftFence (.ite (.foldl h1 (fun _ _ hd => .foldl hd (fun _ _ he => .dropBorder he))) h1))))))
  · exact h
theorem loadedCore {c} (h : Keeps o d) : Keeps o (loadedCore c d) := by
  unfold Machine.loadedCore
  split
  · exact h
  · exact .ite h (.ite (.updSection h) (.foldl (.updSection (.updSection h)) (fun _ _ hd => by
    split
    · exact .ite (.endLoad hd) hd
    · exact hd)))
theorem abortedCore {c} (h : Keeps o d) : Keeps o (abortedCore c d) := by
  unfold Machine.abortedCore
  split
  · exact h
  · split
    · exact .ite h (.settleJobs (.endFailed (.unloadSection h)))
    · exact h
theorem cfgAbort {c} (h : Keeps o d) : Keeps o (cfgAbort c d) := by
  unfold Machine.cfgAbort
  split
  · exact .abortedCore (.updCore (.ite (.holdLane (.popCtrl h)) (.ite (.liftFence (.popCtrl h)) (.popCtrl h))))
  · exact h
theorem patchImages {sec s} (h : Keeps o d) : Keeps o (patchImages sec s d) :=
  .foldl (.updSection h) (fun _ _ hd => .writeStoreImage hd)
theorem regionReady {c} (h : Keeps o d) : Keeps o (regionReady c d) := by
  unfold Machine.regionReady
  split
  · exact h
  · split
    · exact .ite (.ite (.foldl (.patchImages (.updCore h)) (fun _ _ hd => .pushCtrl hd)) (.updCore h)) h
    · exact h
theorem regionTimeout {c} (h : Keeps o d) : Keeps o (regionTimeout c d) := by
  unfold Machine.regionTimeout
  split
  · exact h
  · split
    · exact .ite (.abortRegion h) h
    · exact h
theorem sendRegion {m sec s len} (h : Keeps o d) : Keeps o (sendRegion m sec s len d) :=
  .updMb (.updSection (.foldl h (fun _ _ hd => .pushCtrl hd)))
theorem regionTurn {m} (h : Keeps o d) : Keeps o (regionTurn m d) := by
  unfold Machine.regionTurn
  split
  · split
    · exact .endFailed h
    · exact .ite (.endFailed h) (.ite (.sendRegion h) h)
  · exact h
theorem sendLoad {sec} (h : Keeps o d) : Keeps o (sendLoad sec d) :=
  .foldl h (fun _ _ hd => .updSection (.setCtrl (.updCore hd)))

/-! ### The operations of Machine/CoreReset.lean -/

theorem abortRegionOf {c} (h : Keeps o d) : Keeps o (abortRegionOf c d) := by
  unfold Machine.abortRegionOf
  split
  · split
    · exact .ite (.abortRegion h) h
    · exact h
  · exact h
theorem coreReset {c} (h : Keeps o d) : Keeps o (coreReset c d) :=
  .ite h (.resetCoreState (.releaseEdges (.flushCore (.closeCore (.abortRegionOf h)))))
theorem coreResetRow {c} (h : Keeps o d) : Keeps o (coreResetRow c d) :=
  .ite (.coreReset h) h

/-! ### The operations of Machine/Metering.lean -/

theorem updMeter {f} (h : Keeps o d) : Keeps o (Device.updMeter d f) :=
  h
theorem popFrame (h : Keeps o d) : Keeps o (popFrame d) :=
  .updMeter h
theorem rejectFrame (h : Keeps o d) : Keeps o (rejectFrame d) :=
  .updMeter (.popFrame h)
theorem nextReadSeq (h : Keeps o d) : Keeps o (nextReadSeq d) :=
  .updMeter h
theorem answered {mbx} (h : Keeps o d) : Keeps o (answered mbx d) :=
  .updMeter h
theorem copyReading (h : Keeps o d) : Keeps o (copyReading d) :=
  .updMeter h
theorem readingReply {m} (h : Keeps o d) : Keeps o (readingReply m d) :=
  .endDone (.reply (.reply (.reply (.reply h))))
theorem readRequest {crcOk} (h : Keeps o d) : Keeps o (readRequest crcOk d) := by
  unfold Machine.readRequest
  split
  · exact .ite (.popFrame h) (.ite (.rejectFrame h) (by
    split
    · exact .ite (.readingReply (.answered (.copyReading (.nextReadSeq (.popFrame h)))))
        (.answered (.copyReading (.nextReadSeq (.popFrame h))))
    · exact .answered (.copyReading (.nextReadSeq (.popFrame h)))))
  · exact h
theorem jobsRequest {crcOk} (h : Keeps o d) : Keeps o (jobsRequest crcOk d) := by
  unfold Machine.jobsRequest
  split
  · refine .ite (.popFrame h) (.ite (.rejectFrame h) ?_)
    exact .ite (.endDone (.reply (.reply (.answered (.nextReadSeq (.popFrame h)))))) (.answered (.nextReadSeq (.popFrame h)))
  · exact h
theorem takeShares {crcOk} (h : Keeps o d) : Keeps o (takeShares crcOk d) := by
  unfold Machine.takeShares
  split
  · exact .ite (.popFrame h) (.ite (.updMeter (.popFrame h)) (.rejectFrame h))
  · exact h
/-! ### Branches and folds -/

/-- A block that several branches go on from is spoken of once. -/
theorem sharesSend (h : Keeps o d) : Keeps o (sharesSend d) :=
  .ite (.updMeter h) h
theorem meterPoll (h : Keeps o d) : Keeps o (meterPoll d) :=
  .ite (.updMeter h) h
theorem endInternal {m} (h : Keeps o d) : Keeps o (endInternal m d) :=
  .endFailed (.logCmd h)
theorem meterNoReply (h : Keeps o d) : Keeps o (meterNoReply d) := by
  unfold Machine.meterNoReply
  split
  · exact .ite (by
    split
    · exact .ite (.endInternal (.updMeter h)) (.updMeter h)
    · exact .updMeter h) h
  · exact h

/-! ### The operations of Machine/PowerThermal.lean -/

theorem updPower {f} (h : Keeps o d) : Keeps o (Device.updPower d f) :=
  h
theorem retarget {f} (hf : ∀ e, Keeps o e → Keeps o (f e)) (h : Keeps o d) : Keeps o (retarget f d) :=
  .updPower (hf _ h)
theorem refreshSetPoints (h : Keeps o d) : Keeps o (refreshSetPoints d) :=
  .retarget (fun _ hd => .updPower hd) h
theorem powerLimitUpdate (h : Keeps o d) : Keeps o (powerLimitUpdate d) :=
  .ite h (.updPower h)
theorem thermalLimitUpdate {q} (h : Keeps o d) : Keeps o (thermalLimitUpdate q d) :=
  .ite (.irq (.log (.updPower (.updPower h)))) (.ite (.irq (.log (.updPower h))) (.updPower h))
theorem hardLimit {q on} (h : Keeps o d) : Keeps o (hardLimit q on d) :=
  .share (.retarget (fun _ hd => .updPower hd) h) fun h1 => .ite (.irq (.log h1)) h1
theorem hardLimitStart {q} (h : Keeps o d) : Keeps o (hardLimitStart q d) :=
  .ite (.hardLimit h) h
theorem hardLimitEnd {q} (h : Keeps o d) : Keeps o (hardLimitEnd q d) :=
  .ite (.hardLimit h) h
theorem throttleRecord {subject hours} (h : Keeps o d) : Keeps o (throttleRecord subject hours d) :=
  .ite (.irq (.log h)) h
theorem throttleStart {low} (h : Keeps o d) : Keeps o (throttleStart low d) :=
  .ite (.updPower h) (.ite (.updPower h) (.throttleRecord (.retarget (fun _ hd => .updPower hd) h)))
theorem throttleEnd (h : Keeps o d) : Keeps o (throttleEnd d) :=
  .ite (.throttleRecord (.retarget (fun _ hd => .updPower hd) h)) h
theorem lowBandEntry {mv} (h : Keeps o d) : Keeps o (lowBandEntry mv d) :=
  .ite (.refreshSetPoints (.log (.updPower h))) h
theorem lowBandExit {mv} (h : Keeps o d) : Keeps o (lowBandExit mv d) :=
  .ite (.refreshSetPoints (.log (.updPower h))) h
theorem highBandChange {mv} (h : Keeps o d) : Keeps o (highBandChange mv d) :=
  .ite h (.log (.updPower h))
theorem sensorFrame {hub rs} (h : Keeps o d) : Keeps o (sensorFrame hub rs d) :=
  .ite h (.ite (.updPower (.ite (.updPower h) h)) (.ite (.updPower h) h))
theorem telemetryRewrite {upto} (h : Keeps o d) : Keeps o (telemetryRewrite upto d) :=
  .ite h h

/-! ### The operations of Machine/Scratchpad.lean -/

theorem readWord {op err word u} (h : Keeps o d) : Keeps o (readWord op err word u d) := by
  unfold Machine.readWord
  dsimp only
  split
  · exact .runWord h
  · exact .ite (.muError (.setUnit (.runWord h))) (.runWord (.ite (.muCorrected (.runWord h)) (.runWord h)))
theorem muScrub {u err word} (h : Keeps o d) : Keeps o (muScrub u err word d) := by
  unfold Machine.muScrub
  dsimp only
  split
  · exact h
  · exact .ite h (by
    split
    · exact .updUnit h
    · exact .updUnit h
    · exact .muCorrected (.updUnit h)
    · split
      · exact .ite (.muError (.updUnit h)) (.updUnit (.log (.updUnit h)))
      · exact .log (.updUnit h))

/-! ### The operations of Machine/Preempt.lean -/

theorem settleWaiting {u src} (h : Keeps o d) : Keeps o (settleWaiting u src d) := by
  unfold Machine.settleWaiting
  split
  · exact h
  · split
    · exact h
    · exact .ite h (by
      dsimp only
      split
      · exact .putSpill (.unspill (.dropSource h))
      · exact .updUnit (.dropSource h))
theorem settleTokens {sec} (h : Keeps o d) : Keeps o (settleTokens sec d) :=
  .foldl h (fun _ _ hd => .foldl hd (fun _ _ he => .settleWaiting he))
theorem applyTallies {q n} (h : Keeps o d) : Keeps o (applyTallies q n d) := by
  induction n generalizing d with
  | zero => exact h
  | succ n ih => exact .ite h (ih (.tallyOperation h))
theorem applyReleases {c n} (h : Keeps o d) : Keeps o (applyReleases c n d) := by
  induction n generalizing d with
  | zero => exact h
  | succ n ih => exact .ite h (ih (.barrierRelease h))
theorem settleSync {sec} (h : Keeps o d) : Keeps o (settleSync sec d) :=
  .foldl (.foldl h (fun _ _ hd => .applyTallies hd)) (fun _ _ hd => .applyReleases hd)
theorem saveRead {sec err} (h : Keeps o d) : Keeps o (saveRead sec err d) := by
  unfold Machine.saveRead
  split
  · exact h
  · exact .ite h (by
    split
    · exact .muError h
    · exact .muCorrected h
    · exact h)
theorem savePreempt {hnd forced err} (h : Keeps o d) : Keeps o (savePreempt hnd forced err d) := by
  unfold Machine.savePreempt
  split
  · exact h
  · exact .share (.saveRead (.flushStores (.settleTokens (.settleSync h)))) fun h1 => .ite (.unloadSection h1) (by
    split
    · exact .unloadSection (.pageHalt h1)
    · exact .share (.clearBarriers (.releaseCores (.writeRecords h1))) fun h2 => .settleJobs (.lostReturns (by
      split
      · exact .updMb (.setSched (.updSection h2))
      · exact .setSched (.updSection h2))))
theorem sendSuspend {hnd} (h : Keeps o d) : Keeps o (sendSuspend hnd d) := by
  unfold Machine.sendSuspend
  split
  · exact h
  · exact .updSection (.foldl h (fun _ _ hd => .pushCtrl (.updCore hd)))
theorem startPreempt {hnd} (h : Keeps o d) : Keeps o (startPreempt hnd d) :=
  .ite (.updSection h) (.sendSuspend h)
theorem preemptionSave {hnd err} (h : Keeps o d) : Keeps o (preemptionSave hnd err d) := by
  unfold Machine.preemptionSave
  split
  · exact .ite (.savePreempt h) h
  · exact h
theorem endAbandoned {hnd} (h : Keeps o d) : Keeps o (endAbandoned hnd d) :=
  .foldl h (fun _ _ hd => by
    split
    · exact .ite (.endFailed (.reply hd)) hd
    · exact .ite (.endDone hd) hd
    · exact hd)
theorem abandonPreempt {hnd} (h : Keeps o d) : Keeps o (abandonPreempt hnd d) := by
  unfold Machine.abandonPreempt
  split
  · exact h
  · exact .endAbandoned (.log (.setSched
      (.lostReturns (.updSection (.foldl (.dropSuspends h) (fun _ _ hd => .sendResume (.updCore hd)))))))
theorem quiescenceLimit {c} (h : Keeps o d) : Keeps o (quiescenceLimit c d) := by
  unfold Machine.quiescenceLimit
  split
  · exact .ite (.abandonPreempt h) h
  · exact h
theorem restoreSpills {sec v} (h : Keeps o d) : Keeps o (restoreSpills sec v d) :=
  .foldl h (fun _ _ hd => by
    split
    · exact .updUnit hd
    · exact hd)
theorem restoreSync {sec v} (h : Keeps o d) : Keeps o (restoreSync sec v d) :=
  .foldl (.foldl (.foldl (.foldl h (fun _ _ hd => .updQuad hd)) (fun _ _ hd => .postArrival hd))
    (fun _ _ hd => .postArrival hd)) (fun _ _ hd => hd)
theorem moveIngest {sec} (h : Keeps o d) : Keeps o (moveIngest sec d) :=
  h
theorem restoreSave {sec v} (h : Keeps o d) : Keeps o (restoreSave sec v d) :=
  .moveIngest (.restoreSync (.restoreSpills
    (.foldl (.foldl (.foldl (.foldl h (fun _ _ hd => .updUnit hd))
      (fun _ _ hd => .foldl hd (fun _ _ he => .foldl he (fun _ _ hf => .updUnit hf)))) (fun _ _ hd => .updCore hd))
        (fun _ _ hd => .sendResume hd))))
theorem resumeSection {hnd r} (h : Keeps o d) (hr : resumeSection hnd d = .ok r) : Keeps o r.1 := by
  unfold Machine.resumeSection at hr
  dsimp only at hr
  split at hr
  · cases hr
  split at hr
  · split at hr
    · cases hr
    · rename_i hf
      cases hr
      refine .queuePromotions (.writeReport ?_)
      split
      · exact .updMb (.setSched (.restoreSave (.updSection (.clearSems (.writeStores (.writeMus (.finishPlace h hf)))))))
      · exact .setSched (.restoreSave (.updSection (.clearSems (.writeStores (.writeMus (.finishPlace h hf))))))
  · cases hr
  · cases hr
theorem restoreFound {hnd found} (h : Keeps o d) : Keeps o (restoreFound hnd found d) := by
  unfold Machine.restoreFound
  split
  · exact h
  · exact h
  · exact h
  · exact .haltSection (.log h)
theorem logUnplaced {sec f} (h : Keeps o d) : Keeps o (logUnplaced sec f d) := by
  unfold Machine.logUnplaced
  split
  · exact .logCmd h
  · exact .logRec h
theorem resumeFirst {found l} (h : Keeps o d) : Keeps o (resumeFirst found l d) := by
  induction l generalizing d with
  | nil => exact h
  | cons s l ih =>
    unfold Machine.resumeFirst
    split
    · rename_i hr; exact .restoreFound (.resumeSection h hr)
    · exact ih (.logUnplaced h)
theorem autoResume {found} (h : Keeps o d) : Keeps o (autoResume found d) :=
  .ite h (.resumeFirst h)
theorem loseCore {c err} (h : Keeps o d) : Keeps o (loseCore c err d) := by
  unfold Machine.loseCore
  split
  · exact h
  · dsimp only
    split
    · exact .ite (.updSection (.foldl (.updSection (.abortRegion h)) (fun _ _ hd => .updCore hd)))
        (.startPreempt (.updSection (.abortRegion h)))
    · exact .updSection (.abortRegion h)
    · exact .savePreempt (.updSection (.abortRegion h))
    · exact .abortRegion h
theorem unitFailure {u err} (h : Keeps o d) : Keeps o (unitFailure u err d) :=
  .ite (.loseCore (.setSched (.setDefects (.log h)))) (.setSched (.loseCore (.setSched (.setDefects (.log h)))))

/-! ### The operations of Machine/Flags.lean -/

theorem hubClear {off} (h : Keeps o d) : Keeps o (hubClear off d) := by
  unfold Machine.hubClear
  split
  · exact .updPresence h
  · exact .updMgmt h
  · exact .updMeter h
  · exact .updPower h
  · exact h
theorem linkClear {off} (h : Keeps o d) : Keeps o (linkClear off d) :=
  .ite (.updPort h) (.ite h h)
theorem regClear {block uid off} (h : Keeps o d) : Keeps o (regClear block uid off d) := by
  unfold Machine.regClear
  refine .ite h ?_
  split
  · exact .ite (.updSeq h) (.updCore h)
  · exact .updUnit h
  · exact .updUnit h
  · exact .updCore h
  · exact .ite h (.updQuad h)
  · exact .hubClear h
  · exact .setTiers h (tierClear_memories off d.tiers).1 (tierClear_memories off d.tiers).2.1
      (tierClear_memories off d.tiers).2.2
  · exact h
  · exact h
  · exact .linkClear h
  · exact h
theorem readRegs {block uid clear n off} (h : Keeps o d) : Keeps o (readRegs block uid clear n off d).2 := by
  induction n generalizing off d with
  | zero => exact h
  | succ n ih => exact ih (.ite (.regClear h) h)

/-! ### The operations of Machine/HostPort.lean -/

theorem updIngest {n f} (h : Keeps o d) : Keeps o (updIngest n f d) :=
  h
theorem bar0Clear {a lo hi} (h : Keeps o d) : Keeps o (bar0Clear a lo hi d) :=
  .ite (.ite (.updMb h) h) (.ite (by
    split
    · exact .updIngest h
    · exact .updIngest h
    · exact h) (.ite (.ite (.setHost (.ite h h) rfl rfl) (.ite h h)) (.ite (.ite (.setBoot (.ite h h)) (.ite h h)) h)))
theorem rcRead {off len} (h : Keeps o d) : Keeps o (rcRead off len d) :=
  .ite h (.setHost (.foldl h (fun _ _ hd => .bar0Clear hd)) rfl rfl)
theorem configRead {r} (h : Keeps o d) : Keeps o (configRead r d) :=
  .ite h h
theorem hostRead {r len} (h : Keeps o d) : Keeps o (hostRead r len d) := by
  cases r with
  | bar0 off => exact .rcRead h
  | config c => exact .configRead h
theorem doorbell {m seq} (h : Keeps o d) : Keeps o (doorbell m seq d) :=
  .ite h (.ite (.updMb h) (.ite (.updMb h) (.endRefused (.updMb h))))
theorem seqAck {m seq} (h : Keeps o d) : Keeps o (seqAck m seq d) :=
  .ite (.updMb h) (.updMb h)
theorem failBound {m code} (h : Keeps o d) : Keeps o (failBound m code d) := by
  unfold Machine.failBound
  split
  · exact .ite (.endFailed (.unloadSection (.releaseStages h))) (.haltSection h)
  · exact .endFailed h
theorem overrun {n} (h : Keeps o d) : Keeps o (overrun n d) := by
  unfold Machine.overrun
  dsimp only
  split
  · exact .ite (.failBound (.reply (.updIngest h))) (.updIngest h)
  · exact .updIngest h
theorem countLate {n k} (h : Keeps o d) : Keeps o (countLate n k d) :=
  .updIngest h
theorem ingestGranule {n g lo len v} (h : Keeps o d) : Keeps o (ingestGranule n g lo len v d) := by
  unfold Machine.ingestGranule
  dsimp only
  split
  · exact .ite (.countLate h) (.updIngest h)
  · exact .overrun h
theorem endPacket {n k len} (h : Keeps o d) : Keeps o (endPacket n k len d) :=
  .updIngest (.countLate (.updIngest h))
theorem ingestEnd {n len} (h : Keeps o d) : Keeps o (ingestEnd n len d) := by
  unfold Machine.ingestEnd
  dsimp only
  split
  · exact .ite (.overrun h) (.endPacket h)
  · exact .overrun h
theorem ingestRelease {n} (h : Keeps o d) : Keeps o (ingestRelease n d) := by
  unfold Machine.ingestRelease
  dsimp only
  split
  · exact h
  · exact .ite (by
    split
    · exact .ite (.updIngest (.tapSend h)) (.updIngest (.tapSend h))
    · exact .updIngest (.tapSend h)) h
theorem bar0WriteWord {a lo hi v} (h : Keeps o d) : Keeps o (bar0WriteWord a lo hi v d) :=
  .ite (by
    split
    · exact .ite (.doorbell h) h
    · exact .ite (.seqAck h) h
    · exact h) (.ite (by
    split
    · exact .ite (.updIngest h) h
    · exact .ite (.ingestEnd h) h
    · exact .ite (.updIngest h) h
    · exact h) (by
    split
    · exact .ite h h
    · exact .ite h h
    · exact .ite h h))
theorem ingestBytes {n off len v} (h : Keeps o d) : Keeps o (ingestBytes n off len v d) :=
  .ite (.ingestGranule h) (.foldl h (fun _ _ hd => .ingestGranule hd))
theorem registerWrite {off len v} (h : Keeps o d) : Keeps o (registerWrite off len v d) :=
  .ite h (.ite (.updMb h) (.ite (.ingestBytes h) (.ite (.setHost h (releaseVectors_straps _) (releaseVectors_mem _))
    (.foldl h fun _ _ hd => .bar0WriteWord hd))))
theorem configWrite {r v} (h : Keeps o d) : Keeps o (configWrite r v d) := by
  unfold Machine.configWrite
  refine .ite h ?_
  split
  · exact .ite h h
  · exact .setHost h (releaseVectors_straps _) (releaseVectors_mem _)
  · exact h
  · exact h
  · exact h
theorem hostWrite {r len v} (h : Keeps o d) : Keeps o (hostWrite r len v d) := by
  cases r with
  | bar0 off => exact .registerWrite h
  | config c => exact .configWrite h
theorem bar2Read {off len err} (h : Keeps o d) : Keeps o (bar2Read off len err d) :=
  .ite h (.setHost (.tierFound h) rfl rfl)
theorem bar2Write {off bytes err} (h : Keeps o d) : Keeps o (bar2Write off bytes err d) :=
  .ite h (.foldl (.ite (.setHost (.writeFound h) rfl rfl) (.writeFound h)) (fun _ _ hd => .ite hd (.writePage hd)))

/-! ### The operations of Machine/Sets.lean -/

theorem openLinkBlock {m} (h : Keeps o d) : Keeps o (openLinkBlock m d) :=
  .reply h
theorem linkCause {m cause rank port} (h : Keeps o d) : Keeps o (linkCause m cause rank port d) :=
  .reply (.reply (.reply h))
theorem undoPlacement {sec} (h : Keeps o d) : Keeps o (undoPlacement sec d) :=
  .dropSection (.foldl (.freePages (.freePages (.clearGrad h))) (fun _ _ hd => .ite (.setRes hd) hd))
theorem failForming {code cause rank port} (h : Keeps o d) : Keeps o (failForming code cause rank port d) := by
  unfold Machine.failForming
  dsimp only
  split
  · exact .endLoad (.linkCause (.leaveSet (by
    split
    · exact .undoPlacement h
    · exact h)))
  · exact .leaveSet (by
    split
    · exact .undoPlacement h
    · exact h)
theorem formTimeout (h : Keeps o d) : Keeps o (formTimeout d) :=
  .ite (.failForming h) h
theorem formed (h : Keeps o d) : Keeps o (formed d) := by
  unfold Machine.formed
  dsimp only
  split
  · exact .foldl h (fun _ _ hd => .sendPacket hd)
  · split
    · exact .updMb (.queuePromotions (.sendLoad (.writeMus (.updSection (.setSet (.foldl h (fun _ _ hd => .sendPacket hd)))))))
    · exact .queuePromotions (.sendLoad (.writeMus (.updSection (.setSet (.foldl h (fun _ _ hd => .sendPacket hd))))))
theorem sendHello (h : Keeps o d) : Keeps o (sendHello d) :=
  .ite h (by
    split
    · exact .formed h
    · exact .sendPacket h
    · exact h)
theorem startForming {m hnd} (h : Keeps o d) : Keeps o (startForming m hnd d) := by
  unfold Machine.startForming
  split
  · exact h
  · dsimp only
    split
    · exact .failForming (.setSet (.updMb h))
    · exact .sendHello (.setSet (.updMb h))
theorem reportLoss {x cause} (h : Keeps o d) : Keeps o (reportLoss x cause d) :=
  .foldl h (fun _ _ hd => .sendPacket hd)
theorem startHalting (h : Keeps o d) : Keeps o (startHalting d) := by
  unfold Machine.startHalting
  dsimp only
  split
  · exact h
  · exact .updSection (.foldl h (fun _ _ hd => .ite hd (.updCore hd)))
theorem memberLost {x cause} (h : Keeps o d) : Keeps o (memberLost x cause d) :=
  .ite h (.ite (.ite h h) (.share (.ite (.startHalting (.reportLoss h)) (.reportLoss h)) fun h1 => .ite (.endHalting h1) h1))
theorem portLoss {p cause} (h : Keeps o d) : Keeps o (portLoss p cause d) :=
  .ite h (.ite (.failForming h) (.memberLost h))
theorem haltingStopLimit (h : Keeps o d) : Keeps o (haltingStopLimit d) :=
  .ite h (.ite (.endHalting h) (by
    split
    · exact .ite (.sendHalts h) h
    · exact h))
theorem bcastOut {dims own p inPort cls first k} (h : Keeps o d) : Keeps o (bcastOut dims own p inPort cls first k d) :=
  .enqueue h
theorem startBroadcast {m id pk len} (h : Keeps o d) : Keeps o (startBroadcast m id pk len d) :=
  .foldl h (fun _ _ hd => .foldl hd (fun _ _ he => .bcastOut he))
theorem endBroadcast {b m} (h : Keeps o d) : Keeps o (endBroadcast b m d) := by
  unfold Machine.endBroadcast
  dsimp only
  split
  · exact .endLoad (.setSet (.reply h))
  · exact .setSet (.reply h)
theorem settleBroadcast {b} (h : Keeps o d) : Keeps o (settleBroadcast b d) :=
  .ite h (by
    split
    · exact .endBroadcast h
    · exact h
    · exact .sendPacket h)
theorem updBroadcast {old new} (h : Keeps o d) : Keeps o (updBroadcast old new d) :=
  .settleBroadcast h
theorem bcastTimeout (h : Keeps o d) : Keeps o (bcastTimeout d) := by
  unfold Machine.bcastTimeout
  split
  · split
    · exact .endBroadcast h
    · exact h
  · exact h

/-! ### The operations of Machine/Loader.lean -/

theorem countFrames {r} (h : Keeps o d) : Keeps o (countFrames r d) :=
  h
theorem reportFailed {m sec f link} (h : Keeps o d) : Keeps o (reportFailed m sec f link d) :=
  .ite (.replyReport h) (.logCmd (.replyReport h))
theorem placeFailed {m sec f link} (h : Keeps o d) : Keeps o (placeFailed m sec f link d) :=
  .endLoad (.reportFailed h)
theorem placeLoad {m sec link} (h : Keeps o d) : Keeps o (placeLoad m sec link d) := by
  unfold Machine.placeLoad
  split
  · exact .placeFailed h
  · rename_i d1 sec1 hr
    have h1 : Keeps o { d1 with sections := d1.sections ++ [sec1], sched := { d1.sched with handles := sec1.handle } } :=
      Keeps.placeSection h hr
    exact .ite (.startForming (.updSection (.clearSems (.writeReport (.replyReport h1)))))
      (.updMb (.queuePromotions (.sendLoad (.clearSems (.writeReport (.replyReport h1))))))
theorem placeChecked {m pk len} (h : Keeps o d) : Keeps o (placeChecked m pk len d) :=
  .ite (.endLoad h) (.ite (.endLoad h) (.placeLoad h))
theorem placeOrWait {m pk len} (h : Keeps o d) : Keeps o (placeOrWait m pk len d) :=
  .ite (.placeChecked h) (.updMb h)
theorem loadPackage {m pk len} (h : Keeps o d) : Keeps o (loadPackage m pk len d).1 := by
  unfold Machine.loadPackage
  dsimp only
  refine .iteFst (.endLoad h) (.share (.ite (.openLinkBlock h) h) fun h1 => .iteFst (.endLoad h1) ?_)
  split
  · exact .endLoad (.countFrames h1)
  · split
    · exact .placeFailed (.countFrames h1)
    · exact .placeOrWait (.countFrames h1)
theorem loadRegion {m hnd s len} (h : Keeps o d) : Keeps o (loadRegion m hnd s len d) := by
  unfold Machine.loadRegion
  dsimp only
  split
  · exact .endFailed (.reply h)
  · exact .ite (.endFailed (.reply h)) (by
    split
    · exact .endFailed (.reply (.countFrames (.reply h)))
    · exact .ite (.endFailed (.countFrames (.reply h))) (.regionTurn (.updMb (.countFrames (.reply h)))))

/-! ### The operations of Machine/LinkSets.lean -/

theorem portEvent {p cause f} (h : Keeps o d) : Keeps o (portEvent p cause f d) :=
  .ite (.portLoss (.updPort h)) (.updPort h)
theorem trainPort {p protocol node port fw} (h : Keeps o d) : Keeps o (trainPort p protocol node port fw d) :=
  .ite h (.ite (.updMgmt (.updPort h)) (.updPort h))
theorem takePacket {typ accept act p pool} (hact : ∀ x e, Keeps o e → Keeps o (act x e)) (h : Keeps o d) :
    Keeps o (takePacket typ accept act p pool d) := by
  unfold Machine.takePacket
  split
  · exact .ite (.ite (hact _ _ (.popPacket h)) (.countStale (.popPacket h))) h
  · exact h
theorem setPacketAct {act k} (hact : ∀ x0 x1 e, Keeps o e → Keeps o (act x0 x1 e)) (h : Keeps o d) :
    Keeps o (setPacketAct act k d) := by
  unfold Machine.setPacketAct
  split
  · exact hact _ _ _ h
  · exact .countStale h
theorem postLogical {sec core msg} (h : Keeps o d) : Keeps o (postLogical sec core msg d) := by
  unfold Machine.postLogical
  split
  · exact .updSection h
  · exact .deliverChan h
theorem tokenPacket {sec k} (h : Keeps o d) : Keeps o (tokenPacket sec k d) :=
  .postLogical h
theorem openPacket {sec k} (h : Keeps o d) : Keeps o (openPacket sec k d) :=
  .postLogical h
theorem grantPacket {sec k} (h : Keeps o d) : Keeps o (grantPacket sec k d) :=
  .postLogical h
theorem refusePacket {sec k} (h : Keeps o d) : Keeps o (refusePacket sec k d) :=
  .postLogical h
theorem closePacket {sec k} (h : Keeps o d) : Keeps o (closePacket sec k d) :=
  .postLogical h
theorem creditPacket {sec k} (h : Keeps o d) : Keeps o (creditPacket sec k d) :=
  .postLogical h
theorem arrivePacket {sec k} (h : Keeps o d) : Keeps o (arrivePacket sec k d) :=
  .postArrival h
theorem releasePacket {sec k} (h : Keeps o d) : Keeps o (releasePacket sec k d) :=
  .releaseSystem (.clearCount h)
theorem heartbeatPacket {k} (h : Keeps o d) : Keeps o (heartbeatPacket k d) :=
  .ite h h
theorem heartbeatSend (h : Keeps o d) : Keeps o (heartbeatSend d) :=
  .ite (.foldl h (fun _ _ hd => .sendPacket hd)) h
theorem heartbeatTimeout {node} (h : Keeps o d) : Keeps o (heartbeatTimeout node d) :=
  .ite (.memberLost h) h
theorem lostPacket {k} (h : Keeps o d) : Keeps o (lostPacket k d) :=
  .ite (.memberLost h) (.countStale h)
theorem helloPacket {k} (h : Keeps o d) : Keeps o (helloPacket k d) := by
  unfold Machine.helloPacket
  split
  · exact .countStale h
  · exact .ite (.countStale h) (.ite (.sendHello h) (.countStale h))
theorem readyPacket {k} (h : Keeps o d) : Keeps o (readyPacket k d) :=
  .ite (.formed h) (.countStale h)
theorem digestPacket {k} (h : Keeps o d) : Keeps o (digestPacket k d) :=
  h
theorem repairPacket {k} (h : Keeps o d) : Keeps o (repairPacket k d) :=
  h
theorem packetForward {p pool} (h : Keeps o d) : Keeps o (packetForward p pool d) := by
  unfold Machine.packetForward
  split
  · exact h
  · exact .ite (.ite (.countStale (.popPacket h)) h) (by
    split
    · exact .enqueue (.popPacket h)
    · exact .countStale (.popPacket h))
theorem stageChunk {k} (h : Keeps o d) : Keeps o (stageChunk k d).1 := by
  unfold Machine.stageChunk
  dsimp only
  split
  · exact h
  · exact .iteFst (.updMb h) (.loadPackage (.setOrders (.updMb h)))
theorem configData {p pool} (h : Keeps o d) : Keeps o (configData p pool d) := by
  unfold Machine.configData
  split
  · exact h
  · exact .ite h (.ite (.countStale (.popPacket h))
      (.ite h (.share (.foldl (.popPacket h) (fun _ _ hd => .bcastOut hd)) fun h1 => .share (by
    split
    · exact h1
    · exact h1) fun h2 => .ite (.stageChunk h2) (by
    split
    · exact .updBroadcast (.stageChunk h2)
    · exact .stageChunk h2))))
theorem ackPacket {k} (h : Keeps o d) : Keeps o (ackPacket k d) := by
  unfold Machine.ackPacket
  split
  · exact .updBroadcast h
  · exact .countStale h

/-! ### The operations of Machine/Commands.lean -/

theorem acceptCmd {op check m} (h : Keeps o d) : Keeps o (acceptCmd op check m d) :=
  .ite (.endFailed (.setOrders (.updMb h)))
    (.ite (.endRefused h) (.ite (.ite (.endRefused h) (.updMb h)) (.ite (.updMb (.acceptGated h)) (.setOrders (.updMb h)))))
theorem hostCmd {op check can run m} (hrun : ∀ x e, Keeps o e → Keeps o (run x e)) (h : Keeps o d) :
    Keeps o (hostCmd op check can run m d) :=
  .ite h (.ite (hrun _ _ (.updMb (.ite (.acceptCmd h) h))) (.ite (.acceptCmd h) h))
theorem waitWork {m hnd done bytes} (h : Keeps o d) : Keeps o (waitWork m hnd done bytes d) :=
  .updMb h
theorem hostWork {op check can go run m} (hrun : ∀ x e, Keeps o e → Keeps o (run x e)) (h : Keeps o d) :
    Keeps o (hostWork op check can go run m d) :=
  .ite (.ite (hrun _ _ h) h) (.hostCmd (fun _ _ hd => hrun _ _ hd) h)
theorem runInfo {m} (h : Keeps o d) : Keeps o (runInfo m d) :=
  .endDone (.reply h)
theorem settleFeeder {m} (h : Keeps o d) : Keeps o (settleFeeder m d) := by
  unfold Machine.settleFeeder
  split
  · exact .settleBroadcast h
  · exact h
theorem runLoad {err m} (h : Keeps o d) : Keeps o (runLoad err m d) := by
  unfold Machine.runLoad
  dsimp only
  refine .ite (.updMb h) ?_
  split
  · exact .endFailed (.ite (.tierFound (.ite (.openLinkBlock h) h)) (.ite (.openLinkBlock h) h))
  · exact .settleFeeder (.loadPackage
      (.share (.ite (.openLinkBlock h) h) fun h1 => .share (.ite (.tierFound h1) h1) fun h2 => .ite (.startBroadcast h2) h2))
theorem loadRow {hold err m} (h : Keeps o d) : Keeps o (loadRow hold err m d) :=
  .ite (.waitWork (.ite (.openLinkBlock h) h)) (.runLoad h)
theorem loadTurn {row m} (hrow : ∀ e, Keeps o e → Keeps o (row e)) (h : Keeps o d) : Keeps o (loadTurn row m d) := by
  unfold Machine.loadTurn
  split
  · exact .ite (.settleFeeder (.placeChecked h)) h
  · exact hrow _ h
theorem runUnload {m} (h : Keeps o d) : Keeps o (runUnload m d) := by
  unfold Machine.runUnload
  dsimp only
  split
  · exact .endFailed h
  · exact .endChange (.unloadSection (.ite (.updMb h) h))
theorem stopBroadcast {m} (h : Keeps o d) : Keeps o (stopBroadcast m d) := by
  unfold Machine.stopBroadcast
  split
  · exact h
  · exact .setSet (.foldl h (fun _ _ hd => .updPort hd))
theorem cancelLoad {t hnd} (h : Keeps o d) : Keeps o (cancelLoad t hnd d) := by
  unfold Machine.cancelLoad
  dsimp only
  split
  · exact .ite (.updMb (.foldl (.stopBroadcast h) (fun _ _ hd => .setCtrl hd))) (.endFailed (.unloadSection (.stopBroadcast h)))
  · exact .endFailed (.stopBroadcast h)
theorem cancelTarget {t} (h : Keeps o d) : Keeps o (cancelTarget t d).1 := by
  unfold Machine.cancelTarget
  dsimp only
  split
  · exact .endFailed h
  · exact .endFailed h
  · split
    · exact .endFailed (.unloadSection (.releaseStages h))
    · exact .endFailed h
  · split
    · exact .iteFst h (.stopCommand h)
    · exact .stopCommand h
    · exact .cancelLoad h
    · exact .endFailed h
    · exact .endFailed (.stopBroadcast h)
    · exact .endFailed (.stopBroadcast (.leaveSet (by
      split
      · exact .undoPlacement h
      · exact h)))
    · exact .cancelLoad h
    · exact .endFailed h
    · exact .iteFst h (.endFailed h)
    · exact .iteFst (.endFailed (.reply h)) (.endFailed h)
    · exact .endFailed (.reply (.reply h))
    · exact h
theorem runCancel {m} (h : Keeps o d) : Keeps o (runCancel m d) :=
  .share (.reply (.iteFst (.cancelTarget h) h)) fun h1 => .ite (.updMb h1) (.endDone h1)
theorem runPreempt {err m} (h : Keeps o d) : Keeps o (runPreempt err m d) := by
  unfold Machine.runPreempt
  dsimp only
  split
  · exact .endFailed h
  · split
    · exact .endDone (.savePreempt h)
    · exact .updMb (.startPreempt h)
    · exact .updMb h
    · exact .endDone h
    · exact .endFailed h
theorem runResume {found m} (h : Keeps o d) : Keeps o (runResume found m d) := by
  unfold Machine.runResume
  dsimp only
  split
  · exact .endFailed h
  · refine .ite (.endDone h) ?_
    split
    · rename_i hr
      exact .share (.restoreFound (.resumeSection h hr)) fun h1 => .ite (.endFailed h1) (.endDone (.replyReport h1))
    · exact .endFailed (.reportFailed h)
theorem resumeRow {hold found m} (h : Keeps o d) : Keeps o (resumeRow hold found m d) :=
  .ite (.waitWork h) (.runResume h)
theorem runEpoch {m} (h : Keeps o d) : Keeps o (runEpoch m d) :=
  .endDone (.ite h h)
theorem runRegion {err m} (h : Keeps o d) : Keeps o (runRegion err m d) := by
  unfold Machine.runRegion
  dsimp only
  split
  · exact .endFailed (.reply (.ite (.tierFound h) h))
  · exact .loadRegion (.ite (.tierFound h) h)
theorem regionRow {m err} (h : Keeps o d) : Keeps o (regionRow m err d) :=
  .ite (.regionTurn h) (.hostCmd (fun _ _ hd => .runRegion hd) h)
theorem runOffline {err m} (h : Keeps o d) : Keeps o (runOffline err m d) :=
  .ite (.settleJobs (.loseCore (.updMb h))) (.loseCore (.updMb h))
theorem runOnline {m} (h : Keeps o d) : Keeps o (runOnline m d) :=
  .endDone (.setSched (.ite (.coreResetRow h) h))

/-! ### The operations of Machine/PageCommands.lean -/

theorem scatterHost {v n l} (h : Keeps o d) : Keeps o (scatterHost v n l d) := by
  induction l generalizing v n d with
  | nil => exact h
  | cons p l ih => exact ih (.setMem h fun hm => Ram.wf_blit hm ..)
theorem xferIn {whole v l} (h : Keeps o d) : Keeps o (xferIn whole v l d).1 := by
  induction l generalizing d with
  | nil => exact h
  | cons p l ih =>
    obtain ⟨p, off, k, at_⟩ := p
    exact .iteFst h (ih (.ite (.setRes (.writePage h)) (.writePage h)))
theorem finishXfer {m n e} (h : Keeps o d) : Keeps o (finishXfer m n e d) := by
  unfold Machine.finishXfer
  dsimp only
  split
  · exact .endFailed (.reply h)
  · exact .endDone (.reply h)
theorem xferRead {m err a n} (h : Keeps o d) : Keeps o (xferRead m err a n d).2.2.2 := by
  unfold Machine.xferRead
  dsimp only
  split
  · split
    · exact h
    · exact .tierFound h
  · exact .tierFound h
theorem xferWrite {m whole err a n v} (h : Keeps o d) : Keeps o (xferWrite m whole err a n v d).1 := by
  unfold Machine.xferWrite
  split
  · exact .iteFst (.iteFst (.xferIn h) (.tierFound (.xferIn h))) (.xferIn h)
  · exact .xferIn (.writeFound h)
theorem xferMoved {m n b bad e} (h : Keeps o d) : Keeps o (xferMoved m n b bad e d) := by
  unfold Machine.xferMoved
  split
  · exact .finishXfer h
  · exact .ite (.finishXfer h) (.ite (.finishXfer h) (.waitWork h))
theorem runXfer {upto host err m} (h : Keeps o d) : Keeps o (runXfer upto host err m d) := by
  unfold Machine.runXfer
  dsimp only
  split
  · exact .finishXfer h
  · exact .ite (.finishXfer h) (.ite (.finishXfer h)
      (.ite (.xferMoved (.xferWrite h)) (.xferMoved (.scatterHost (.xferRead h)))))
theorem allocRange {x base e} (h : Keeps o d) (he : allocRange x base d = some e) : Keeps o e := by
  refine .foldlBind h (fun d _ _ hd hp => ?_) he
  obtain ⟨u, -, hu⟩ := Option.bind_eq_some_iff.mp hp
  exact .allocPage hd hu
theorem runAlloc {m} (h : Keeps o d) : Keeps o (runAlloc m d) := by
  unfold Machine.runAlloc
  dsimp only
  refine .ite (.endFailed h) ?_
  split
  · exact .endFailed h
  · split
    · rename_i he; exact .endChange (.reply (.allocRange h he))
    · exact .endFailed h
theorem runFree {m} (h : Keeps o d) : Keeps o (runFree m d) :=
  .endChange (.freePages h)
theorem runMove {m} (h : Keeps o d) : Keeps o (runMove m d) :=
  .pageMoveStep (.updMb h)
theorem moveRow {m} (h : Keeps o d) : Keeps o (moveRow m d) :=
  .ite (.pageMoveStep h) (.hostCmd (fun _ _ hd => .runMove hd) h)
theorem runQuery {m} (h : Keeps o d) : Keeps o (runQuery m d) :=
  .endDone (.foldl h (fun _ _ hd => .reply hd))
theorem clearPoison {ps} (h : Keeps o d) : Keeps o (clearPoison ps d) :=
  .foldl h (fun _ _ hd => .setRes hd)
theorem writeArea {whole a n v} (h : Keeps o d) : Keeps o (writeArea whole a n v d) :=
  .xferIn h
theorem partsMoved {m hnd n k b} (h : Keeps o d) : Keeps o (partsMoved m hnd n k b d) :=
  .ite (.finishXfer h) (.waitWork h)
theorem runExport {upto err m} (h : Keeps o d) : Keeps o (runExport upto err m d) := by
  unfold Machine.runExport
  dsimp only
  split
  · exact .endFailed h
  · split
    · exact .finishXfer (.foldl h (fun _ _ hd => .tierFound hd))
    · exact .ite (.finishXfer (.foldl h (fun _ _ hd => .tierFound hd)))
        (.ite (.partsMoved (.scatterHost (.foldl h (fun _ _ hd => .tierFound hd))))
          (.ite (.finishXfer (.foldl h (fun _ _ hd => .tierFound hd)))
            (.ite (.finishXfer (.foldl h (fun _ _ hd => .tierFound hd))) (by
      split
      · exact .finishXfer (.writeFound (.foldl h (fun _ _ hd => .tierFound hd)))
      · exact .partsMoved (.writeArea (.writeFound (.foldl h (fun _ _ hd => .tierFound hd))))))))
theorem writeBits {a w v} (h : Keeps o d) : Keeps o (writeBits a w v d) :=
  .writeLogical h
theorem importShard {sec v r} (h : Keeps o d) : Keeps o (importShard sec v r d) :=
  .share (.foldl h fun _ _ hd => .foldl hd fun _ _ he => .writeBits he) fun h1 =>
    .ite (.foldl h1 fun _ _ hd => .writeLogical hd) h1
theorem storedImport_part {sec gs v} : ∀ p ∈ storedImport sec gs v, ∀ d, Keeps o d → Keeps o (p.2 d) := by
  refine List.foldlRecOn (motive := fun (a : List ImportPart × Nat) => ∀ p ∈ a.1, ∀ d, Keeps o d → Keeps o (p.2 d)) gs _
    (fun _ hp => absurd hp List.not_mem_nil) fun a ha g _ => ?_
  refine List.foldlRecOn (motive := fun (a : List ImportPart × Nat) => ∀ p ∈ a.1, ∀ d, Keeps o d → Keeps o (p.2 d)) _ _
    (fun p hp d hd => ?_) fun b hb r _ p hp d hd => ?_
  · rcases List.mem_append.mp hp with hp | hp
    · exact ha p hp d hd
    · obtain rfl := List.mem_singleton.mp hp
      exact hd
  · rcases List.mem_append.mp hp with hp | hp
    · exact hb p hp d hd
    · obtain rfl := List.mem_singleton.mp hp
      exact .writeLogical hd
theorem foldlParts {parts : List ImportPart} (h : Keeps o d) (hp : ∀ p ∈ parts, ∀ d, Keeps o d → Keeps o (p.2 d)) :
    Keeps o (parts.foldl (fun d p => p.2 d) d) :=
  List.foldlRecOn (motive := Keeps o) _ _ h fun e he p hm => hp p hm e he
theorem runImport {upto err m} (h : Keeps o d) : Keeps o (runImport upto err m d) := by
  unfold Machine.runImport
  dsimp only
  have h1 : Keeps o (if (d.mb m).arg 5 1 = 1 then Machine.tierFound (some m) err ((d.mb m).arg 8 8)
    ((d.mb m).arg 16 8) d else d) :=
    .ite (.tierFound h) h
  split
  · exact .endFailed h1
  · exact .finishXfer h1
  · rename_i sec _ _ _
    have h2 : Keeps o (((takenGroups sec (d.mb m)).flatMap (groupAreas sec)).foldl
      (fun d a => Machine.writeFound (some m) err a.1 a.2 d)
        (if (d.mb m).arg 5 1 = 1 then Machine.tierFound (some m) err ((d.mb m).arg 8 8) ((d.mb m).arg 16 8) d else d)) :=
      .foldl h1 fun _ _ hd => .writeFound hd
    refine .ite (.finishXfer h2) (.ite (.finishXfer h2) ?_)
    split
    · exact .finishXfer h2
    · generalize hps : (if (d.mb m).arg 4 1 = 1 then _ else _ : List ImportPart) = parts
      have hparts : ∀ p ∈ parts, ∀ d, Keeps o d → Keeps o (p.2 d) := by
        rw [← hps]
        split
        · intro p hp d hd
          obtain ⟨r, -, rfl⟩ := List.mem_map.mp hp
          exact .importShard hd
        · exact storedImport_part
      have hdone : ∀ i j, ∀ p ∈ (parts.take i).drop j, ∀ d, Keeps o d → Keeps o (p.2 d) :=
        fun _ _ p hp => hparts p (List.mem_of_mem_take (List.mem_of_mem_drop hp))
      exact .partsMoved (.ite (.clearPoison (.foldlParts h2 (hdone _ _))) (.foldlParts h2 (hdone _ _)))
theorem setSetting {item v} (h : Keeps o d) : Keeps o (setSetting item v d) := by
  unfold Machine.setSetting
  split
  · exact h
  · exact h
  · exact h
  · exact h
  · exact h
theorem runSettings {m} (h : Keeps o d) : Keeps o (runSettings m d) :=
  .endDone (.reply (.setSetting h))
theorem runRegs {m} (h : Keeps o d) : Keeps o (runRegs m d) :=
  .endDone (.foldl (.readRegs h) fun _ _ hd => .reply hd)
theorem askMeter {m f} (h : Keeps o d) : Keeps o (askMeter m f d) :=
  .updMeter (.updMb h)
theorem runLog {m} (h : Keeps o d) : Keeps o (runLog m d) :=
  .endDone (.foldl h (fun _ _ hd => .reply hd))

/-! ### The operations of Machine/IdentityCommands.lean -/

theorem countReject (h : Keeps o d) : Keeps o (countReject d) :=
  h
theorem imageFault {m floor} (h : Keeps o d) : Keeps o (imageFault d m floor).1 := by
  unfold Machine.imageFault
  dsimp only
  refine .iteFst (.countReject h) (.iteFst h ?_)
  split
  · exact .countFrames h
  · exact .iteFst (.countReject (.countFrames h)) (.iteFst (.countFrames h) (.countFrames h))
theorem programRegion {r m} (h : Keeps o d) : Keeps o (programRegion r m d) :=
  .setMgmt h fun hs => Ram.wf_blit (Ram.wf_clear hs ..) ..
theorem imageRead {m err x} (h : Keeps o d) : Keeps o (imageRead m err x d) :=
  .ite (.tierFound h) h
theorem eraseRegion {r} (h : Keeps o d) : Keeps o (eraseRegion r d) :=
  .setMgmt h fun hs => Ram.wf_clear hs ..
theorem programOn {region upto bad finish m im erased} (hfinish : ∀ x e, Keeps o e → Keeps o (finish x e)) (h : Keeps o d) :
    Keeps o (programOn region upto bad finish m im erased d) := by
  unfold Machine.programOn
  dsimp only
  split
  · exact .updMb h
  · exact .updMb (.eraseRegion h)
  · exact .ite (.endInternal (.eraseRegion h)) (hfinish _ _ (.programRegion h))
theorem programImage {region floor upto bad err finish m} (hfinish : ∀ x e, Keeps o e → Keeps o (finish x e)) (h : Keeps o d) :
    Keeps o (programImage region floor upto bad err finish m d) := by
  unfold Machine.programImage
  dsimp only
  split
  · exact .programOn (fun _ _ hd => hfinish _ _ hd) h
  · split
    · exact .endFailed (.ite (.countReject (.imageRead h)) (.imageRead h))
    · split
      · exact .endFailed (.imageFault (.imageRead h))
      · exact .programOn (fun _ _ hd => hfinish _ _ hd) (.imageFault (.imageRead h))
theorem dropStaged {x} (h : Keeps o d) : Keeps o (dropStaged x d) := by
  unfold Machine.dropStaged
  split
  · exact h
  · exact .updMgmt h
theorem runStage {upto bad err m} (h : Keeps o d) : Keeps o (runStage upto bad err m d) :=
  .programImage (fun _ _ hd => .endDone (.reply (.logCmd (.updMgmt hd)))) (.dropStaged h)
theorem finishCommit {hold slot m} (h : Keeps o d) : Keeps o (finishCommit hold slot m d) :=
  .ite (.updMb (.updMgmt h (putSlotRecord_store ..))) (.endDone (.logCmd (.updMgmt h (putSlotRecord_store ..))))
theorem runCommit {hold m} (h : Keeps o d) : Keeps o (runCommit hold m d) := by
  unfold Machine.runCommit
  dsimp only
  split
  · exact .ite h (.finishCommit h)
  · exact .ite (.endFailed h) (by
    split
    · exact .endFailed (.imageFault h)
    · exact .finishCommit (.imageFault h))
theorem raiseGolden {m v} (h : Keeps o d) : Keeps o (raiseGolden m v d) :=
  .ite (.logCmd (.updMgmt h)) h
theorem runGolden {upto bad err m} (h : Keeps o d) : Keeps o (runGolden upto bad err m d) :=
  .programImage (fun _ _ hd => .endDone (.raiseGolden (.logCmd hd))) h
theorem runUnlock {m} (h : Keeps o d) : Keeps o (runUnlock m d) :=
  .endDone (.logCmd (.updMgmt h))
theorem runIdentity {m} (h : Keeps o d) : Keeps o (runIdentity m d) :=
  .endDone (.reply (.reply h))
theorem newAttestKey (h : Keeps o d) : Keeps o (newAttestKey d) :=
  .updMgmt h
theorem runRecertify {err m} (h : Keeps o d) : Keeps o (runRecertify err m d) := by
  unfold Machine.runRecertify
  dsimp only
  split
  · exact .endDone (.logCmd (.newAttestKey (.ite (.tierFound h) h)))
  · split
    · exact .endFailed (.ite (.tierFound h) h)
    · exact .ite (.endDone (.logCmd (.updMgmt (.ite (.tierFound h) h)))) (.endFailed (.ite (.tierFound h) h))
  · exact .endDone (.logCmd (.updMgmt (.ite (.tierFound h) h)))
theorem runQuote {m} (h : Keeps o d) : Keeps o (runQuote m d) :=
  .endDone (.reply (.reply h))
theorem zeroMemories (h : Keeps o d) : Keeps o (zeroMemories d) :=
  .setUnits (.setCores (.setTiers (.setSections (.foldl h fun _ _ hd => .skipMove hd)) (fun _ => rfl) (fun _ => rfl)
    (fun _ => rfl)))
theorem zeroIdentity (h : Keeps o d) : Keeps o (zeroIdentity d) :=
  .newAttestKey (.updMgmt h)
theorem runZeroize {m} (h : Keeps o d) : Keeps o (runZeroize m d) :=
  .ite (.endFailed h) (.endDone (.logCmd (.ite (.zeroIdentity (.ite (.zeroMemories h) h)) (.ite (.zeroMemories h) h))))

/-! ### The operations of Machine/Resets.lean -/

theorem failAll {code} (h : Keeps o d) : Keeps o (failAll code d) :=
  .foldl h (fun _ _ hd => .ite (.endFailed hd) hd)
theorem endStopped {m hnd} (h : Keeps o d) : Keeps o (endStopped m hnd d) :=
  .share (.releaseStages (.stopRun (.endComparing h))) fun h1 => .ite h1 (by
    split
    · exact .endFailed (.replyAddr h1)
    · exact .endFailed h1)
theorem endAsCancel {m} (h : Keeps o d) : Keeps o (endAsCancel m d) := by
  have h1 : Keeps o (match (d.mb m).job with | .committing k => d.updMgmt (writeSlotRecord k) | _ => d) := by
    split
    · exact .updMgmt h (putSlotRecord_store ..)
    · exact h
  unfold Machine.endAsCancel
  dsimp only
  refine .ite h ?_
  split
  · exact .endStopped h1
  · exact .endStopped h1
  · have h2 := Keeps.cancelTarget (t := m) h1
    split
    · exact .endFailed (.unloadSection h2)
    · exact .ite (.endFailed h2) h2
theorem sendOwnLoss (h : Keeps o d) : Keeps o (sendOwnLoss d) :=
  .ite (.leaveSet (.foldl h (fun _ _ hd => .sendPacket hd))) h
theorem loseTiers (h : Keeps o d) : Keeps o (loseTiers d) :=
  .setTiers h (fun _ => rfl) (fun _ => rfl) (fun _ => rfl)
theorem loseCores (h : Keeps o d) : Keeps o (loseCores d) :=
  h
theorem idleTraining (h : Keeps o d) : Keeps o (idleTraining d) :=
  .endCompare h
theorem inputRecords {mv old} (h : Keeps o d) : Keeps o (inputRecords mv old d) :=
  .share (.ite (.log (.ite h (.log h))) (.ite h (.log h))) fun h1 => .ite (.log (.updPower (.ite (.log h1) h1)))
    (.updPower (.ite (.log h1) h1))
theorem raiseRollback {v} (h : Keeps o d) : Keeps o (raiseRollback v d) :=
  .ite (.log (.updMgmt h)) h
theorem copyImage {im} (h : Keeps o d) : Keeps o (copyImage im d) :=
  h
theorem startFirmware (h : Keeps o d) : Keeps o (startFirmware d) :=
  .ite (.retarget (fun _ hd => hd) h) h
theorem booted {r im} (h : Keeps o d) : Keeps o (booted r im d) :=
  .startFirmware (.ite (.raiseRollback (.log (.setBoot (.copyImage h)))) (.log (.setBoot (.copyImage h))))
theorem bootFailed {r code} (h : Keeps o d) : Keeps o (bootFailed r code d) :=
  .logRec h
theorem attemptOn {r bad} (h : Keeps o d) : Keeps o (attemptOn r bad d) := by
  unfold Machine.attemptOn
  dsimp only
  split
  · exact .bootFailed h
  · exact .ite (.bootFailed h) (.booted h)
theorem bootAttempt {bad} (h : Keeps o d) : Keeps o (bootAttempt bad d) :=
  .ite (by
    split
    · exact .attemptOn h
    · exact h) h
theorem bootRetry {bad} (h : Keeps o d) : Keeps o (bootRetry bad d) :=
  .ite (.attemptOn h) h
theorem serviceReady (h : Keeps o d) : Keeps o (serviceReady d) :=
  .ite (.ite (.copyReading (.nextReadSeq (.setBoot (.startFirmware h)))) (.setBoot (.startFirmware h))) (.startFirmware h)
theorem freeSpace (h : Keeps o d) : Keeps o (freeSpace d) :=
  .setTiers (d := { d with cores := _ }) h id id (fun _ => rfl)
theorem endDeviceState (h : Keeps o d) : Keeps o (endDeviceState d) :=
  .freeSpace (.setSync_quads_set (.idleTraining
    (.foldl (.foldl (.sendOwnLoss (.foldl (.setBoot h) fun _ _ hd => .endAsCancel hd))
    fun _ _ hd => .coreReset hd) fun _ _ hd => .unloadSection hd)))
theorem powerUpValues {config} (h : Keeps o d) : Keeps o (powerUpValues config d) :=
  .setHost (d := { d with tiers := _, training := _, sched := _ }) h (by split <;> rfl) (by split <;> rfl)
theorem order7 (h : Keeps o d) : Keeps o (order7 d) :=
  .ite (.setBoot (.powerUpValues h)) h
theorem finishReset (h : Keeps o d) : Keeps o (finishReset d) :=
  .ite (.setBoot (.order7 h)) (.order7 h)
theorem runReset {kind} (h : Keeps o d) : Keeps o (runReset kind d) :=
  .finishReset (.setBoot (.ite h (.endDeviceState h)))
theorem perst (h : Keeps o d) : Keeps o (perst d) :=
  .ite h (.ite h (.ite (.runReset h) h))
theorem functionLevelReset (h : Keeps o d) : Keeps o (functionLevelReset d) :=
  .ite h (.ite (.runReset h) (.setHost (d := { d with boot := _ }) h rfl rfl))
theorem warmReset (h : Keeps o d) : Keeps o (warmReset d) :=
  .ite h (.ite (.runReset (.setBoot h)) h)
theorem inputRelease {warm gen width} (h : Keeps o d) : Keeps o (inputRelease warm gen width d) :=
  .ite (.ite (.finishReset (.startPress h)) h)
    (.ite (.finishReset (.setHost (d := { d with boot := _ }) h (by split <;> rfl) (by split <;> rfl))) h)
theorem powerDown (h : Keeps o d) : Keeps o (powerDown d) :=
  .loseTiers (.loseCores (.idleTraining (.irq (.failAll h))))
theorem shutdown {high mv} (h : Keeps o d) : Keeps o (shutdown high mv d) :=
  .ite (.powerDown (.log (.updPower (.ite (.log (.ite (.log h) h)) (.ite (.log h) h))))) h
theorem failSection {hnd code} (h : Keeps o d) : Keeps o (failSection hnd code d) :=
  .foldl h (fun _ _ hd => .ite (.share (by
    split
    · exact .ite hd (.stopRun (.endComparing hd))
    · exact hd) fun h1 => .ite (.endFailed (.releaseStages h1)) h1) hd)
theorem lastRecords {sec cores} (h : Keeps o d) : Keeps o (lastRecords sec cores d) :=
  .ite (.writeRecords h) h
theorem quadrantOff {q} (h : Keeps o d) : Keeps o (quadrantOff q d) :=
  .settleJobs (.updPower (.foldl h (fun _ _ hd => .unloadSection (.failSection (.lastRecords hd)))))
theorem regulatorFault {rail status outOfRange} (h : Keeps o d) : Keeps o (regulatorFault rail status outOfRange d) :=
  .ite h (.ite (.quadrantOff (.log h)) (.powerDown (.log h)))
theorem reportTrip {source temp} (h : Keeps o d) : Keeps o (reportTrip source temp d) :=
  .sendOwnLoss (.log (.updPower (.irq (.irq (.failAll h)))))
theorem thermalTrip {source temp} (h : Keeps o d) : Keeps o (thermalTrip source temp d) :=
  .ite (.updPower (.loseTiers (.loseCores (.idleTraining (.ite (.reportTrip h) h))))) h
theorem meridianWatchdog (h : Keeps o d) : Keeps o (meridianWatchdog d) :=
  .ite h (.log (.updMgmt (.idleTraining
    (.setSet (.foldl (.irq (.failAll
      (.foldl (.foldl h (fun _ _ hd => .ite hd (.sendHalts hd))) (fun _ _ hd => .lastRecords hd))))
        (fun _ _ hd => .unloadSection hd))))))

/-! ### The operations of Machine/Timing.lean -/

theorem countStall {c u cause n} (h : Keeps o d) : Keeps o (countStall c u cause n d) :=
  .setHost (.updUnit h) rfl rfl
theorem unitSteps {c u n run} (h : Keeps o d) : Keeps o (unitSteps c u n run d) :=
  .ite (.ite (.setUnit h) h) (by
    split
    · exact .ite (.countStall (.ite (.countStall (.ite (.setUnit h) h)) (.ite (.setUnit h) h)))
        (.ite (.countStall (.ite (.setUnit h) h)) (.ite (.setUnit h) h))
    · exact .ite (.countStall (.ite (.setUnit h) h)) (.ite (.setUnit h) h))
theorem refSteps {c n} (h : Keeps o d) : Keeps o (refSteps c n d) :=
  .ite h (.share (.foldl h (fun _ _ hd => .unitSteps hd)) fun h1 => .ite h1 (.ite (.latchDeadlock (.updCore h1)) (.updCore h1)))
theorem idleTick (h : Keeps o d) : Keeps o (idleTick d) :=
  .setNow (.finishMoves (.foldl h (fun _ _ hd => .refSteps hd)))

end Keeps

/-- The outcome is a next state with the same commands waiting and a block that keeps what `Keeps` says. -/
def Answers (s : State) (r : Host.Outcome State Fault Refusal) : Prop := ∃ d, r = .next { s with dev := d } ∧ Keeps s.dev d

theorem Answers.upd {s : State} {f : Device → Device} (h : Keeps s.dev (f s.dev)) : Answers s (.next (s.upd f)) :=
  ⟨f s.dev, rfl, h⟩

theorem Answers.wf {s : State} {c : Bool} {x y : Host.Outcome State Fault Refusal} (hc : c = true) (hx : Answers s x) :
    Answers s (if c then x else y) := by rwa [if_pos hc]

theorem exec_answers (s : State) (i : Instr) (hw : i.wf = true)
    (hp : ∀ straps fallback removed gen width mv, i ≠ .powerOn straps fallback removed gen width mv) :
    Answers s (exec i s) := by
  cases i with
  | powerOn straps fallback removed gen width mv => exact absurd rfl (hp straps fallback removed gen width mv)
  | deviceInfo m => exact .upd (.hostCmd (fun _ _ hd => .runInfo hd) .refl)
  | load m err hold => exact .upd (.loadTurn (fun _ hd => .hostWork (fun _ _ he => .loadRow he) hd) .refl)
  | unload m => exact .upd (.hostCmd (fun _ _ hd => .runUnload hd) .refl)
  | run m => exact .upd (.hostCmd (fun _ _ hd => hd) .refl)
  | runFused m => exact .upd (.hostCmd (fun _ _ hd => hd) .refl)
  | cancel m => exact .upd (.hostCmd (fun _ _ hd => .runCancel hd) .refl)
  | preempt m err => exact .upd (.hostCmd (fun _ _ hd => .runPreempt hd) .refl)
  | resume m hold found => exact .upd (.hostWork (fun _ _ hd => .resumeRow hd) .refl)
  | epochRequest m => exact .upd (.hostCmd (fun _ _ hd => .runEpoch hd) .refl)
  | regionLoad m err => exact .upd (.regionRow .refl)
  | xfer m err upto host => exact .upd (.hostWork (fun _ _ hd => .runXfer hd) .refl)
  | pageAlloc m => exact .upd (.hostCmd (fun _ _ hd => .runAlloc hd) .refl)
  | pageFree m => exact .upd (.hostCmd (fun _ _ hd => .runFree hd) .refl)
  | pageMove m => exact .upd (.moveRow .refl)
  | pageQuery m => exact .upd (.hostCmd (fun _ _ hd => .runQuery hd) .refl)
  | export_ m err upto => exact .upd (.hostWork (fun _ _ hd => .runExport hd) .refl)
  | import_ m err upto => exact .upd (.hostWork (fun _ _ hd => .runImport hd) .refl)
  | settings m => exact .upd (.hostCmd (fun _ _ hd => .runSettings hd) .refl)
  | coreOffline m err => exact .upd (.hostCmd (fun _ _ hd => .runOffline hd) .refl)
  | coreOnline m => exact .upd (.hostCmd (fun _ _ hd => .runOnline hd) .refl)
  | regRead m => exact .upd (.hostCmd (fun _ _ hd => .runRegs hd) .refl)
  | meterRead m => exact .upd (.hostCmd (fun _ _ hd => .askMeter hd) .refl)
  | meterJobs m => exact .upd (.hostCmd (fun _ _ hd => .askMeter hd) .refl)
  | logRead m => exact .upd (.hostCmd (fun _ _ hd => .runLog hd) .refl)
  | fwStage m err upto bad => exact .upd (.hostWork (fun _ _ hd => .runStage hd) .refl)
  | fwCommit m hold => exact .upd (.hostWork (fun _ _ hd => .runCommit hd) .refl)
  | goldenWrite m err upto bad => exact .upd (.hostWork (fun _ _ hd => .runGolden hd) .refl)
  | debugUnlock m => exact .upd (.hostCmd (fun _ _ hd => .runUnlock hd) .refl)
  | identityRead m => exact .upd (.hostCmd (fun _ _ hd => .runIdentity hd) .refl)
  | identityRecertify m err => exact .upd (.hostCmd (fun _ _ hd => .runRecertify hd) .refl)
  | attestQuote m => exact .upd (.hostCmd (fun _ _ hd => .runQuote hd) .refl)
  | zeroize m => exact .upd (.hostCmd (fun _ _ hd => .runZeroize hd) .refl)
  | mbxDoorbell m acc v => exact .upd (.ite .refl (.doorbell .refl))
  | mbxSeqAck m acc v => exact .upd (.ite .refl (.seqAck .refl))
  | registerWrite reg len data => exact .wf hw (.upd (.hostWrite .refl))
  | rcRead reg len => exact .wf hw (.upd (.hostRead .refl))
  | bar2Read off len err => exact .wf hw (.upd (.bar2Read .refl))
  | bar2Write off bytes err => exact .wf hw (.upd (.bar2Write .refl))
  | ingestData win off v => exact .wf hw (.upd (.ite (.ingestGranule .refl) .refl))
  | ingestEnd win v => exact .upd (.ite (.ingestEnd .refl) .refl)
  | ingestWordRelease win => exact .upd (.ingestRelease .refl)
  | smbusIdentity addr => exact .upd (.smbRead .refl)
  | smbusTelemetry addr => exact .upd (.smbRead .refl)
  | smbusStraps addr => exact .upd (.smbRead .refl)
  | smbusSchedStatus addr => exact .upd (.smbRead .refl)
  | smbusAlmanac addr => exact .upd (.smbRead .refl)
  | smbusAlertResponse => exact .upd (.smbAlertResponse .refl)
  | commandStart => exact .upd (.commandStart .refl)
  | presenceWaitExpiry m => exact .upd (.presenceWaitExpiry .refl)
  | bootAttempt bad => exact .upd (.bootAttempt .refl)
  | bootRetry bad => exact .upd (.bootRetry .refl)
  | mailboxServiceReady => exact .upd (.serviceReady .refl)
  | perstN => exact .upd (.perst .refl)
  | functionLevelReset => exact .upd (.functionLevelReset .refl)
  | warmRstN => exact .upd (.warmReset .refl)
  | resetInputRelease warm gen width => exact .upd (.inputRelease .refl)
  | coreReset core => exact .upd (.coreResetRow .refl)
  | throttleN low => exact .upd (.throttleStart .refl)
  | throttleEnd => exact .upd (.throttleEnd .refl)
  | presenceChange active contact => exact .upd (.presenceChange .refl)
  | pressEnd => exact .upd (.pressEnd .refl)
  | pressStuck => exact .upd (.pressStuck .refl)
  | stuckRelease => exact .upd (.stuckRelease .refl)
  | presenceWindowClose => exact .upd (.windowClose .refl)
  | maintChange fitted => exact .upd (.maintChange .refl)
  | sealLoopChange intact => exact .upd (.sealLoopChange .refl)
  | sealTogglingMinute => exact .upd (.sealTogglingMinute .refl)
  | inputLowBandEntry mv => exact .upd (.lowBandEntry .refl)
  | inputLowBandExit mv => exact .upd (.lowBandExit .refl)
  | inputHighBandChange mv => exact .upd (.highBandChange .refl)
  | shutdown high mv => exact .upd (.shutdown .refl)
  | regulatorFault rail status outOfRange => exact .upd (.regulatorFault .refl)
  | thermalTrip source temp => exact .upd (.thermalTrip .refl)
  | hardLimitStart q => exact .upd (.hardLimitStart .refl)
  | hardLimitEnd q => exact .upd (.hardLimitEnd .refl)
  | thermalLimitUpdate q => exact .upd (.thermalLimitUpdate .refl)
  | powerLimitUpdate => exact .upd (.powerLimitUpdate .refl)
  | vcoreSetPointUpdate => exact .upd (.refreshSetPoints .refl)
  | sensorReadingFrame hub readings => exact .wf hw (.upd (.sensorFrame .refl))
  | telemetryRewrite upto => exact .upd (.telemetryRewrite .refl)
  | meridianWatchdogExpiry => exact .upd (.meridianWatchdog .refl)
  | almanacHourEnd => exact .upd (.hourEnd .refl)
  | almanacDropRecord => exact .upd (.dropRecord .refl)
  | tokenTransfer u src => exact .upd (.tokenTransfer .refl)
  | spillTokenReturn u port lane err word => exact .upd (.spillReturn .refl)
  | harnessLinkToken u dir edge => exact .upd (.harnessLink .refl)
  | packetFlitTurn link arrive credit ends => exact .upd (.flitTurn .refl)
  | hitchFlitToHub q vc arrive ready => exact .upd (.hitchToHub .refl)
  | hitchFlitToFabric q vc arrive resp credit => exact .upd (.updHitch .refl)
  | contextSwitch u => exact .upd (.contextSwitch .refl)
  | contextReload u => exact .upd (.contextReload .refl)
  | contextWrite u err => exact .upd (.contextWrite .refl)
  | progressWatchdogExpiry core => exact .upd (.watchdogExpiry .refl)
  | nop u => exact .upd (.wordNop .refl)
  | move u => exact .upd (.runWord .refl)
  | loopBegin u => exact .upd (.wordLoopBegin .refl)
  | loopEnd u => exact .upd (.wordLoopEnd .refl)
  | predLoad u => exact .upd (.runWord .refl)
  | select_ u => exact .upd (.runWord .refl)
  | yield_ u => exact .upd (.wordYield .refl)
  | fence u => exact .upd (.runWord .refl)
  | discard u => exact .upd (.runWord .refl)
  | mmAcc u hold => exact .upd (.runWord .refl)
  | accEmit u => exact .upd (.runWord .refl)
  | accLoad u => exact .upd (.runWord .refl)
  | accClear u => exact .upd (.runWord .refl)
  | bufLoad u => exact .upd (.runWord .refl)
  | vMap u => exact .upd (.runWord .refl)
  | vBcast u => exact .upd (.runWord .refl)
  | vFunc u hold => exact .upd (.runWord .refl)
  | vReduce u => exact .upd (.runWord .refl)
  | vPred u => exact .upd (.runWord .refl)
  | vStats u => exact .upd (.runWord .refl)
  | vSmax u hold => exact .upd (.runWord .refl)
  | vMove u => exact .upd (.runWord .refl)
  | vFill u => exact .upd (.runWord .refl)
  | descSet u => exact .upd (.runWord .refl)
  | push u => exact .upd (.runWord .refl)
  | read_ u err word => exact .upd (.readWord .refl)
  | colRead u err word => exact .upd (.readWord .refl)
  | release_ u => exact .upd (.runWord .refl)
  | zero u => exact .upd (.runWord .refl)
  | muScrubRead u err word => exact .upd (.muScrub .refl)
  | dqWaitFill u => exact .upd (.runWord .refl)
  | dqWaitDrain u => exact .upd (.runWord .refl)
  | dqOpen u => exact .upd (.wordDqOpen .refl)
  | streamEntryRequest core => exact .upd (.requestLoop .refl)
  | loadEntryFill core queue err => exact .upd (.loadFill .refl)
  | streamTileRelease core slot => exact .upd (.tileRelease .refl)
  | storeQueueAccept core tap => exact .upd (.storeAccept .refl)
  | storeWriteAck core queue err => exact .upd (.storeAck .refl)
  | translationFill core page err => exact .upd (.translationFill .refl)
  | invalidation => exact .upd (.invalidationDone .refl)
  | migrationMoveStart => exact .upd (.migrationStart .refl)
  | moveCopyDone page err => exact .upd (.moveCopyDone .refl)
  | affinityDecaySweep => exact .upd (.decaySweep .refl)
  | patrolScrub core frame entry err => exact .upd (.patrolScrub .refl)
  | refresh core channel => exact .upd (f := id) .refl
  | ephemerisNop core => exact .upd (.entryTurn (fun _ _ _ hd => hd) .refl)
  | units core => exact .upd (.entryTurn (fun _ _ _ hd => .actUnits hd) .refl)
  | stream core => exact .upd (.entryTurn (fun _ _ _ hd => .actStream hd) .refl)
  | semAdd core => exact .upd (.entryTurn (fun _ _ _ hd => .actSem hd) .refl)
  | semSub core => exact .upd (.entryTurn (fun _ _ _ hd => .actSem hd) .refl)
  | semWaitGe core => exact .upd (.entryTurn (fun _ _ _ hd => .actSemWait hd) .refl)
  | barArrive core => exact .upd (.barTurn (fun _ _ _ hd => .actBarArrive hd) .refl)
  | barWait core => exact .upd (.barTurn (fun _ _ _ hd => .actBarWait hd) .refl)
  | barArriveWait core => exact .upd (.barTurn (fun _ _ _ hd => .actBarArriveWait hd) .refl)
  | chListen core => exact .upd (.entryTurn (fun _ _ _ hd => .actListen hd) .refl)
  | chOpen core => exact .upd (.entryTurn (fun _ _ _ hd => .actOpen hd) .refl)
  | chClose core => exact .upd (.entryTurn (fun _ _ _ hd => .actClose hd) .refl)
  | chunk core => exact .upd (.entryTurn (fun _ _ _ hd => .actChunk hd) .refl)
  | mark core => exact .upd (.entryTurn (fun _ _ _ hd => .actMark hd) .refl)
  | tallyOperation q => exact .upd (.tallyOperation .refl)
  | barrierArrival level => exact .upd (.barrierArrival .refl)
  | barrierRelease core => exact .upd (.barrierRelease .refl)
  | openRequestReceived core => exact .upd (.openReceived .refl)
  | grantReceived core err => exact .upd (.grantReceived .refl)
  | channelTokenEntry core ep => exact .upd (.channelTokenEntry .refl)
  | creditReturn core err => exact .upd (.creditReturn .refl)
  | messageDelivery core ep => exact .upd (.messageDelivery .refl)
  | closeMarker core => exact .upd (.closeMarker .refl)
  | endpointClose core ep => exact .upd (.endpointClose .refl)
  | commandEnd m err => exact .upd (.commandEnd .refl)
  | stageHandover m => exact .upd (.stageHandover .refl)
  | suspendMessage core => exact .upd (.suspendMessage .refl)
  | haltMessage core => exact .upd (.haltMessage .refl)
  | preemptionSave handle err => exact .upd (.preemptionSave .refl)
  | quiescenceLimit core => exact .upd (.quiescenceLimit .refl)
  | autoResumeRetry found => exact .upd (.autoResume .refl)
  | unitFailure u err => exact .upd (.unitFailure .refl)
  | deadlineCheck m => exact .upd (.deadlineCheck .refl)
  | cfgBegin core => exact .upd (.cfgBegin .refl)
  | cfgFrame core => exact .upd (.cfgFrame .refl)
  | cfgCommit core => exact .upd (.ite (.loadedCore (.cfgCommit .refl)) (.cfgCommit .refl))
  | cfgAbort core => exact .upd (.cfgAbort .refl)
  | regionReady core => exact .upd (.regionReady .refl)
  | regionReadyTimeout core => exact .upd (.regionTimeout .refl)
  | portTraining p width ends => exact .upd (.ite .refl (.updPort .refl))
  | train p protocol node port width fw => exact .upd (.trainPort .refl)
  | portDownRetrain p => exact .upd (.updPort .refl)
  | linkReset p => exact .upd (.portEvent .refl)
  | data p dir => exact .upd (by
      split
      · exact .updPort .refl
      · exact .updPort .refl)
  | nak p dir => exact .upd (by
      split
      · exact .updPort .refl
      · exact .portEvent .refl)
  | idle p dir => exact .upd (by
      split
      · exact .updPort .refl
      · exact .updPort .refl)
  | replayTimeout p => exact .upd (.portEvent .refl)
  | nakRepeat p => exact .upd (.updPort .refl)
  | packetForward p pool => exact .upd (.packetForward .refl)
  | chToken p pool => exact .upd (.takePacket (fun _ _ hd => .setPacketAct (fun _ _ _ he => .tokenPacket he) hd) .refl)
  | chOpenPacket p pool => exact .upd (.takePacket (fun _ _ hd => .setPacketAct (fun _ _ _ he => .openPacket he) hd) .refl)
  | chGrant p pool => exact .upd (.takePacket (fun _ _ hd => .setPacketAct (fun _ _ _ he => .grantPacket he) hd) .refl)
  | chRefuse p pool => exact .upd (.takePacket (fun _ _ hd => .setPacketAct (fun _ _ _ he => .refusePacket he) hd) .refl)
  | chClosePacket p pool => exact .upd (.takePacket (fun _ _ hd => .setPacketAct (fun _ _ _ he => .closePacket he) hd) .refl)
  | chCredit p pool => exact .upd (.takePacket (fun _ _ hd => .setPacketAct (fun _ _ _ he => .creditPacket he) hd) .refl)
  | barArrivePacket p pool => exact .upd (.takePacket (fun _ _ hd => .setPacketAct (fun _ _ _ he => .arrivePacket he) hd) .refl)
  | barRelease p pool => exact .upd (.takePacket (fun _ _ hd => .setPacketAct (fun _ _ _ he => .releasePacket he) hd) .refl)
  | heartbeat p pool => exact .upd (.takePacket (fun _ _ hd => .heartbeatPacket hd) .refl)
  | heartbeatSend => exact .upd (.heartbeatSend .refl)
  | heartbeatTimeout node => exact .upd (.heartbeatTimeout .refl)
  | lost p pool => exact .upd (.takePacket (fun _ _ hd => .lostPacket hd) .refl)
  | setHello p pool => exact .upd (.takePacket (fun _ _ hd => .helloPacket hd) .refl)
  | setReady p pool => exact .upd (.takePacket (fun _ _ hd => .readyPacket hd) .refl)
  | formTimeout => exact .upd (.formTimeout .refl)
  | digest p pool => exact .upd (.takePacket (fun _ _ hd => .digestPacket hd) .refl)
  | repairPage p pool => exact .upd (.takePacket (fun _ _ hd => .repairPacket hd) .refl)
  | configData p pool => exact .upd (.configData .refl)
  | configAck p pool => exact .upd (.takePacket (fun _ _ hd => .ackPacket hd) .refl)
  | bcastTimeout => exact .upd (.bcastTimeout .refl)
  | meterInterval energy mv ma => exact .upd (.updMeter .refl)
  | readRequest crcOk => exact .upd (.readRequest .refl)
  | jobsRequest crcOk => exact .upd (.jobsRequest .refl)
  | shares crcOk => exact .upd (.takeShares .refl)
  | sharesSend => exact .upd (.sharesSend .refl)
  | shareTimeout => exact .upd (.updMeter .refl)
  | meterPoll => exact .upd (.meterPoll .refl)
  | meterCheckpoint => exact .upd (.updMeter .refl)
  | meterPowerFail => exact .upd (.updMeter .refl)
  | meterStart saveOk sealIntact jumper => exact .upd (.updMeter .refl)
  | meterSealChange intact => exact .upd (.updMeter .refl)
  | calibrationWrite const => exact .upd (.updMeter .refl)
  | meterPulse => exact .upd (.updMeter .refl)
  | referenceStep core => exact .upd (.refSteps .refl)
  | lossOfSignal p => exact .upd (.portEvent .refl)
  | haltingStopLimit => exact .upd (.haltingStopLimit .refl)
  | meterNoReply => exact .upd (.meterNoReply .refl)
  | calibrationJumperChange fitted => exact .upd (.updMeter .refl)
  | powerStateChange d3 => exact .upd (.ite (.setHost .refl (releaseVectors_straps _) (releaseVectors_mem _)) .refl)

theorem exec_of_not_wf (s : State) (i : Instr) (h : i.wf = false) : exec i s = .fault .illFormed := by
  unfold Instr.wf at h
  split at h
  · exact if_neg (by simp [Instr.wf, h])
  · exact if_neg (by simp [Instr.wf, h])
  · exact if_neg (by simp [Instr.wf, h])
  · exact if_neg (by simp [Instr.wf, h])
  · exact if_neg (by simp [Instr.wf, h])
  · exact if_neg (by simp [Instr.wf, h])
  · cases h

/-- R500, R523: the records of a power-on and its latches. -/
theorem powerOn_straps {d : Device} {straps fallback removed gen width mv} (hp : d.boot.powered = false) (hl : 50000 ≤ mv)
    (hh : mv ≤ 61000) : (powerOn straps fallback removed gen width mv d).host.straps = straps := by
  unfold powerOn
  rw [if_neg (by simp [hp]; omega)]
  exact (Keeps.inputRecords .refl).straps

theorem powerOn_memories {d : Device} {straps fallback removed gen width mv} (h : memoriesWf d = true) :
    memoriesWf (powerOn straps fallback removed gen width mv d) = true := by
  unfold powerOn
  split
  · exact h
  · obtain ⟨-, -, -, hs, hm⟩ := (memoriesWf_iff d).mp h
    exact (Keeps.inputRecords .refl).memories ((memoriesWf_iff _).mpr ⟨rfl, rfl, rfl, hs, hm⟩)

theorem exec_completes (s : State) (i : Instr) (hw : i.wf = true) : ∃ d, exec i s = .next { s with dev := d } := by
  by_cases hp : ∃ straps fallback removed gen width mv, i = .powerOn straps fallback removed gen width mv
  · obtain ⟨straps, fallback, removed, gen, width, mv, rfl⟩ := hp
    exact ⟨_, rfl⟩
  · obtain ⟨d, hd, -⟩ := exec_answers s i hw fun a b c e f g h => hp ⟨a, b, c, e, f, g, h⟩
    exact ⟨d, hd⟩

theorem wf_of_exec_next {s t : State} {i : Instr} (h : exec i s = .next t) : i.wf = true := by
  by_contra hw
  rw [exec_of_not_wf s i (by simpa using hw)] at h
  cases h

/-- Settles O55: `exec` answers every well-formed command from every state (`exec_answers`, by the arms of `exec`), checks the
operands of an ill-formed one first, and no arm touches the queue. -/
theorem commandsNeverStop : Obligations.CommandsNeverStop := by
  intro s i
  refine ⟨fun hw => ?_, exec_of_not_wf s i, fun hq => ?_⟩
  · obtain ⟨d, hd⟩ := exec_completes s i hw
    exact ⟨d, hd, trivial⟩
  · obtain ⟨dev, pending⟩ := s
    cases pending with
    | nil => exact ⟨_, rfl, rfl, rfl⟩
    | cons c rest =>
      obtain ⟨hc, hrest⟩ := Bool.and_eq_true_iff.mp hq
      obtain ⟨d, hd⟩ := exec_completes ⟨dev, rest⟩ c hc
      exact ⟨_, hd, hrest, rfl⟩

theorem step_keeps {s t : State} (hp : ∀ straps fallback removed gen width mv,
    s.pending.head? ≠ some (.powerOn straps fallback removed gen width mv)) (h : step s = .next t) : Keeps s.dev t.dev := by
  obtain ⟨dev, pending⟩ := s
  cases pending with
  | nil =>
    cases h
    exact .idleTick .refl
  | cons c rest =>
    obtain ⟨d, hd, hk⟩ := exec_answers ⟨dev, rest⟩ c (wf_of_exec_next h) fun a b e f g i hc => hp a b e f g i (by simp [hc])
    cases hd.symm.trans h
    exact hk

theorem step_memories {s t : State} (hm : memoriesWf s.dev = true) (h : step s = .next t) : memoriesWf t.dev = true := by
  by_cases hp : ∃ straps fallback removed gen width mv, s.pending.head? = some (.powerOn straps fallback removed gen width mv)
  · obtain ⟨straps, fallback, removed, gen, width, mv, hp⟩ := hp
    obtain ⟨rest, hs⟩ := List.head?_eq_some_iff.mp hp
    simp only [step, hs] at h
    cases h
    exact powerOn_memories hm
  · exact (step_keeps (fun a b c e f g hc => hp ⟨a, b, c, e, f, g, hc⟩) h).memories hm

/-- Settles O59: every operation an arm of `exec` or the idle tick is made of keeps the canonical form (`Keeps`), and a power-on,
which starts the tiers empty, does so by itself. -/
theorem memoriesStayCanonical : Obligations.MemoriesStayCanonical := fun _ _ => step_memories

end Sys2Proof.Machine
end

section
/-!
PROOFS. The host's side: the values at reset, and what a read or a write of one register of BAR0 or of configuration space
answers, clears and leaves (R14, R18, R19, R25, R411 to R415).
-/
namespace Sys2Proof.Machine
open Sys2Proof.Safety

/-! ### The module after reset -/

theorem reset_res (p : Nat) : State.reset.dev.res p = resFree := BitVec.zero_xor

theorem reset_page_not_valid (p : Nat) : ¬ resValid (State.reset.dev.res p) = true := by
  rw [reset_res]
  decide

theorem reset_mailboxes : ∀ m : Fin 16,
    (State.reset.dev.mb m.val).state = .idle ∧ bar0Word State.reset.dev (0x10000 * m.val + 0x1000) = 0 := by
  decide +kernel

theorem reset_fabrics : ∀ c : Fin 16, regWord State.reset.dev 0 (unitId (80 * c.val)) 0 = 0
    ∧ regWord State.reset.dev 0 (unitId (80 * c.val)) 0x200 = 0 := by
  decide +kernel

theorem reset_registers : bar0Word State.reset.dev 0x300000 = 0 ∧ bar0Word State.reset.dev 0x300018 = 0
    ∧ bar0Word State.reset.dev 0x300020 = 0 ∧ bar0Word State.reset.dev 0x300028 = 0 ∧ bar0Word State.reset.dev 0x300030 = 2
    ∧ regWord State.reset.dev 6 0 0x20 = 0x003C100004000010 ∧ regWord State.reset.dev 7 0 0 = 0
    ∧ regWord State.reset.dev 8 0 0 = 4 ∧ regWord State.reset.dev 9 0 0x818 = 0x012C003C000A
    ∧ regWord State.reset.dev 9 0 0x810 = 0x3FF ∧ regWord State.reset.dev 5 0 0x68 = 0x02BC02BC02BC02BC := by
  decide +kernel

/-- Settles O60: the tables and memories start empty, so every page, unit and core reads as the default of its table and no page
is VALID; the named registers, the sixteen mailboxes and the sixteen cores are read out. -/
theorem resetLeavesTheTables : Obligations.ResetLeavesTheTables := by
  obtain ⟨r0, r1, r2, r3, r4, r5, r6, r7, r8, r9, r10⟩ := reset_registers
  exact ⟨rfl, by decide, rfl, fun p hp => absurd hp (reset_page_not_valid p),
    ⟨rfl, fun p hp => absurd hp (reset_page_not_valid p)⟩, rfl, reset_res, fun _ => rfl, fun _ => rfl, reset_mailboxes,
    r0, r1, r2, r3, r4, r5, r6, r7, r8, r9, r10, reset_fabrics⟩

/-! ### The access commands -/

theorem rcRead_completes {s : State} {reg : HostReg} {len : Nat} {P : Device → Prop} (hw : wfRegister reg len = true)
    (hp : P (hostRead reg len s.dev)) : Completes (.rcRead reg len) s P :=
  ⟨_, if_pos hw, hp⟩

theorem registerWrite_completes {s : State} {reg : HostReg} {len : Nat} {v : BitVec 512} {P : Device → Prop}
    (hw : wfRegister reg len = true) (hp : P (hostWrite reg len (v.toNat % 2 ^ (8 * len)) s.dev)) :
    Completes (.registerWrite reg len v) s P :=
  ⟨_, if_pos hw, hp⟩

theorem wfAccess_word {a : Nat} (ha : a % 8 = 0) : wfAccess a 8 = true := by
  simp [wfAccess, ha]

/-! ### Reads of BAR0: which words an access covers, and the data it answers -/

/-- The host reads `n` bytes of the number `w`. -/
def Device.answer (n w : Nat) (d : Device) : Device :=
  { d with host := { d.host with lastRead := natToBytes n w, poisoned := false } }

theorem natToBytes_mod (n v : Nat) : natToBytes n (v % 2 ^ (8 * n)) = natToBytes n v := by
  induction n generalizing v with
  | zero => rfl
  | succ n ih =>
    have hlow : BitVec.ofNat 8 (v % 2 ^ (8 * (n + 1))) = BitVec.ofNat 8 v :=
      BitVec.eq_of_toNat_eq (by simpa using Nat.mod_mod_of_dvd v (Nat.pow_dvd_pow 2 (by omega : 8 ≤ 8 * (n + 1))))
    have hrest : v % 2 ^ (8 * (n + 1)) / 256 = v / 256 % 2 ^ (8 * n) := by
      rw [show 2 ^ (8 * (n + 1)) = 256 * 2 ^ (8 * n) from by rw [Nat.mul_add, Nat.pow_add, Nat.mul_comm]]
      exact Nat.mod_mul_right_div_self ..
    rw [natToBytes, natToBytes, hlow, hrest, ih]

theorem Device.answer_mod (n w : Nat) (d : Device) : d.answer n (w % 2 ^ (8 * n)) = d.answer n w := by
  unfold Device.answer
  rw [natToBytes_mod]

/-- An access that covers one word, whole or its low half. -/
theorem rcRead_one {d : Device} {a len : Nat} {lo hi : Bool} (ho : barsOpen d = true) (ha : a % 8 = 0)
    (hws : coveredWords a len = [(a, lo, hi)]) :
    rcRead a len d = (bar0Clear a lo hi d).answer len (bar0Word d a % 2 ^ 64) := by
  simp [rcRead, ho, hws, packNat, ha, Device.answer]

theorem rcRead_word {d : Device} {a : Nat} (ho : barsOpen d = true) (ha : a % 8 = 0) :
    rcRead a 8 d = (bar0Clear a true true d).answer 8 (bar0Word d a) :=
  (rcRead_one ho ha rfl).trans (Device.answer_mod 8 ..)

theorem rcRead_low {d : Device} {a : Nat} (ho : barsOpen d = true) (ha : a % 8 = 0) :
    rcRead a 4 d = (bar0Clear a true false d).answer 4 (bar0Word d a) := by
  have hws : coveredWords a 4 = [(a, true, false)] := by
    simp [coveredWords, ha, Nat.div_mul_cancel (Nat.dvd_of_mod_eq_zero ha)]
  rw [rcRead_one ho ha hws, ← Device.answer_mod, Nat.mod_mod_of_dvd _ (by decide), Device.answer_mod]

theorem clearHalves_both {w : Nat} (v : BitVec w) : clearHalves true true v = 0 := by
  simp [clearHalves]

/-! ### What each word of BAR0 reads, and what a read of it clears -/

theorem bar0Word_mailbox (d : Device) {m o : Nat} (hm : m < 16) (ho : o < 0x10000) :
    bar0Word d (0x10000 * m + o) = mailboxWord d m o := by
  have hd : (0x10000 * m + o) / 0x10000 = m := by omega
  have hr : (0x10000 * m + o) % 0x10000 = o := by omega
  rw [bar0Word, if_pos (by omega), hd, hr]

theorem bar0Word_ingest (d : Device) {n o : Nat} (hn : n < 8) (ho : o < 0x20000) :
    bar0Word d (0x200000 + 0x20000 * n + o) = ingestWord (Tab.getD d.host.ingest n {}) o := by
  have hd : (0x200000 + 0x20000 * n + o - 0x200000) / 0x20000 = n := by omega
  have hr : (0x200000 + 0x20000 * n + o - 0x200000) % 0x20000 = o := by omega
  rw [bar0Word, if_neg (by omega), if_neg (by omega), if_pos (by grind), hd, hr]

theorem bar0Word_strapBlock (d : Device) {o : Nat} (ho : o < 0x1000) : bar0Word d (0x300000 + o) = strapBlockWord d o := by
  rw [bar0Word, if_neg (by omega), if_neg (by omega), if_neg (by grind), if_pos (by grind), Nat.add_sub_cancel_left]

theorem bar0Clear_mailbox (d : Device) {m : Nat} (lo hi : Bool) (hm : m < 16) : bar0Clear (0x10000 * m + 0x1018) lo hi d
    = d.setMb m { d.mb m with ignored := clearHalves lo hi (d.mb m).ignored } := by
  have hd : (0x10000 * m + 0x1018) / 0x10000 = m := by omega
  rw [bar0Clear, if_pos (by omega), if_pos (by omega), hd, Device.updMb_eq]

theorem bar0Clear_of_lt (d : Device) {a : Nat} (lo hi : Bool) (ha : a < 0x200000) (hc : a % 0x10000 ≠ 0x1018) :
    bar0Clear a lo hi d = d := by
  by_cases hm : a < 0x100000
  · rw [bar0Clear, if_pos hm, if_neg hc]
  · rw [bar0Clear, if_neg hm, if_neg (by grind), if_neg (by omega), if_neg (by omega)]

theorem bar0Clear_packets (d : Device) {n : Nat} (lo hi : Bool) (hn : n < 8) : bar0Clear (0x210018 + 0x20000 * n) lo hi d
    = updIngest n (fun w => { w with packets := clearHalves lo hi w.packets }) d := by
  have hd : (0x210018 + 0x20000 * n - 0x200000) / 0x20000 = n := by omega
  have hr : (0x210018 + 0x20000 * n - 0x200000) % 0x20000 = 0x10018 := by omega
  rw [bar0Clear, if_neg (by omega), if_pos (by grind), hd, hr]
  rfl

theorem bar0Clear_late (d : Device) {n : Nat} (lo hi : Bool) (hn : n < 8) : bar0Clear (0x210020 + 0x20000 * n) lo hi d
    = updIngest n (fun w => { w with late := clearHalves lo hi w.late }) d := by
  have hd : (0x210020 + 0x20000 * n - 0x200000) / 0x20000 = n := by omega
  have hr : (0x210020 + 0x20000 * n - 0x200000) % 0x20000 = 0x10020 := by omega
  rw [bar0Clear, if_neg (by omega), if_pos (by grind), hd, hr]
  rfl

theorem bar0Clear_ingest (d : Device) {n o : Nat} (lo hi : Bool) (hn : n < 8) (ho : o < 0x10018) :
    bar0Clear (0x200000 + 0x20000 * n + o) lo hi d = d := by
  have hr : (0x200000 + 0x20000 * n + o - 0x200000) % 0x20000 = o := by omega
  rw [bar0Clear, if_neg (by omega), if_pos (by grind), hr]
  split
  · omega
  · omega
  · rfl

theorem bar0Clear_strapBlock (d : Device) {o : Nat} (lo hi : Bool) (ho : o < 0x28) : bar0Clear (0x300000 + o) lo hi d = d := by
  rw [bar0Clear, if_neg (by omega), if_neg (by grind), if_neg (by omega), if_neg (by omega)]

theorem bar0Clear_bar2 (d : Device) (lo hi : Bool) : bar0Clear 0x300028 lo hi d
    = { d with host := { d.host with bar2Reads := if lo then 0 else d.host.bar2Reads
                                     bar2Writes := if hi then 0 else d.host.bar2Writes } } := by
  cases lo <;> cases hi <;> rfl

theorem bar0Clear_resets (d : Device) : bar0Clear 0x300030 true true d
    = { d with boot := { d.boot with perstCount := 0, flrCount := 0, warmCount := 0 } } := rfl

/-! ### Writes of BAR0 -/

/-- A write of one whole word that lies in none of the areas which take bytes. -/
theorem registerWrite_word {d : Device} {a v : Nat} (ho : barsOpen d = true)
    (harea : ¬ (a < 0x100000 ∧ a % 0x10000 < 0x1000))
    (hdata : ¬ (0x200000 ≤ a ∧ a < 0x300000 ∧ a % 0x20000 < 0x10000)) (hmsix : ¬ (0x310000 ≤ a ∧ a < 0x310040)) :
    registerWrite a 8 v d = bar0WriteWord a true true v d := by
  rw [registerWrite, ho, if_neg (by decide), if_neg (by grind), if_neg (by grind), if_neg (by grind)]
  simp [coveredWords]

theorem registerWrite_area {d : Device} {a len v : Nat} (ho : barsOpen d = true) (ha : a < 0x100000)
    (harea : a % 0x10000 < 0x1000) : registerWrite a len v d = d.setMb (a / 0x10000)
      { d.mb (a / 0x10000) with area := Ram.blit (d.mb (a / 0x10000)).area (a % 0x10000) len v } := by
  rw [registerWrite, ho, if_neg (by decide), if_pos (by grind)]
  rfl

theorem registerWrite_msixTable {d : Device} {a len v : Nat} (ho : barsOpen d = true) (hlo : 0x310000 ≤ a)
    (hhi : a < 0x310040) : registerWrite a len v d
      = { d with host := releaseVectors { d.host with msixTable := Ram.blit d.host.msixTable (a - 0x310000) len v } } := by
  rw [registerWrite, ho, if_neg (by decide), if_neg (by grind), if_neg (by grind), if_pos (by grind)]

theorem registerWrite_ingestStatus {d : Device} {n v : Nat} (ho : barsOpen d = true) (hn : n < 8) :
    registerWrite (0x210000 + 0x20000 * n) 8 v d
      = if bitOf v 2 then updIngest n (fun w => { w with overrun := false }) d else d := by
  have hd : (0x210000 + 0x20000 * n - 0x200000) / 0x20000 = n := by omega
  have hr : (0x210000 + 0x20000 * n - 0x200000) % 0x20000 = 0x10000 := by omega
  rw [registerWrite_word ho (by omega) (by omega) (by omega)]
  unfold bar0WriteWord
  rw [if_neg (by omega), if_pos (by grind), hd, hr]
  rfl

theorem registerWrite_ingestCfg {d : Device} {n v : Nat} (ho : barsOpen d = true) (hn : n < 8) :
    registerWrite (0x210010 + 0x20000 * n) 8 v d = updIngest n (fun w => { w with threshold := BitVec.ofNat 8 v }) d := by
  have hd : (0x210010 + 0x20000 * n - 0x200000) / 0x20000 = n := by omega
  have hr : (0x210010 + 0x20000 * n - 0x200000) % 0x20000 = 0x10010 := by omega
  rw [registerWrite_word ho (by omega) (by omega) (by omega)]
  unfold bar0WriteWord
  rw [if_neg (by omega), if_pos (by grind), hd, hr]
  rfl

theorem registerWrite_irqCause {d : Device} {v : Nat} (ho : barsOpen d = true) : registerWrite 0x300018 8 v d
    = { d with host := { d.host with irqCause := d.host.irqCause &&& ~~~ BitVec.ofNat 4 v } } := by
  rw [registerWrite_word ho (by omega) (by omega) (by omega)]
  rfl

theorem registerWrite_bar2Base {d : Device} {v : Nat} (ho : barsOpen d = true) : registerWrite 0x300020 8 v d
    = { d with host := { d.host with bar2Base := BitVec.ofNat 24 (bitsOf v 0 24 / d.host.bar2Pages * d.host.bar2Pages) } } := by
  rw [registerWrite_word ho (by omega) (by omega) (by omega)]
  rfl

/-- A number of 24 bits put down to a multiple of `n` still fits. -/
theorem toNat_alignDown {x n : Nat} (hx : x < 2 ^ 24) : (BitVec.ofNat 24 (x / n * n)).toNat = x / n * n := by
  rw [BitVec.toNat_ofNat, Nat.mod_eq_of_lt (Nat.lt_of_le_of_lt (Nat.div_mul_le_self ..) hx)]

/-- The bytes of an access hold its low bits. -/
theorem ofNat_lowBits {w n m : Nat} (v : BitVec w) (h : n ≤ m) : BitVec.ofNat n (v.toNat % 2 ^ m) = v.setWidth n :=
  BitVec.eq_of_toNat_eq (by simpa using Nat.mod_mod_of_dvd v.toNat (Nat.pow_dvd_pow 2 h))

theorem bitOf_lowBits {w i m : Nat} (v : BitVec w) (h : i < m) : bitOf (v.toNat % 2 ^ m) i = v.getLsbD i := by
  rw [bitOf, Nat.testBit_mod_two_pow, decide_eq_true h, Bool.true_and, BitVec.testBit_toNat]

theorem bitsOf_lowBits {i n m : Nat} (x : Nat) (h : i + n ≤ m) : bitsOf (x % 2 ^ m) i n = x / 2 ^ i % 2 ^ n := by
  rw [bitsOf, Nat.shiftRight_eq_div_pow]
  refine Nat.eq_of_testBit_eq fun k => ?_
  simp only [Nat.testBit_mod_two_pow, Nat.testBit_div_two_pow]
  grind

theorem toNat_add_shiftLeft_mod (x : BitVec 32) (y : Nat) : (x.toNat + (y <<< 32)) % 2 ^ 32 = x.toNat := by
  have hx := x.isLt
  rw [Nat.shiftLeft_eq]
  omega

/-! ### Vectors held back by a mask (R442) -/

/-- One vector's turn: sent when it is pending and no longer masked. -/
def releaseVector (h : HostSide) (v : Nat) : HostSide :=
  if h.msixPending.getLsbD v && !vectorMasked h v then sendVector { h with msixPending := setBit h.msixPending v false } v
  else h

theorem releaseVectors_eq_foldl (h : HostSide) : releaseVectors h = (List.range 4).foldl releaseVector h := rfl

/-- Nothing but the pending bits and the messages sent differs. -/
def VectorsOnly (h g : HostSide) : Prop := g = { h with msixPending := g.msixPending, sent := g.sent }

theorem VectorsOnly.trans {h g k : HostSide} (hg : VectorsOnly h g) (hk : VectorsOnly g k) : VectorsOnly h k := by
  unfold VectorsOnly at *
  rw [hk, hg]

theorem VectorsOnly.vectorMasked {h g : HostSide} (hg : VectorsOnly h g) (v : Nat) :
    Machine.vectorMasked g v = Machine.vectorMasked h v := by
  rw [hg]
  rfl

theorem getLsbD_setBit_false {w : Nat} (x : BitVec w) (v k : Nat) :
    (setBit x v false).getLsbD k = (x.getLsbD k && decide (k ≠ v)) := by
  by_cases hk : k < w
  · have hone : (BitVec.ofNat w (2 ^ v)).getLsbD k = decide (v = k) := by
      rw [BitVec.getLsbD_ofNat, Nat.testBit_two_pow, decide_eq_true hk, Bool.true_and]
    rw [setBit, if_neg (by decide), BitVec.getLsbD_and, BitVec.getLsbD_not, hone]
    grind
  · simp [BitVec.getLsbD_of_ge _ _ (Nat.not_lt.mp hk)]

theorem releaseVector_frame (h : HostSide) (v : Nat) : VectorsOnly h (releaseVector h v) := by
  unfold releaseVector sendVector
  split
  · split <;> rfl
  · rfl

theorem releaseVector_pending (h : HostSide) (v k : Nat) :
    (releaseVector h v).msixPending.getLsbD k = (h.msixPending.getLsbD k && (decide (k ≠ v) || vectorMasked h k)) := by
  unfold releaseVector
  split
  next hsend =>
    obtain ⟨-, hfree⟩ := Bool.and_eq_true_iff.mp hsend
    have hmask : vectorMasked { h with msixPending := setBit h.msixPending v false } v = false :=
      (Bool.not_eq_true' _).mp hfree
    rw [sendVector, hmask, if_neg (by decide), getLsbD_setBit_false]
    grind
  next hkeep => grind

theorem releaseAll_frame (vs : List Nat) (h : HostSide) : VectorsOnly h (vs.foldl releaseVector h) := by
  induction vs generalizing h with
  | nil => rfl
  | cons v vs ih => exact (releaseVector_frame h v).trans (ih _)

theorem releaseAll_pending (vs : List Nat) (h : HostSide) (k : Nat) : (vs.foldl releaseVector h).msixPending.getLsbD k
    = (h.msixPending.getLsbD k && (decide (k ∉ vs) || vectorMasked h k)) := by
  induction vs generalizing h with
  | nil => simp
  | cons v vs ih =>
    rw [List.foldl_cons, ih, releaseVector_pending, (releaseVector_frame h v).vectorMasked]
    grind

theorem releaseVectors_frame (h : HostSide) : VectorsOnly h (releaseVectors h) := releaseAll_frame ..

theorem releaseVectors_pending (h : HostSide) : ∀ k < 4, (releaseVectors h).msixPending.getLsbD k
    = (h.msixPending.getLsbD k && vectorMasked (releaseVectors h) k) := by
  intro k hk
  rw [(releaseVectors_frame h).vectorMasked, releaseVectors_eq_foldl, releaseAll_pending]
  simp [hk]

/-! ### The access commands on the words of BAR0 -/

section
variable {s : State} {off : BitVec 26} (ho : barsOpen s.dev = true)
include ho

/-- A read of the word at `a` answers it and clears what it covers. -/
theorem readWord_completes {a w : Nat} {d : Device} (ha : off.toNat = a) (h8 : a % 8 = 0) (hw : bar0Word s.dev a = w)
    (hc : bar0Clear a true true s.dev = d) : Completes (.rcRead (.bar0 off) 8) s fun e => e = d.answer 8 w := by
  subst ha hw hc
  exact rcRead_completes (wfAccess_word h8) (rcRead_word ho h8)

theorem readIgnored_completes {m : Nat} (hm : m < 16) (ha : off.toNat = 0x10000 * m + 0x1018) :
    Completes (.rcRead (.bar0 off) 8) s fun d =>
      d = (s.dev.setMb m { s.dev.mb m with ignored := 0 }).answer 8 (s.dev.mb m).ignored.toNat :=
  readWord_completes ho ha (by omega) (bar0Word_mailbox s.dev hm (by decide))
    (by rw [bar0Clear_mailbox _ _ _ hm, clearHalves_both])

theorem readBar2Counts_completes (ha : off.toNat = 0x300028) : Completes (.rcRead (.bar0 off) 8) s fun d =>
    d = ({ s.dev with host := { s.dev.host with bar2Reads := 0, bar2Writes := 0 } } : Device).answer 8
      (s.dev.host.bar2Reads.toNat + (s.dev.host.bar2Writes.toNat <<< 32)) :=
  readWord_completes ho ha (by decide) (bar0Word_strapBlock s.dev (o := 0x28) (by decide)) (bar0Clear_bar2 ..)

theorem readResetStatus_completes (ha : off.toNat = 0x300030) : Completes (.rcRead (.bar0 off) 8) s fun d =>
    d = ({ s.dev with boot := { s.dev.boot with perstCount := 0, flrCount := 0, warmCount := 0 } } : Device).answer 8
      (resetWord s.dev) :=
  readWord_completes ho ha (by decide) (bar0Word_strapBlock s.dev (o := 0x30) (by decide)) (bar0Clear_resets _)

theorem readStrapBlock_completes {o : Nat} (ha : off.toNat = 0x300000 + o) (h8 : o % 8 = 0) (hlt : o < 0x28) :
    Completes (.rcRead (.bar0 off) 8) s fun d => d = s.dev.answer 8 (strapBlockWord s.dev o) :=
  readWord_completes ho ha (by omega) (bar0Word_strapBlock s.dev (by omega)) (bar0Clear_strapBlock s.dev _ _ hlt)

theorem readIngest_completes {n o : Nat} (hn : n < 8) (ha : off.toNat = 0x200000 + 0x20000 * n + o) (h8 : o % 8 = 0)
    (hlt : o < 0x10018) : Completes (.rcRead (.bar0 off) 8) s fun d =>
      d = s.dev.answer 8 (ingestWord (Tab.getD s.dev.host.ingest n {}) o) :=
  readWord_completes ho ha (by omega) (bar0Word_ingest s.dev hn (by omega)) (bar0Clear_ingest s.dev _ _ hn hlt)

theorem readPackets_completes {n : Nat} (hn : n < 8) (ha : off.toNat = 0x210018 + 0x20000 * n) :
    Completes (.rcRead (.bar0 off) 8) s fun d =>
      d = (updIngest n (fun w => { w with packets := 0 }) s.dev).answer 8 (Tab.getD s.dev.host.ingest n {}).packets.toNat :=
  readWord_completes ho (ha.trans (by omega)) (by omega) (bar0Word_ingest s.dev (o := 0x10018) hn (by decide))
    (by rw [show 0x200000 + 0x20000 * n + 0x10018 = 0x210018 + 0x20000 * n by omega, bar0Clear_packets _ _ _ hn]
        simp only [clearHalves_both])

theorem readLate_completes {n : Nat} (hn : n < 8) (ha : off.toNat = 0x210020 + 0x20000 * n) :
    Completes (.rcRead (.bar0 off) 8) s fun d =>
      d = (updIngest n (fun w => { w with late := 0 }) s.dev).answer 8 (Tab.getD s.dev.host.ingest n {}).late.toNat :=
  readWord_completes ho (ha.trans (by omega)) (by omega) (bar0Word_ingest s.dev (o := 0x10020) hn (by decide))
    (by rw [show 0x200000 + 0x20000 * n + 0x10020 = 0x210020 + 0x20000 * n by omega, bar0Clear_late _ _ _ hn]
        simp only [clearHalves_both])

/-- The words of the mailboxes other than the clearing counters, and those of the mirror. -/
theorem readPlain_completes {a : Nat} (ha : off.toNat = a) (h8 : a % 8 = 0) (hlt : a < 0x110000) (hc : a % 0x10000 ≠ 0x1018) :
    Completes (.rcRead (.bar0 off) 8) s fun d => d = s.dev.answer 8 (bar0Word s.dev a % 2 ^ 64) := by
  rw [show 2 ^ 64 = 2 ^ (8 * 8) from rfl, Device.answer_mod]
  exact readWord_completes ho ha h8 rfl (bar0Clear_of_lt s.dev _ _ (by omega) hc)

theorem readBar2Reads_completes (ha : off.toNat = 0x300028) : Completes (.rcRead (.bar0 off) 4) s fun d =>
    d = ({ s.dev with host := { s.dev.host with bar2Reads := 0 } } : Device).answer 4 s.dev.host.bar2Reads.toNat := by
  have hlow : strapBlockWord s.dev 0x28 % 2 ^ (8 * 4) = s.dev.host.bar2Reads.toNat :=
    toNat_add_shiftLeft_mod s.dev.host.bar2Reads s.dev.host.bar2Writes.toNat
  refine rcRead_completes (by simp [wfRegister, wfAccess, ha]) ?_
  calc rcRead off.toNat 4 s.dev = (bar0Clear 0x300028 true false s.dev).answer 4 (bar0Word s.dev 0x300028) := by
        rw [ha, rcRead_low ho (by decide)]
    _ = (bar0Clear 0x300028 true false s.dev).answer 4 s.dev.host.bar2Reads.toNat := by
        rw [bar0Word_strapBlock s.dev (o := 0x28) (by decide), ← Device.answer_mod, hlow]
    _ = _ := by rw [bar0Clear_bar2]; rfl

theorem writeIngestStatus_completes {n : Nat} {v : BitVec 512} (hn : n < 8) (ha : off.toNat = 0x210000 + 0x20000 * n) :
    Completes (.registerWrite (.bar0 off) 8 v) s fun d =>
      d = if v.getLsbD 2 then updIngest n (fun w => { w with overrun := false }) s.dev else s.dev := by
  refine registerWrite_completes (wfAccess_word (by omega)) ?_
  rw [hostWrite, ha, registerWrite_ingestStatus ho hn, bitOf_lowBits v (by decide)]

theorem writeIngestCfg_completes {n : Nat} {v : BitVec 512} (hn : n < 8) (ha : off.toNat = 0x210010 + 0x20000 * n) :
    Completes (.registerWrite (.bar0 off) 8 v) s fun d =>
      d = updIngest n (fun w => { w with threshold := v.setWidth 8 }) s.dev := by
  refine registerWrite_completes (wfAccess_word (by omega)) ?_
  rw [hostWrite, ha, registerWrite_ingestCfg ho hn, ofNat_lowBits v (by decide)]

theorem writeIrqCause_completes {v : BitVec 512} (ha : off.toNat = 0x300018) :
    Completes (.registerWrite (.bar0 off) 8 v) s fun d =>
      d = { s.dev with host := { s.dev.host with irqCause := s.dev.host.irqCause &&& ~~~ v.setWidth 4 } } := by
  refine registerWrite_completes (wfAccess_word (by omega)) ?_
  rw [hostWrite, ha, registerWrite_irqCause ho, ofNat_lowBits v (by decide)]

theorem writeBar2Base_completes {v : BitVec 512} (ha : off.toNat = 0x300020) (hp : 0 < s.dev.host.bar2Pages) :
    Completes (.registerWrite (.bar0 off) 8 v) s fun d =>
      d = { s.dev with host := { s.dev.host with bar2Base := d.host.bar2Base } }
        ∧ d.host.bar2Base.toNat % s.dev.host.bar2Pages = 0 ∧ d.host.bar2Base.toNat ≤ v.toNat % 2 ^ 24
        ∧ v.toNat % 2 ^ 24 < d.host.bar2Base.toNat + s.dev.host.bar2Pages := by
  have hv : bitsOf (v.toNat % 2 ^ (8 * 8)) 0 24 = v.toNat % 2 ^ 24 := Nat.mod_mod_of_dvd _ (by decide)
  refine registerWrite_completes (wfAccess_word (by omega)) ?_
  rw [hostWrite, ha, registerWrite_bar2Base ho, hv]
  refine ⟨rfl, ?_⟩
  rw [toNat_alignDown (Nat.mod_lt _ (by decide))]
  exact ⟨Nat.mul_mod_left .., Nat.div_mul_le_self .., Nat.lt_div_mul_add hp⟩

theorem writeArea_completes {len : Nat} {v : BitVec 512} (hw : (Instr.registerWrite (.bar0 off) len v).wf = true)
    (ha : off.toNat < 0x100000) (harea : off.toNat % 0x10000 < 0x1000) : Completes (.registerWrite (.bar0 off) len v) s fun d =>
      d = s.dev.setMb (off.toNat / 0x10000) { s.dev.mb (off.toNat / 0x10000) with
        area := Ram.blit (s.dev.mb (off.toNat / 0x10000)).area (off.toNat % 0x10000) len (v.toNat % 2 ^ (8 * len)) } :=
  registerWrite_completes hw (registerWrite_area ho ha harea)

theorem writeMsixTable_completes {len : Nat} {v : BitVec 512} (hw : (Instr.registerWrite (.bar0 off) len v).wf = true)
    (hlo : 0x310000 ≤ off.toNat) (hhi : off.toNat < 0x310040) : Completes (.registerWrite (.bar0 off) len v) s fun d =>
      d = { s.dev with host := { s.dev.host with
          msixTable := Ram.blit s.dev.host.msixTable (off.toNat - 0x310000) len (v.toNat % 2 ^ (8 * len))
          msixPending := d.host.msixPending, sent := d.host.sent } }
        ∧ ∀ k < 4, d.host.msixPending.getLsbD k = (s.dev.host.msixPending.getLsbD k && vectorMasked d.host k) := by
  refine registerWrite_completes hw ?_
  rw [hostWrite, registerWrite_msixTable ho hlo hhi]
  refine ⟨?_, releaseVectors_pending _⟩
  exact congrArg (fun h => { s.dev with host := h }) (releaseVectors_frame _)
end

/-! ### Configuration space -/

section
variable {d : Device} {v : Nat} (ho : configOpen d = true)
include ho

theorem configWrite_bar2Size (hlo : 10 ≤ v) (hhi : v ≤ 20) : configWrite .bar2Size v d = { d with host := { d.host with
    bar2Pages := 2 ^ (v + 4), bar2Base := BitVec.ofNat 24 (d.host.bar2Base.toNat / 2 ^ (v + 4) * 2 ^ (v + 4)) } } := by
  have hn : 2 ^ (v + 4) = 16 * 2 ^ v := by rw [Nat.pow_add, Nat.mul_comm]
  rw [configWrite, ho, if_neg (by decide), if_pos (by simp [hlo, hhi]), hn]

theorem configWrite_msixControl : configWrite .msixControl v d
    = { d with host := releaseVectors { d.host with msixMask := bitOf v 14, msixEnabled := bitOf v 15 } } := by
  rw [configWrite, ho, if_neg (by decide)]

theorem configWrite_command : configWrite .command v d = { d with host := { d.host with memEnabled := bitOf v 1 } } := by
  rw [configWrite, ho, if_neg (by decide)]

theorem configWrite_deviceControl : configWrite .deviceControl v d = { d with host := { d.host with
    payloadSize := if bitsOf v 5 3 ≤ 2 then bitsOf v 5 3 else d.host.payloadSize
    readSize := if bitsOf v 12 3 ≤ 5 then bitsOf v 12 3 else d.host.readSize } } := by
  rw [configWrite, ho, if_neg (by decide)]
end

section
variable {s : State} {v : BitVec 512} (ho : configOpen s.dev = true)
include ho

theorem readConfig_completes (r : ConfigReg) : Completes (.rcRead (.config r) 4) s fun d =>
    d = { s.dev with host := { s.dev.host with lastRead := natToBytes 4 (configWord s.dev r), poisoned := false } } :=
  rcRead_completes rfl (if_pos ho)

theorem writeBar2Size_completes (hlo : 10 ≤ v.toNat % 2 ^ 32) (hhi : v.toNat % 2 ^ 32 ≤ 20) :
    Completes (.registerWrite (.config .bar2Size) 4 v) s fun d =>
      d = { s.dev with host := { s.dev.host with bar2Pages := 2 ^ (v.toNat % 2 ^ 32 + 4), bar2Base := d.host.bar2Base } }
        ∧ d.host.bar2Base.toNat % 2 ^ (v.toNat % 2 ^ 32 + 4) = 0 := by
  refine registerWrite_completes rfl ?_
  rw [hostWrite, configWrite_bar2Size ho hlo hhi]
  refine ⟨rfl, ?_⟩
  rw [toNat_alignDown s.dev.host.bar2Base.isLt]
  exact Nat.mul_mod_left ..

theorem writeMsixControl_completes : Completes (.registerWrite (.config .msixControl) 4 v) s fun d =>
    d.host.msixEnabled = v.getLsbD 15 ∧ d.host.msixMask = v.getLsbD 14
      ∧ ∀ k < 4, d.host.msixPending.getLsbD k = (s.dev.host.msixPending.getLsbD k && vectorMasked d.host k) := by
  refine registerWrite_completes rfl ?_
  rw [hostWrite, configWrite_msixControl ho, bitOf_lowBits v (by decide), bitOf_lowBits v (by decide)]
  have hframe := releaseVectors_frame { s.dev.host with msixMask := v.getLsbD 14, msixEnabled := v.getLsbD 15 }
  exact ⟨congrArg HostSide.msixEnabled hframe, congrArg HostSide.msixMask hframe, releaseVectors_pending _⟩

theorem writeCommand_completes : Completes (.registerWrite (.config .command) 4 v) s fun d =>
    d = { s.dev with host := { s.dev.host with memEnabled := v.getLsbD 1 } }
      ∧ (s.dev.host.d3 = false → barsOpen d = v.getLsbD 1) := by
  refine registerWrite_completes rfl ?_
  rw [hostWrite, configWrite_command ho, bitOf_lowBits v (by decide)]
  refine ⟨rfl, fun hd => ?_⟩
  obtain ⟨hpower, hperst⟩ := Bool.and_eq_true_iff.mp ho
  simp only [barsOpen, hpower, hperst, hd, Bool.true_and, Bool.not_false, Bool.and_true]

theorem writeDeviceControl_completes : Completes (.registerWrite (.config .deviceControl) 4 v) s fun d =>
    d = { s.dev with host := { s.dev.host with
      payloadSize := if v.toNat / 2 ^ 5 % 8 ≤ 2 then v.toNat / 2 ^ 5 % 8 else s.dev.host.payloadSize
      readSize := if v.toNat / 2 ^ 12 % 8 ≤ 5 then v.toNat / 2 ^ 12 % 8 else s.dev.host.readSize } } := by
  refine registerWrite_completes rfl ?_
  rw [hostWrite, configWrite_deviceControl ho, bitsOf_lowBits _ (by decide), bitsOf_lowBits _ (by decide)]
  rfl
end

/-- The identity word is read-only, open or not. -/
theorem writeIdentity_completes (s : State) (v : BitVec 512) :
    Completes (.registerWrite (.config .identity) 4 v) s fun d => d = s.dev :=
  registerWrite_completes rfl (ite_self _)

/-! ### The obligations -/

/-- Settles O58: a step other than a power-on keeps the straps (`step_keeps`), the power-on latches them, and the first word of
the strap block reads them. -/
theorem strapsAreLatched : Obligations.StrapsAreLatched := fun s _ =>
  ⟨fun hp h => (step_keeps hp h).straps, fun _ _ _ _ _ _ hd hlo hhi => ⟨_, rfl, powerOn_straps hd hlo hhi⟩, fun ho => by
    obtain ⟨d, hd, hread⟩ := readStrapBlock_completes (off := 0x300000) (o := 0) ho rfl rfl (by decide)
    exact ⟨d, hd, by rw [hread]; rfl⟩⟩

/-- Settles O30: every clause is the read or the write of one word, each a lemma above on the access commands; an access outside
R14 fails the check that `exec` makes of its operands. -/
theorem registersAnswer : Obligations.RegistersAnswer := by
  intro s off len v a h answered
  refine ⟨fun ho => ⟨fun _ h8 => ⟨fun m ha => readIgnored_completes ho m.isLt ha, readBar2Counts_completes ho,
      readResetStatus_completes ho, ?_, fun n => ?_,
      fun hlt hc => readPlain_completes ho rfl h8 hlt hc⟩,
    fun _ ha => readBar2Reads_completes ho ha, writeArea_completes ho, writeIrqCause_completes ho,
    writeBar2Base_completes ho, fun hw hlo hhi _ => writeMsixTable_completes ho hw hlo hhi⟩,
    fun ho r => ⟨readConfig_completes ho r, writeBar2Size_completes ho, writeMsixControl_completes ho,
      writeCommand_completes ho, writeDeviceControl_completes ho, writeIdentity_completes s v⟩,
    fun reg => ⟨exec_of_not_wf s _, exec_of_not_wf s _⟩⟩
  · rintro ⟨o, w⟩ hrow ha
    have hword : o % 8 = 0 ∧ o < 0x28 ∧ strapBlockWord s.dev o = w := by
      simp only [List.mem_cons, Prod.mk.injEq, List.not_mem_nil, or_false] at hrow
      obtain ⟨rfl, rfl⟩ | ⟨rfl, rfl⟩ | ⟨rfl, rfl⟩ | ⟨rfl, rfl⟩ | ⟨rfl, rfl⟩ := hrow <;> exact ⟨rfl, by decide, rfl⟩
    obtain ⟨ho8, hlt, rfl⟩ := hword
    exact readStrapBlock_completes ho ha ho8 hlt
  · exact ⟨fun ha => readIngest_completes (o := 0x10000) ho n.isLt (ha.trans (by omega)) rfl (by decide),
      fun ha => readIngest_completes (o := 0x10010) ho n.isLt (ha.trans (by omega)) rfl (by decide),
      readPackets_completes ho n.isLt, readLate_completes ho n.isLt, writeIngestStatus_completes ho n.isLt,
      writeIngestCfg_completes ho n.isLt⟩

end Sys2Proof.Machine
end

section
/-!
PROOFS. The packet network: which flit a link carries in a turn, where a flit may join, and what a hitch stores and gives
(R39, R40, R87, R94 to R96, R538).
-/
namespace Sys2Proof.Machine
open Sys2Proof.Safety

/-! ### The turn of a link (R40) -/

theorem turnOwner_lt (turn : Nat) : turnOwner turn < 4 := by
  unfold turnOwner
  split <;> decide

theorem netReady_of_waiting {n : NetLink} {vc : Nat} {f : BitVec 512} {rest : List (BitVec 512)}
    (hq : Tab.getD n.queues vc [] = f :: rest) (hc : 0 < Tab.getD n.credits vc 0) : netReady n vc = true := by
  simp [netReady, hq, hc]

theorem netReady_of_no_credit {n : NetLink} {vc : Nat} (hc : Tab.getD n.credits vc 0 = 0) : netReady n vc = false := by
  simp [netReady, hc]

/-- The turn's own channel goes first, and else the first channel that may send. -/
theorem netPick_eq_some {n : NetLink} {vc : Nat} (hv : vc < 4) (hr : netReady n vc = true)
    (hfirst : vc = turnOwner n.turn ∨ (netReady n (turnOwner n.turn) = false ∧ ∀ k < vc, netReady n k = false)) :
    netPick n = some vc := by
  rcases hfirst with rfl | ⟨howner, hbelow⟩
  · exact if_pos hr
  · rw [netPick, howner, if_neg Bool.false_ne_true]
    refine (List.find?_range_eq_some (n := 4)).mpr ⟨hr, List.mem_range.mpr hv, fun k hk => ?_⟩
    rw [hbelow k hk]
    rfl

theorem netPick_eq_none {n : NetLink} (hn : ∀ vc < 4, netReady n vc = false) : netPick n = none := by
  rw [netPick, hn _ (turnOwner_lt _), if_neg Bool.false_ne_true]
  exact (List.find?_range_eq_none (n := 4)).mpr fun k hk => by rw [hn k hk]; rfl

theorem packetTurn_turn (arrive : Option (Traffic × BitVec 512)) (credit : BitVec 4) (n : NetLink) :
    (packetTurn arrive credit n).turn = (n.turn + 1) % 8 := by
  cases arrive <;> rfl

/-- The oldest flit of the channel that the turn serves crosses, for one credit. -/
theorem packetTurn_carries {n : NetLink} {vc : Nat} {f : BitVec 512} {rest : List (BitVec 512)} (hp : netPick n = some vc)
    (hq : Tab.getD n.queues vc [] = f :: rest) :
    packetTurn none 0 n = { queues := Tab.set n.queues vc rest, credits := Tab.set n.credits vc (Tab.getD n.credits vc 0 - 1)
                            turn := (n.turn + 1) % 8, last := some (vc, f) } := by
  simp [packetTurn, hp, hq]

theorem packetTurn_idle {n : NetLink} (hp : netPick n = none) : packetTurn none 0 n = { n with turn := (n.turn + 1) % 8 } := by
  simp [packetTurn, hp]

/-- A flit that arrives joins the queue of its class before the turn is served. -/
theorem packetTurn_arrive (t : Traffic) (f : BitVec 512) (n : NetLink) :
    packetTurn (some (t, f)) 0 n = packetTurn none 0 (n.arrive t f) := rfl

/-- One flit of a waiting channel crosses; the other channels keep what they hold. -/
theorem packetTurn_serves {n : NetLink} {vc : Nat} {f : BitVec 512} {rest : List (BitVec 512)} (hv : vc < 4)
    (hq : Tab.getD n.queues vc [] = f :: rest) (hc : 0 < Tab.getD n.credits vc 0)
    (hfirst : vc = turnOwner n.turn ∨ (netReady n (turnOwner n.turn) = false ∧ ∀ k < vc, netReady n k = false)) :
    let m := packetTurn none 0 n
    m.last = some (vc, f) ∧ Tab.getD m.queues vc [] = rest ∧ Tab.getD m.credits vc 0 + 1 = Tab.getD n.credits vc 0
      ∧ ∀ k, k ≠ vc → Tab.getD m.queues k [] = Tab.getD n.queues k [] ∧ Tab.getD m.credits k 0 = Tab.getD n.credits k 0 := by
  rw [packetTurn_carries (netPick_eq_some hv (netReady_of_waiting hq hc) hfirst) hq]
  refine ⟨rfl, Tab.getD_set_same .., ?_, fun k hk => ⟨Tab.getD_set_ne _ _ _ hk, Tab.getD_set_ne _ _ _ hk⟩⟩
  rw [Tab.getD_set_same]
  omega

/-- On a link without credit a flit that arrives only waits. -/
theorem packetTurn_waits {n : NetLink} {t : Traffic} {f : BitVec 512} (hc : ∀ vc < 4, Tab.getD n.credits vc 0 = 0) :
    packetTurn (some (t, f)) 0 n = { n.arrive t f with turn := (n.turn + 1) % 8 } := by
  have hpick : netPick (n.arrive t f) = none := netPick_eq_none fun vc hv => netReady_of_no_credit (hc vc hv)
  rw [packetTurn_arrive, packetTurn_idle hpick]
  rfl

/-! ### Where a flit may join, and links that stand still (R39, R538) -/

theorem flitTurn_dark {l : Nat} {arrive : Option (Traffic × BitVec 512)} {credit : BitVec 4} {ends : Option (Fin 4 × Fin 4)}
    {d : Device} (h : linkDark d.power.quadrantOff l = true) : flitTurn l arrive credit ends d = d :=
  if_pos h

/-- The turn of a link that is on changes that link alone. -/
theorem flitTurn_on {l : Nat} {arrive : Option (Traffic × BitVec 512)} {credit : BitVec 4} {d : Device}
    (h : linkDark d.power.quadrantOff l = false) : flitTurn l arrive credit none d
      = { d with netLinks := Tab.set d.netLinks l (packetTurn arrive credit (Tab.getD d.netLinks l {})) } := by
  rw [flitTurn, if_neg (by simp [h])]
  rfl

/-- A flit whose route does not lead over a link does not join it. -/
theorem flitTurn_off_route {l : Nat} {arrive : Option (Traffic × BitVec 512)} {credit : BitVec 4} {a b : Fin 4} {d : Device}
    (h : onRoute (routeQuads d.power.quadrantOff a.val b.val) l = false) :
    flitTurn l arrive credit (some (a, b)) d = flitTurn l none credit none d := by
  simp [flitTurn, h]

/-- What a route crosses between its ends is the hub die or a quadrant that is on. -/
theorem routeQuads_between {off : BitVec 4} {a b q : Nat} (hq : q ∈ routeQuads off a b) (ha : q ≠ a) (hb : q ≠ b) :
    q = 4 ∨ off.getLsbD q = false := by
  simp only [routeQuads] at hq
  split at hq
  next => exact .inl (by simpa [ha, hb] using hq)
  next hon =>
    split at hq
    next => simp [ha, hb] at hq
    next =>
      obtain rfl : q = 2 * (b / 2) + a % 2 := by simpa [ha, hb] using hq
      simp only [Bool.or_eq_true, not_or, Bool.not_eq_true] at hon
      exact .inr hon.2

/-! ### A hitch towards the hub (R87, R94, R96) -/

theorem Hitch.giveHub_asked (h : Hitch) : h.giveHub.asked = h.asked := by
  unfold Hitch.giveHub
  split <;> rfl

theorem Hitch.giveHub_of_ne_nil {h : Hitch} (hn : h.toHub ≠ []) : h.giveHub
    = { h with toHub := h.toHub.tail, lastHub := h.toHub.head?, toHubCount := h.toHubCount + 1 } := by
  obtain ⟨f, rest, hf⟩ := List.exists_cons_of_ne_nil hn
  simp [Hitch.giveHub, hf]

theorem Hitch.storeHub_asked_plain {h : Hitch} {f : HubFlit} (hf : f.req = none) : (h.storeHub f).asked = h.asked := by
  simp [Hitch.storeHub, hf]

theorem Hitch.storeHub_asked_request {h : Hitch} {f : HubFlit} {k e : Fin 64} (hf : f.req = some (k, e)) :
    (h.storeHub f).asked = Tab.set h.asked k.val (Tab.getD h.asked k.val [] ++ [e]) := by
  simp [Hitch.storeHub, hf]

/-- The hitch after a flit that it has room for: stored, and the oldest one given where the hub is ready. -/
def Hitch.passHub (h : Hitch) (f : HubFlit) (ready : Bool) : Hitch :=
  if ready then (h.storeHub f).giveHub else h.storeHub f

theorem Hitch.passHub_asked (h : Hitch) (f : HubFlit) (ready : Bool) : (h.passHub f ready).asked = (h.storeHub f).asked := by
  cases ready
  · rfl
  · exact giveHub_asked _

theorem Hitch.passHub_ready (h : Hitch) (f : HubFlit) : (h.passHub f true).lastHub = (h.toHub ++ [f.bits]).head?
    ∧ (h.passHub f true).toHub = (h.toHub ++ [f.bits]).tail ∧ (h.passHub f true).toHubCount = h.toHubCount + 1 := by
  have hn : (h.storeHub f).toHub ≠ [] := by simp [storeHub]
  rw [passHub, if_pos rfl, giveHub_of_ne_nil hn]
  exact ⟨rfl, rfl, rfl⟩

theorem hitchToHub_plain {q vc : Nat} {f : HubFlit} {ready : Bool} {d : Device}
    (hf : (Tab.getD d.hitches (4 * q + vc) {}).takesHub vc f = true) (ht : f.token = none) :
    hitchToHub q vc (some f) ready d = updHitch q vc (fun h => h.passHub f ready) d := by
  simp only [hitchToHub, hf, if_true, ht]
  rfl

theorem hitchToHub_token {q vc : Nat} {f : HubFlit} {ready : Bool} {d : Device} {c : Fin 4}
    (hf : (Tab.getD d.hitches (4 * q + vc) {}).takesHub vc f = true) (ht : f.token = some c) :
    hitchToHub q vc (some f) ready d = resetIdle (4 * q + c.val) (updHitch q vc (fun h => h.passHub f ready) d) := by
  simp only [hitchToHub, hf, if_true, ht]
  rfl

theorem resetIdle_watchdogAtZero (c : Nat) {d e : Device} (h : e.cores = d.cores) : WatchdogAtZero c d (resetIdle c e) := by
  intro hi
  have hcore : e.core c = d.core c := congrArg (fun t : Tab Core => Tab.getD t c {}) h
  rw [resetIdle_core, if_pos ⟨rfl, by rwa [hcore]⟩]

/-- What the hitch becomes, and that a token that leaves so restarts its core's watchdog (R87). -/
theorem hitchToHub_spec {q vc : Nat} {f : HubFlit} {ready : Bool} {d : Device}
    (hf : (Tab.getD d.hitches (4 * q + vc) {}).takesHub vc f = true) :
    let e := hitchToHub q vc (some f) ready d
    e = { d with hitches := Tab.set d.hitches (4 * q + vc) ((Tab.getD d.hitches (4 * q + vc) {}).passHub f ready), cores := e.cores }
      ∧ (f.token = none → e.cores = d.cores) ∧ (∀ c, f.token = some c → WatchdogAtZero (4 * q + c.val) d e) := by
  cases ht : f.token with
  | none =>
    rw [hitchToHub_plain hf ht]
    exact ⟨rfl, fun _ => rfl, nofun⟩
  | some c =>
    rw [hitchToHub_token hf ht]
    exact ⟨rfl, nofun, fun _ h => Option.some.inj h ▸ resetIdle_watchdogAtZero _ rfl⟩

/-! ### A hitch towards the fabric (R95, R96) -/

theorem findIdx?_append_cons {α : Type} {p : α → Bool} {pre post : List α} {x : α} (hpre : ∀ y ∈ pre, p y = false)
    (hx : p x = true) : (pre ++ x :: post).findIdx? p = some pre.length := by
  simp [List.findIdx?_append, List.findIdx?_cons, List.findIdx?_eq_none_iff.mpr hpre, hx]

/-- Where the oldest flit is of a far-tier response, its queue's next response is looked for. -/
theorem Hitch.nextFabric_turn {h : Hitch} {k old e : Fin 64} {more : List (Fin 64)}
    (hhead : h.toFabric.head?.map (·.resp) = some (some (k, old))) (hp : h.packet = none)
    (ha : Tab.getD h.asked k.val [] = e :: more) :
    h.nextFabric = h.toFabric.findIdx? (fun g => g.resp = some (k, e)) := by
  obtain ⟨f, hf, hresp⟩ := Option.map_eq_some_iff.mp hhead
  obtain ⟨rest, hl⟩ := List.head?_eq_some_iff.mp hf
  simp [nextFabric, hp, hl, hresp, ha]

section
variable {h : Hitch} {pre post : List FabricFlit} {f : FabricFlit} (hl : h.toFabric = pre ++ f :: post)
include hl

/-- The first flit of a packet or response, by its key, in the order of arrival. -/
theorem Hitch.findIdx?_resp (hpre : ∀ g ∈ pre, g.resp ≠ f.resp) :
    h.toFabric.findIdx? (fun g => g.resp = f.resp) = some pre.length := by
  rw [hl]
  exact findIdx?_append_cons (fun g hg => decide_eq_false (hpre g hg)) (decide_eq_true rfl)

theorem Hitch.nextFabric_packet (hpre : ∀ g ∈ pre, g.resp ≠ f.resp) (hp : h.packet = some f.resp) :
    h.nextFabric = some pre.length := by
  rw [nextFabric, hp]
  exact findIdx?_resp hl hpre

theorem Hitch.nextFabric_plain (hpre : pre = []) (hp : h.packet = none) (hf : f.resp = none) : h.nextFabric = some pre.length := by
  subst hpre
  simp [nextFabric, hp, hl, hf]

theorem Hitch.nextFabric_response {k e old : Fin 64} {more : List (Fin 64)} (hpre : ∀ g ∈ pre, g.resp ≠ f.resp)
    (hp : h.packet = none) (hhead : (pre ++ [f]).head?.map (·.resp) = some (some (k, old)))
    (ha : Tab.getD h.asked k.val [] = e :: more) (hf : f.resp = some (k, e)) : h.nextFabric = some pre.length := by
  have hhead' : h.toFabric.head?.map (·.resp) = some (some (k, old)) := by
    rw [hl, ← hhead]
    cases pre <;> rfl
  rw [nextFabric_turn hhead' hp ha, ← hf]
  exact findIdx?_resp hl hpre

/-- The fabric takes the flit after `pre`. -/
theorem Hitch.giveFabric_at : h.giveFabric pre.length = { h with
    toFabric := pre ++ post, lastFabric := some f, toFabricCount := h.toFabricCount + 1
    packet := if f.last then none else some f.resp, asked := (h.giveFabric pre.length).asked } := by
  simp [giveFabric, hl, List.eraseIdx_append_of_length_le (Nat.le_refl _)]

/-- The last flit of a response ends its turn in its queue; another one leaves the queue as it is. -/
theorem Hitch.giveFabric_asked {k e : Fin 64} {more : List (Fin 64)} (hf : f.resp = some (k, e))
    (ha : Tab.getD h.asked k.val [] = e :: more) :
    Tab.getD (h.giveFabric pre.length).asked k.val [] = if f.last then more else e :: more := by
  cases hlast : f.last <;> simp [giveFabric, hl, hf, hlast, ha]
end

/-- An early response waits while its queue's next one has not come. -/
theorem Hitch.nextFabric_early {h : Hitch} {f : FabricFlit} {rest : List FabricFlit} {k old e : Fin 64} {more : List (Fin 64)}
    (hl : h.toFabric = f :: rest) (hf : f.resp = some (k, old)) (hp : h.packet = none)
    (ha : Tab.getD h.asked k.val [] = e :: more) (hn : ∀ g ∈ h.toFabric, g.resp ≠ some (k, e)) : h.nextFabric = none := by
  rw [nextFabric_turn (old := old) (by simp [hl, hf]) hp ha]
  exact List.findIdx?_eq_none_iff.mpr fun g hg => decide_eq_false (hn g hg)

theorem hitchToFabric_gives {vc i : Nat} {h : Hitch} (hi : h.nextFabric = some i) :
    hitchToFabric vc none true h = h.giveFabric i := by
  simp only [hitchToFabric, hi]

theorem hitchToFabric_waits {vc : Nat} {h : Hitch} (hi : h.nextFabric = none) : hitchToFabric vc none true h = h := by
  simp only [hitchToFabric, hi]

theorem hitchToFabric_stores {vc : Nat} {h : Hitch} {f : FabricFlit} (hc : trafficChannel f.cls = vc)
    (hr : h.toFabric.length < 32) :
    hitchToFabric vc (some f) false h = { h with toFabric := h.toFabric ++ [f] } := by
  simp [hitchToFabric, hc, hr]

/-! ### The commands, and the obligation -/

section
variable {s : State}

theorem packetFlitTurn_completes {link : Fin 64} {arrive : Option (Traffic × BitVec 512)} {credit : BitVec 4} {P : Device → Prop}
    (hon : linkDark s.dev.power.quadrantOff link.val = false)
    (hp : P { s.dev with
      netLinks := Tab.set s.dev.netLinks link.val (packetTurn arrive credit (Tab.getD s.dev.netLinks link.val {})) }) :
    Completes (.packetFlitTurn link arrive credit) s P :=
  ⟨_, rfl, flitTurn_on hon ▸ hp⟩

theorem hitchFlitToFabric_completes {q vc : Fin 4} {arrive : Option PlainFlit} {resp : Option (Fin 64 × Fin 64)} {credit : Bool}
    {g : Hitch} {P : Device → Prop}
    (hg : hitchToFabric vc.val (arrive.map (fun f => ⟨f, resp⟩)) credit (Tab.getD s.dev.hitches (4 * q.val + vc.val) {}) = g)
    (hp : P { s.dev with hitches := Tab.set s.dev.hitches (4 * q.val + vc.val) g }) :
    Completes (.hitchFlitToFabric q vc arrive resp credit) s P := by
  subst hg
  exact ⟨_, rfl, hp⟩
end

/-- Settles O9: the turn of a link by the channel that it picks, the joining of a flit by its route, and the two sides of a hitch
by what they store and by the place of the flit that goes next. -/
theorem packetNetworkTurns : Obligations.PacketNetworkTurns := by
  intro s
  refine ⟨?_, fun link arrive credit a b => ⟨fun hdark => ?_, fun hon hoff d hd => ?_, fun q hq ha hb => ?_⟩, ?_, ?_⟩
  · intro link arrive credit n hon
    refine packetFlitTurn_completes hon ?_
    simp only [Tab.getD_set_same]
    refine ⟨trivial, packetTurn_turn .., ?_, ?_⟩
    · rintro rfl rfl vc f rest hv hq hc hfirst
      exact packetTurn_serves hv hq hc hfirst
    · rintro t f rfl rfl hc
      exact packetTurn_waits hc
  · exact ⟨_, rfl, flitTurn_dark hdark⟩
  · cases hd
    exact ⟨_, rfl, flitTurn_off_route hoff⟩
  · exact routeQuads_between hq ha hb
  · intro q vc f ready h hcls hroom
    have htakes : h.takesHub vc.val f = true := by simp [Hitch.takesHub, hcls, hroom]
    obtain ⟨hframe, hplain, htoken⟩ := hitchToHub_spec (ready := ready) htakes
    refine ⟨_, rfl, ?_⟩
    have hg : Tab.getD (hitchToHub q.val vc.val (some f) ready s.dev).hitches (4 * q.val + vc.val) {} = h.passHub f ready := by
      rw [hframe]
      exact Tab.getD_set_same ..
    simp only [hg]
    refine ⟨hframe, hplain, htoken, fun hr => ?_, fun k e hr => ?_, ?_, ?_⟩
    · rw [h.passHub_asked, Hitch.storeHub_asked_plain hr]
    · rw [h.passHub_asked, Hitch.storeHub_asked_request hr]
    · rintro rfl
      exact ⟨rfl, rfl⟩
    · rintro rfl
      exact h.passHub_ready f
  · intro q vc h becomes
    refine ⟨fun f hcls hroom => ?_, fun pre f post hl hpre hdue => ?_, fun f rest k old e more hl hf hp ha hn => ?_⟩
    · exact hitchFlitToFabric_completes (hitchToFabric_stores hcls hroom) rfl
    · have hnext : h.nextFabric = some pre.length := by
        obtain hp | ⟨hp, ⟨hnil, hf⟩ | ⟨k, e, old, more, hhead, ha, hf⟩⟩ := hdue
        · exact Hitch.nextFabric_packet hl hpre hp
        · exact Hitch.nextFabric_plain hl hnil hp hf
        · exact Hitch.nextFabric_response hl hpre hp hhead ha hf
      refine hitchFlitToFabric_completes (hitchToFabric_gives hnext) ?_
      simp only [Tab.getD_set_same]
      refine ⟨?_, fun k e more hf ha => Hitch.giveFabric_asked hl hf ha⟩
      exact congrArg (fun g => { s.dev with hitches := Tab.set s.dev.hitches (4 * q.val + vc.val) g }) (Hitch.giveFabric_at hl)
    · exact hitchFlitToFabric_completes (hitchToFabric_waits (Hitch.nextFabric_early hl hf hp ha hn)) rfl

end Sys2Proof.Machine
end

section
/-!
PROOFS. Suspend and halt: what a core sequencer keeps where it stops, and the control messages left to it (R44, R45, R300,
R352, R427).
-/
namespace Sys2Proof.Machine
open Sys2Proof.Safety

/-! ### The control messages of a core -/

/-- A table whose values change by `f`, keys as they are. -/
theorem Tab.find_map {α β : Type} (f : α → β) (t : Tab α) (k : Nat) :
    Tab.find (t.map (fun e => (e.1, f e.2))) k = (Tab.find t k).map f := by
  induction t with
  | nil => rfl
  | cons e rest ih =>
    simp only [List.map_cons, Tab.find, ih]
    split <;> rfl

theorem Tab.getD_map {α β : Type} (f : α → β) (t : Tab α) (k : Nat) (x : α) :
    Tab.getD (t.map (fun e => (e.1, f e.2))) k (f x) = f (Tab.getD t k x) := by
  rw [Tab.getD, Tab.find_map, Tab.getD, Option.getD_map]

@[simp] theorem Device.ctrl_setCtrl_same (d : Device) (c : Nat) (ms : List CtrlMsg) : (d.setCtrl c ms).ctrl c = ms := by
  rw [Device.ctrl, Device.setCtrl, Device.quad_updQuad, if_pos rfl]
  exact Tab.getD_set_same ..

@[simp] theorem Device.core_setCtrl (d : Device) (c k : Nat) (ms : List CtrlMsg) : (d.setCtrl c ms).core k = d.core k := rfl
@[simp] theorem Device.units_setCtrl (d : Device) (c : Nat) (ms : List CtrlMsg) : (d.setCtrl c ms).units = d.units := rfl

/-- What an abandoned wait leaves of a quadrant supervisor. -/
def Quad.dropWait (c : Nat) (q : Quad) : Quad :=
  { q with waits := q.waits.filter (fun w => w.src != c), ops := q.ops.filter (fun w => !(w.src = c && w.op = 3)) }

theorem dropWait_quad (c k : Nat) (d : Device) : (dropWait c d).quad k = (d.quad k).dropWait c :=
  Tab.getD_map (Quad.dropWait c) d.quads k {}

@[simp] theorem dropWait_ctrl (c k : Nat) (d : Device) : (dropWait c d).ctrl k = d.ctrl k := by
  rw [Device.ctrl, dropWait_quad]
  rfl

@[simp] theorem dropWait_core (c k : Nat) (d : Device) : (dropWait c d).core k = d.core k := rfl

/-- A fold of changes to units changes units alone. -/
theorem updUnit_foldl_frame {α : Type} (u : α → Nat) (f : α → Unit → Unit) (ks : List α) (d : Device) :
    let e := ks.foldl (fun d k => d.updUnit (u k) (f k)) d
    e = { d with units := e.units } := by
  induction ks generalizing d with
  | nil => rfl
  | cons k ks ih => exact ih (d.updUnit (u k) (f k))

theorem abandonUnits_frame (c : Nat) (d : Device) : abandonUnits c d = { d with units := (abandonUnits c d).units } :=
  updUnit_foldl_frame (· / 4) _ _ d

@[simp] theorem abandonUnits_ctrl (c k : Nat) (d : Device) : (abandonUnits c d).ctrl k = d.ctrl k := by
  rw [abandonUnits_frame]
  rfl

/-! ### The stop at a boundary (R300, R352) -/

@[simp] theorem updSeq_ctrl (d : Device) (c k : Nat) (f : Seq → Seq) : (d.updSeq c f).ctrl k = d.ctrl k := rfl
@[simp] theorem updSeq_core (d : Device) (c : Nat) (f : Seq → Seq) :
    (d.updSeq c f).core c = { d.core c with seq := f (d.core c).seq } := Device.core_setCore_same ..

@[simp] theorem stopSeq_ctrl (st : SeqState) (c k : Nat) (d : Device) : (stopSeq st c d).ctrl k = d.ctrl k :=
  dropWait_ctrl c k d
@[simp] theorem stopSeq_units (st : SeqState) (c : Nat) (d : Device) : (stopSeq st c d).units = d.units := rfl

/-- A sequencer that walks stops before its entry; only a semaphore wait is issued again. -/
theorem stopSeq_core {st : SeqState} {c : Nat} {d : Device} (hw : (d.core c).seq.walks = true) :
    (stopSeq st c d).core c = { d.core c with seq := { (d.core c).seq with
      state := st, started := false, waitDone := false
      acted := (d.core c).seq.acted && !decide (ephCode (d.core c).seq.now = 0x03) } } := by
  rw [stopSeq, updSeq_core, dropWait_core, if_pos hw]

/-! ### A suspend, alone and with a resume behind it (R44, R363, R366) -/

theorem takeResume_of_not {c : Nat} {d : Device} (h : (d.ctrl c).head? ≠ some .resume) : takeResume c d = d := if_neg h

theorem takeResume_of_head {c : Nat} {d : Device} {rest : List CtrlMsg} (h : d.ctrl c = .resume :: rest) :
    takeResume c d = (d.setCtrl c rest).updSeq c continueSeq := by
  rw [takeResume, h]
  rfl

theorem continueSeq_suspended {q : Seq} (hs : q.state = .suspended) (he : q.epochStop = false) :
    continueSeq q = { q with state := if q.entry < q.count then .issuing else .finished } := by
  simp [continueSeq, hs, he]

theorem suspendMessage_acts {c : Nat} {d : Device} {rest : List CtrlMsg} (hc : d.ctrl c = .suspend :: rest)
    (hb : atBoundary (d.core c).seq = true) :
    suspendMessage c d = takeResume c (stopSeq .suspended c (d.setCtrl c rest)) := by
  simp [suspendMessage, popCtrl, hc, hb]

/-! ### A halt (R45, R352, R427) -/

theorem haltDue_of_overtaken {ms rest : List CtrlMsg} (h : ∀ m ∈ ms, m.overtaken = true) :
    haltDue (ms ++ .halt :: rest) = true := by
  rw [haltDue, List.dropWhile_append_of_pos h]
  rfl

theorem haltMessage_acts {c : Nat} {d : Device} {ms rest : List CtrlMsg} (hms : ∀ m ∈ ms, m.overtaken = true)
    (hc : d.ctrl c = ms ++ .halt :: rest) (hb : atBoundary (d.core c).seq = true ∨ (d.core c).seq.state = .waiting) :
    haltMessage c d = haltCore c (stopSeq .halted c (abandonUnits c (d.setCtrl c rest))) := by
  have hrest : ((ms ++ .halt :: rest).dropWhile CtrlMsg.overtaken).tail = rest := by
    rw [List.dropWhile_append_of_pos hms]
    rfl
  simp [haltMessage, hc, haltDue_of_overtaken hms, hb, hrest]

theorem stopSlots_inactive (x : Core) (n : Nat) : (Tab.getD (stopSlots x).slots n {}).active = false := by
  have hfind : Tab.find (stopSlots x).slots n = (Tab.find x.slots n).map stopSlot := Tab.find_map stopSlot x.slots n
  rw [Tab.getD, hfind]
  cases Tab.find x.slots n <;> rfl

/-- A halted core has stopped with its streams, and no load entry waits. -/
theorem haltCore_stops (c : Nat) (d : Device) : ((haltCore c d).core c).seq.state = .halted
    ∧ (∀ n, ((haltCore c d).slot c n).active = false) ∧ ((haltCore c d).core c).loadQ = [] := by
  have hcore : (haltCore c d).core c = stopSlots { d.core c with seq := { (d.core c).seq with state := .halted } } :=
    Device.core_setCore_same ..
  rw [hcore]
  refine ⟨rfl, fun n => ?_, rfl⟩
  rw [Device.slot, hcore]
  exact stopSlots_inactive _ n

@[simp] theorem haltCore_ctrl (c k : Nat) (d : Device) : (haltCore c d).ctrl k = d.ctrl k := rfl

/-! ### The obligation -/

/-- Settles O23: the two messages act at a boundary (`suspendMessage_acts`, `haltMessage_acts`); what the core then holds is read
off the stop, the resume that follows it at once, and the halt. -/
theorem coresStop : Obligations.CoresStop := by
  intro s c rest
  refine ⟨fun hc hnext hb hw => ⟨_, rfl, ?_⟩, fun hc hb hw he => ⟨_, rfl, ?_⟩, fun ms hms hc hb => ⟨_, rfl, ?_⟩⟩
  · have hcore := stopSeq_core (st := .suspended) (d := s.dev.setCtrl c.val rest) hw
    rw [suspendMessage_acts hc hb, takeResume_of_not (by simpa using hnext)]
    simp [hcore]
  · have hcore := stopSeq_core (st := .suspended) (d := s.dev.setCtrl c.val (.resume :: rest)) hw
    rw [suspendMessage_acts hc hb, takeResume_of_head (rest := rest) (by simp)]
    simp [hcore, continueSeq_suspended, he]
  · rw [haltMessage_acts hms hc hb]
    obtain ⟨hstate, hslots, hloads⟩ :=
      haltCore_stops c.val (stopSeq .halted c.val (abandonUnits c.val (s.dev.setCtrl c.val rest)))
    exact ⟨hstate, by simp, hslots, hloads⟩

end Sys2Proof.Machine
end

section
/-!
PROOFS. Words of a compute unit in general: what a capture touches, how a word starts where none is in flight, and how it retires, sends
or stays in flight (R72, R81, R101, R109, R115).
-/
namespace Sys2Proof.Machine
open Sys2Proof.Safety

/-! ### What a capture touches (R109, R111, R116) -/

/-- Tokens that are taken change the lanes alone, however many there are. -/
theorem takeMany_frame (port ctx n : Nat) (x : Unit) :
    (takeMany port ctx n x).2 = { x with lanes := (takeMany port ctx n x).2.lanes } := by
  induction n generalizing x with
  | zero => rfl
  | succ n ih =>
    simp only [takeMany, takeLane]
    cases x.lane port ctx with
    | nil => rfl
    | cons t rest => exact ih _

/-- What is left in the lanes depends on the lanes alone. -/
theorem takeMany_lanes_congr (port ctx n : Nat) {x y : Unit} (h : x.lanes = y.lanes) :
    (takeMany port ctx n x).2.lanes = (takeMany port ctx n y).2.lanes := by
  induction n generalizing x y with
  | zero => exact h
  | succ n ih =>
    have hlane : x.lane port ctx = y.lane port ctx := by rw [Unit.lane, Unit.lane, h]
    simp only [takeMany, takeLane, hlane]
    cases y.lane port ctx with
    | nil => exact h
    | cons t rest => exact ih (by rw [h])

/-- `n` tokens that a lane holds are taken: their list, and the unit that is left. -/
theorem takeMany_eq {port ctx n : Nat} {x : Unit} (h : n ≤ (x.lane port ctx).length) :
    takeMany port ctx n x
      = ((x.lane port ctx).take n, { x with lanes := (takeMany port ctx n x).2.lanes }) :=
  Prod.ext (takeMany_spec port ctx n x h).1 (takeMany_frame port ctx n x)

theorem captureInto_frame (port ctx at_ taken n : Nat) (x : Unit) : ∃ lanes buf,
    (captureInto port ctx at_ taken n x).2 = { x with lanes := lanes, cu := { x.cu with buf := buf } } := by
  simp only [captureInto]
  rw [takeMany_frame]
  exact ⟨_, _, rfl⟩

/-- A capture changes the lanes and the operand buffer of the unit, and of its word the tokens taken. -/
theorem captureOperands_frame (regA regB : Nat) (x : Unit) (f : Flight) : ∃ lanes buf a b,
    captureOperands regA regB x f
      = ({ x with lanes := lanes, cu := { x.cu with buf := buf } }, { f with takenA := a, takenB := b }) := by
  have hport : ∀ (src at_ taken n : Nat) (y : Unit), ∃ lanes buf,
      (if isPort src then captureInto src f.ctx at_ taken n y else (0, y)).2
        = { y with lanes := lanes, cu := { y.cu with buf := buf } } := fun src at_ taken n y => by
    split
    · exact captureInto_frame ..
    · exact ⟨_, _, rfl⟩
  unfold captureOperands
  split
  · obtain ⟨la, ba, ha⟩ := hport (wSrcA f.word) regA f.takenA (needA (Tab.getD x.ctxs f.ctx {}) f.word) x
    obtain ⟨lb, bb, hb⟩ := hport (wSrcB f.word) regB f.takenB (needB (Tab.getD x.ctxs f.ctx {}) f.word)
      { x with lanes := la, cu := { x.cu with buf := ba } }
    refine ⟨lb, bb, _, _, Prod.ext ?_ rfl⟩
    dsimp only
    rw [ha, hb]
  · exact ⟨_, _, _, _, rfl⟩

/-! ### The start of a matrix word (R72, R115) -/

/-- R139: the finished-tile queue has room for the tile of an ACC_EMIT that goes to it. -/
abbrev EmitFits (op : Nat) (x : Unit) (w : BitVec 128) : Prop :=
  op = 0x21 → emitDest w = 2 → (x.cu.ftq.map (fun e => e.units.length)).sum + (emitTile w).units ≤ 32

theorem emitFits_of_dest {op : Nat} {x : Unit} {w : BitVec 128} (h : emitDest w ≠ 2) : EmitFits op x w :=
  fun _ hdest => absurd hdest h

/-- No word in flight: the limits on a start leave only the room in the finished-tile queue. -/
theorem cuMay_of_no_flight {x : Unit} {w : BitVec 128} (hf : x.flight = []) (hv : isVector w = false)
    (hq : EmitFits (wOp w) x w) : cuMay x w = true := by
  simp only [cuMay, hf, hv, List.all_nil, Bool.false_and, Bool.not_false, Bool.true_or, Bool.true_and, Bool.or_eq_true,
    Bool.not_eq_true', Bool.and_eq_false_iff, decide_eq_true_eq, decide_eq_false_iff_not]
  by_cases hop : wOp w = 0x21
  · by_cases hd : emitDest w = 2
    · exact .inr (hq hop hd)
    · exact .inl (.inr hd)
  · exact .inl (.inl hop)

/-- A matrix word that may start does so alone: it goes on as far as it can, and settles. -/
theorem runWord_matrix {op u : Nat} {d : Device} {init : Core → Unit → Flight → Flight} (adv : Advance) (h : Ready d u op)
    (hop : op < 0x60) (hq : EmitFits op (d.unit u) (nextWord (d.unit u))) :
    runWord op (fun _ x w => cuMay x w) init adv u d
      = settleFlight u 0 (adv d u (startUnit d u init) (startOf d u init)).1
          (adv d u (startUnit d u init) (startOf d u init)).2 d := by
  obtain ⟨_, _, hw, _, _, hflight⟩ := id h
  refine runWord_start h (cuMay_of_no_flight hflight ?_ (hw ▸ hq))
  simp only [isVector, hw, Bool.and_eq_false_iff, decide_eq_false_iff_not]
  omega

/-- A word that is the only one in flight has none before it. -/
theorem earlier_alone {x : Unit} {f : Flight} (h : x.flight = [f]) : earlier x f = [] := by simp [earlier, h]

theorem mayCapture_alone {x : Unit} {f : Flight} (h : x.flight = [f]) : mayCapture x f = true := by
  rw [mayCapture, earlier_alone h]
  rfl

theorem mayCompute_alone {x : Unit} {f : Flight} (h : x.flight = [f]) : mayCompute x f = true := by
  rw [mayCompute, earlier_alone h]
  rfl

/-- A word that starts takes its tokens from the lanes as they stand. -/
theorem takeMany_startUnit (port ctx n : Nat) (d : Device) (u : Nat) (init : Core → Unit → Flight → Flight) :
    (takeMany port ctx n (startUnit d u init)).2.lanes = (takeMany port ctx n (d.unit u)).2.lanes :=
  takeMany_lanes_congr port ctx n rfl

/-! ### Predicate masks do not see the position (R81) -/

theorem ctx_nextPos (x : Unit) : (nextPos x).ctx = { x.ctx with pos := (x.ctx.pos + 1) % 512 } := Unit.ctx_updCtx ..

/-- The word starts with the predicate slots of the context before it. -/
theorem startUnit_pred {d : Device} {u : Nat} {init : Core → Unit → Flight → Flight} {k : Nat}
    (hk : k = (d.unit u).active := by rfl) :
    (Tab.getD (startUnit d u init).ctxs k {}).pred = (d.unit u).ctx.pred := by
  have h := congrArg Ctx.pred (ctx_nextPos (d.unit u))
  rw [hk]
  exact h

theorem maskBit_congr {c c' : Ctx} (h : c.pred = c'.pred) : maskBit c = maskBit c' := by
  funext w k
  rw [maskBit, maskBit, h]

/-! ### How a word settles -/

/-- A word of the fabric or the matrix engine that is done and has nothing to send retires. -/
theorem settleFlight_retiresWith {u : Nat} {d : Device} {x : Unit} {f g : Flight} (hx : x.flight = [g])
    (hop : wOp f.word < 0x60) (hctx : f.ctx = (d.unit u).active := by rfl) (hpos : f.pos = (d.unit u).ctx.pos := by rfl)
    (hd : f.done = true := by rfl) (ho : f.outbox = [] := by rfl) (hw : f.waits = [] := by rfl) :
    RetiresWith u d (settleFlight u 0 x f d) f.sat f.flush f.runmax { x with flight := [] } := by
  have hpop : retirePop f = id := by
    funext y
    exact if_neg (by simp only [Bool.and_eq_true, decide_eq_true_eq]; omega)
  have hbump : { bumpUnit u f.ctx f.pos f.sat f.flush f.runmax x with flight := [] }
      = bumpUnit u f.ctx f.pos f.sat f.flush f.runmax { x with flight := [] } := by
    unfold bumpUnit
    split <;> rfl
  rw [settleFlight_retire hd ho hw, hpop, hx, RetiresWith, ← hctx, ← hpos, ← hbump]
  exact progressed_setUnit u _ d

/-- The first of the tokens formed is presented at every port of OUT_MASK once all are free; the others wait. -/
theorem settleFlight_presents {u : Nat} {d : Device} {x : Unit} {f g : Flight} {t : Token} {rest : List Token}
    (hx : x.flight = [g]) (hfree : PortsFree x f.word) (hw : f.waits = [] := by rfl) :
    Presents u d (settleFlight u 0 x { f with outbox := t :: rest } d) { x with flight := [] } f t rest := by
  obtain ⟨hports, hnone⟩ := hfree
  have hall : (outPorts f.word).all (fun p => (Tab.find x.out p).isNone) = true :=
    List.all_eq_true.mpr fun p hp => by rw [hnone p hp]; rfl
  have hpres : present x { f with outbox := t :: rest }
      = ({ x with out := (outPorts f.word).foldl (fun o p => Tab.set o p (portToken x f p t)) x.out },
         { f with outbox := rest, waits := outPorts f.word }) := by
    simp only [present, hw, hall, if_true]
    rfl
  have hsettle : settleFlight u 0 x { f with outbox := t :: rest } d = d.setUnit u
      { x with out := (outPorts f.word).foldl (fun o p => Tab.set o p (portToken x f p t)) x.out
               flight := [{ f with outbox := rest, waits := outPorts f.word }] } := by
    simp [settleFlight, hpres, hports, hx]
  rw [hsettle, Presents, Device.unit_setUnit_same]
  exact ⟨rfl, rfl, find_present (outPorts f.word) (fun p => portToken x f p t) x.out⟩

/-- A word with nothing formed stays in flight. -/
theorem settleFlight_stays {u : Nat} {d : Device} {x : Unit} {f g : Flight} (hx : x.flight = [g])
    (hd : f.done = false := by rfl) (ho : f.outbox = [] := by rfl) (hw : f.waits = [] := by rfl) :
    settleFlight u 0 x f d = d.setUnit u { x with flight := [f] } := by
  simp [settleFlight, present, hd, ho, hw, hx]

/-! ### Banks (R101) -/

@[simp] theorem Unit.setBank_mmSteps (x : Unit) (b : Nat) (k : Bank) : (x.setBank b k).cu.mmSteps = x.cu.mmSteps := by
  unfold Unit.setBank
  split <;> rfl

@[simp] theorem Unit.setBank_ftq (x : Unit) (b : Nat) (k : Bank) : (x.setBank b k).cu.ftq = x.cu.ftq := by
  unfold Unit.setBank
  split <;> rfl

@[simp] theorem Unit.setBank_flight (x : Unit) (b : Nat) (k : Bank) : (x.setBank b k).flight = x.flight := by
  unfold Unit.setBank
  split <;> rfl

@[simp] theorem Unit.setBank_out (x : Unit) (b : Nat) (k : Bank) : (x.setBank b k).out = x.out := by
  unfold Unit.setBank
  split <;> rfl

/-- A bank is written the same way whatever is in flight. -/
theorem Unit.setBank_flight_comm (x : Unit) (b : Nat) (k : Bank) (fs : List Flight) :
    { x.setBank b k with flight := fs } = ({ x with flight := fs } : Unit).setBank b k := by
  unfold Unit.setBank
  split <;> rfl

/-- A bank is written the same way whatever the lanes hold. -/
theorem Unit.setBank_lanes_comm (x : Unit) (b : Nat) (k : Bank) (l : Tab (List Token)) :
    { x.setBank b k with lanes := l } = ({ x with lanes := l } : Unit).setBank b k := by
  unfold Unit.setBank
  split <;> rfl

theorem Unit.pokeBank_flight_comm (x : Unit) (b : Nat) (es : List (Nat × BitVec 32)) (fs : List Flight) :
    { x.pokeBank b es with flight := fs } = ({ x with flight := fs } : Unit).pokeBank b es := Unit.setBank_flight_comm ..

theorem Unit.pokeBank_lanes_comm (x : Unit) (b : Nat) (es : List (Nat × BitVec 32)) (l : Tab (List Token)) :
    { x.pokeBank b es with lanes := l } = ({ x with lanes := l } : Unit).pokeBank b es := Unit.setBank_lanes_comm ..

/-! ### From the start to the retirement -/

/-- Where no word was in flight, the unit that a word leaves is the one before it, a position further. -/
theorem startUnit_landed {d : Device} {u : Nat} {init : Core → Unit → Flight → Flight} (h : (d.unit u).flight = []) :
    { startUnit d u init with flight := [] } = nextPos (d.unit u) := by
  rw [← h]
  rfl

/-- A matrix word that forms its effect when it starts, and sends nothing, starts and retires in one command. -/
theorem runWord_retires {op u : Nat} {d : Device} {init : Core → Unit → Flight → Flight} {adv : Advance} {y : Unit} {g : Flight}
    (h : Ready d u op) (hop : op < 0x60) (hq : EmitFits op (d.unit u) (nextWord (d.unit u)))
    (hadv : adv d u (startUnit d u init) (startOf d u init) = (y, g)) (hy : y.flight = [startOf d u init] := by rfl)
    (hword : g.word = nextWord (d.unit u) := by rfl) (hctx : g.ctx = (d.unit u).active := by rfl)
    (hpos : g.pos = (d.unit u).ctx.pos := by rfl) (hd : g.done = true := by rfl) (ho : g.outbox = [] := by rfl)
    (hw : g.waits = [] := by rfl) :
    RetiresWith u d (runWord op (fun _ x w => cuMay x w) init adv u d) g.sat g.flush g.runmax { y with flight := [] } := by
  obtain ⟨_, _, hnext, _, _, _⟩ := id h
  rw [runWord_matrix adv h hop hq, hadv]
  exact settleFlight_retiresWith hy (by rw [hword, hnext]; exact hop) hctx hpos hd ho hw

end Sys2Proof.Machine
end

section
/-!
PROOFS. The matrix engine: what MM_ACC, ACC_EMIT, ACC_LOAD, ACC_CLEAR and BUF_LOAD do once they start, and that each completes with
its effect (R112 to R114, R130 to R134, R139).
-/
namespace Sys2Proof.Machine
open Sys2Proof.Safety

/-! ### MM_ACC (R112) -/

theorem mmResult_congr {c c' : Ctx} (h : c.pred = c'.pred) (tabled : Bool) (major : Nat) :
    mmResult tabled major c = mmResult tabled major c' := by
  unfold mmResult
  rw [maskBit_congr h]

/-- The sums of an MM_ACC whose operands unit `y` has captured (R112); the bank and the masks are those of the unit `x` before. -/
@[irreducible] def mmSums (d : Device) (u : Nat) (x y : Unit) (f : Flight) : List (Nat × BitVec 32) × Counts :=
  mmResult (tabledIn d (u / 80)) d.boot.fwMajor.toNat (Tab.getD x.ctxs f.ctx {}) f.word f
    (Unit.region u y (mmRegA f.word) (mmA f.word).units) (Unit.region u y (mmRegB f.word) (mmB f.word).units)
    (Unit.bankAt u x (imm f.word 20 1))

/-- The unit once the sums stand in the bank and the steps are counted (R112, R118). -/
def mmWrites (tabled : Bool) (x : Unit) (f : Flight) (es : List (Nat × BitVec 32)) (y : Unit) : Unit :=
  let z := y.pokeBank (imm f.word 20 1) es
  { z with cu := { z.cu with mmSteps := satNat 48 x.cu.mmSteps (mmSteps tabled f.word f.k) } }

/-- An MM_ACC that has formed its sums, with their counts. -/
def mmDone (c : Counts) (f : Flight) : Flight := { f with done := true, sat := c.sat, flush := c.flush }

/-- MM_ACC whose operands are captured computes: what a capture writes lies in the lanes and the operand buffer, so the
bank, the masks and the extents are those of the start. -/
theorem advMm_computes {d : Device} {u : Nat} {x y : Unit} {f g : Flight} (hmay : mayCompute x f = true)
    (hr : captureOperands (mmRegA f.word) (mmRegB f.word) x f = (y, g)) (hcap : captured y g = true) :
    advMm false d u x f =
      (mmWrites (tabledIn d (u / 80)) x f (mmSums d u x y f).1 y, mmDone (mmSums d u x y f).2 g) := by
  obtain ⟨lanes, buf, a, b, hframe⟩ := captureOperands_frame (mmRegA f.word) (mmRegB f.word) x f
  obtain ⟨rfl, rfl⟩ := Prod.mk.inj (hr.symm.trans hframe)
  simp only [advMm, hr, hcap, hmay, Bool.not_false, Bool.and_self, if_true, mmWrites, Unit.pokeBank, Unit.setBank_mmSteps,
    mmSums]
  rfl

theorem mmSums_startUnit (d : Device) (u : Nat) (y : Unit) :
    let f := startOf d u initMm
    mmSums d u (startUnit d u initMm) y f = mmResult (tabledIn d (u / 80)) d.boot.fwMajor.toNat (d.unit u).ctx f.word f
      (Unit.region u y (mmRegA f.word) (mmA f.word).units) (Unit.region u y (mmRegB f.word) (mmB f.word).units)
      (Unit.bankAt u (d.unit u) (imm f.word 20 1)) := by
  intro f
  rw [mmSums, mmResult_congr startUnit_pred]
  rfl

/-- MM_ACC retires once it has captured its operands (R112). -/
theorem mmAcc_retires {d : Device} {u : Nat} {y : Unit} {g : Flight} (h : Ready d u 0x20) (hcap : captured y g = true) :
    let f := startOf d u initMm
    captureOperands (mmRegA f.word) (mmRegB f.word) (startUnit d u initMm) f = (y, g) →
    let r := mmSums d u (startUnit d u initMm) y f
    RetiresWith u d (runWord 0x20 (fun _ x w => cuMay x w) initMm (advMm false) u d) r.2.sat r.2.flush 0
      { mmWrites (tabledIn d (u / 80)) (d.unit u) f r.1 y with flight := [] } := by
  intro f hr r
  obtain ⟨lanes, buf, a, b, hframe⟩ := captureOperands_frame (mmRegA f.word) (mmRegB f.word) (startUnit d u initMm) f
  obtain ⟨rfl, rfl⟩ := Prod.mk.inj (hr.symm.trans hframe)
  exact (runWord_retires h (by decide) nofun (advMm_computes (mayCompute_alone rfl) hr hcap) (Unit.setBank_flight ..) :)

/-- MM_ACC whose compute phase goes on stays in flight with what it has captured. -/
theorem mmAcc_hold_captures {d : Device} {u : Nat} (h : Ready d u 0x20) :
    let f := startOf d u initMm
    let r := captureOperands (mmRegA f.word) (mmRegB f.word) (startUnit d u initMm) f
    runWord 0x20 (fun _ x w => cuMay x w) initMm (advMm true) u d = d.setUnit u { r.1 with flight := [r.2] } := by
  intro f r
  obtain ⟨lanes, buf, a, b, hr⟩ := captureOperands_frame (mmRegA f.word) (mmRegB f.word) (startUnit d u initMm) f
  have hadv : advMm true d u (startUnit d u initMm) f = r := rfl
  rw [runWord_matrix _ h (by decide) nofun, hadv, show r = _ from hr]
  exact settleFlight_stays (g := f) rfl

/-! ### ACC_EMIT (R113, R131, R139) -/

theorem emitResult_congr {c c' : Ctx} (h : c.pred = c'.pred) : emitResult c = emitResult c' := by
  unfold emitResult
  rw [maskBit_congr h]

/-- CLEAR_AFTER (Table 3.7): what an ACC_EMIT leaves of its bank. -/
def emitClears (w : BitVec 128) (x : Unit) : Unit :=
  if bitOf (imm w 11 1) 0 then x.setBank (imm w 10 1) { zeroed := true } else x

theorem emitClears_ftq (w : BitVec 128) (x : Unit) : (emitClears w x).cu.ftq = x.cu.ftq := by
  unfold emitClears
  split <;> simp

theorem emitClears_out (w : BitVec 128) (x : Unit) : (emitClears w x).out = x.out := by
  unfold emitClears
  split <;> simp

theorem emitClears_flight (w : BitVec 128) (x : Unit) : (emitClears w x).flight = x.flight := by
  unfold emitClears
  split <;> simp

/-- An ACC_EMIT that has formed tile `t`, with its counts. -/
def emitDone (t : Converted) (f : Flight) : Flight :=
  { f with done := true, sat := t.counts.sat, flush := t.counts.flush, runmax := t.runmax }

/-- The tile that an ACC_EMIT forms in a unit. -/
@[irreducible] def emitForms (u : Nat) (x : Unit) (f : Flight) : Converted :=
  emitResult (Tab.getD x.ctxs f.ctx {}) f.word f (Unit.bankAt u x (imm f.word 10 1))

theorem advEmit_sends {d : Device} {u : Nat} {x : Unit} {f : Flight} (h : emitDest f.word = 0) :
    advEmit d u x f = (emitClears f.word x, { emitDone (emitForms u x f) f with
      outbox := tileTokens f.ctx (wTileEnd f.word) (emitForms u x f).units (emitTile f.word).validBytes }) := by
  simp only [advEmit, h, emitForms]
  rfl

theorem advEmit_stores {d : Device} {u : Nat} {x : Unit} {f : Flight} (h : emitDest f.word = 1) :
    advEmit d u x f = ((emitClears f.word x).pokeBuf (regionAt f.word 38 45) (emitForms u x f).units,
      emitDone (emitForms u x f) f) := by
  simp only [advEmit, h, emitForms]
  rfl

theorem advEmit_queues {d : Device} {u : Nat} {x : Unit} {f : Flight} (h : emitDest f.word = 2) :
    let w := f.word
    advEmit d u x f = ({ emitClears w x with cu := { (emitClears w x).cu with
      ftq := x.cu.ftq ++ [⟨imm w 0 4, imm w 4 6, emitNw w, f.ctx, true, (emitForms u x f).units⟩] } },
      emitDone (emitForms u x f) f) := by
  intro w
  rw [← emitClears_ftq w x]
  simp only [advEmit, h, emitForms]
  rfl

theorem emitClears_landed {d : Device} {u : Nat} {init : Core → Unit → Flight → Flight} (h : (d.unit u).flight = [])
    (w : BitVec 128) : { emitClears w (startUnit d u init) with flight := [] } = emitClears w (nextPos (d.unit u)) := by
  unfold emitClears
  split
  · rw [Unit.setBank_flight_comm, startUnit_landed h]
  · exact startUnit_landed h

theorem emitForms_startUnit (d : Device) (u : Nat) :
    let w := nextWord (d.unit u)
    emitForms u (startUnit d u initEmit) (startOf d u initEmit)
      = emitResult (d.unit u).ctx w (startOf d u initEmit) (Unit.bankAt u (d.unit u) (imm w 10 1)) := by
  intro w
  rw [emitForms, emitResult_congr startUnit_pred]
  rfl

/-- ACC_EMIT to the output ports presents the first token of its tile. -/
theorem accEmit_presents {d : Device} {u : Nat} (h : Ready d u 0x21) {tk : Token} {rest : List Token} :
    let f := startOf d u initEmit
    let t := emitForms u (startUnit d u initEmit) f
    emitDest f.word = 0 → PortsFree (d.unit u) f.word →
    tileTokens f.ctx (wTileEnd f.word) t.units (emitTile f.word).validBytes = tk :: rest →
    Presents u d (runWord 0x21 (fun _ x w => cuMay x w) initEmit advEmit u d) (emitClears f.word (nextPos (d.unit u)))
      (emitDone t f) tk rest := by
  intro f t hdest hfree htokens
  obtain ⟨_, _, _, _, _, hflight⟩ := id h
  have hnq : emitDest f.word ≠ 2 := by rw [hdest]; decide
  have hports : PortsFree (emitClears f.word (startUnit d u initEmit)) f.word := by
    unfold PortsFree
    rw [emitClears_out]
    exact hfree
  rw [runWord_matrix _ h (by decide) (emitFits_of_dest hnq), advEmit_sends hdest, htokens, ← emitClears_landed hflight]
  exact settleFlight_presents (g := f) (emitClears_flight ..) hports

/-- ACC_EMIT to the operand buffer stores its tile. -/
theorem accEmit_stores {d : Device} {u : Nat} (h : Ready d u 0x21) :
    let f := startOf d u initEmit
    let t := emitForms u (startUnit d u initEmit) f
    emitDest f.word = 1 →
    RetiresWith u d (runWord 0x21 (fun _ x w => cuMay x w) initEmit advEmit u d) t.counts.sat t.counts.flush t.runmax
      ((emitClears f.word (nextPos (d.unit u))).pokeBuf (regionAt f.word 38 45) t.units) := by
  intro f t hdest
  obtain ⟨_, _, _, _, _, hflight⟩ := id h
  rw [← emitClears_landed hflight]
  have hnq : emitDest f.word ≠ 2 := by rw [hdest]; decide
  exact (runWord_retires h (by decide) (emitFits_of_dest hnq) (advEmit_stores hdest) (emitClears_flight ..) :)

/-- ACC_EMIT to the finished-tile queue appends its tile where the queue has room (R139). -/
theorem accEmit_queues {d : Device} {u : Nat} (h : Ready d u 0x21) :
    let f := startOf d u initEmit
    let w := f.word
    let t := emitForms u (startUnit d u initEmit) f
    let y := emitClears w (nextPos (d.unit u))
    emitDest w = 2 → ((d.unit u).cu.ftq.map (fun e => e.units.length)).sum + (emitTile w).units ≤ 32 →
    RetiresWith u d (runWord 0x21 (fun _ x w => cuMay x w) initEmit advEmit u d) t.counts.sat t.counts.flush t.runmax
      { y with cu := { y.cu with ftq := (d.unit u).cu.ftq ++ [⟨imm w 0 4, imm w 4 6, emitNw w, f.ctx, true, t.units⟩] } } := by
  intro f w t y hdest hroom
  obtain ⟨_, _, _, _, _, hflight⟩ := id h
  have hy : y = { emitClears w (startUnit d u initEmit) with flight := [] } := (emitClears_landed hflight w).symm
  rw [hy]
  exact (runWord_retires h (by decide) (fun _ _ => hroom) (advEmit_queues hdest) (emitClears_flight ..) :)

/-! ### ACC_LOAD, ACC_CLEAR and BUF_LOAD (R114) -/

/-- ACC_LOAD fills its bank from the 16 tokens of its lane (R114). -/
theorem advAccLoad_fills {d : Device} {u : Nat} {x : Unit} {f : Flight} (hmay : mayCapture x f = true) (ha : f.takenA = 0)
    (hi : f.inbox = []) (h : 16 ≤ (x.lane (wSrcA f.word) f.ctx).length) :
    advAccLoad d u x f =
      (({ x with lanes := (takeMany (wSrcA f.word) f.ctx 16 x).2.lanes } : Unit).pokeBank (imm f.word 0 1)
        ((loadCells (((x.lane (wSrcA f.word) f.ctx).take 16).map (·.payload))).filter
          (fun e => maskBit (Tab.getD x.ctxs f.ctx {}) f.word e.1)),
       { f with takenA := 16, done := true, inbox := [] }) := by
  simp only [advAccLoad, hmay, ha, hi, if_true, Nat.sub_zero, Nat.zero_add, List.nil_append]
  rw [takeMany_eq h]
  simp only [List.length_take, Nat.min_eq_left h, if_true]

/-- A predicated ACC_CLEAR writes zeros where its mask is set (R81). -/
theorem advAccClear_predicated {d : Device} {u : Nat} {x : Unit} {f : Flight} (h : wPredicated f.word = true) :
    advAccClear d u x f = (x.pokeBank (imm f.word 0 1)
      (((List.range 2048).filter (maskBit (Tab.getD x.ctxs f.ctx {}) f.word)).map (fun e => (e, 0))), { f with done := true }) :=
  if_pos h

/-- Any other ACC_CLEAR makes its whole bank read zero. -/
theorem advAccClear_whole {d : Device} {u : Nat} {x : Unit} {f : Flight} (h : ¬ wPredicated f.word = true) :
    advAccClear d u x f = (x.setBank (imm f.word 0 1) { zeroed := true }, { f with done := true }) :=
  if_neg h

/-- BUF_LOAD writes its tokens to consecutive units of its region (R114). -/
theorem advBufLoad_fills {d : Device} {u : Nat} {x : Unit} {f : Flight} (hmay : mayCapture x f = true) (ha : f.takenA = 0)
    (hop : wOp f.word = 0x24) (hpa : isPort (wSrcA f.word) = true) (hpb : isPort (wSrcB f.word) = false)
    (h : imm f.word 0 8 ≤ (x.lane (wSrcA f.word) f.ctx).length) :
    advBufLoad d u x f =
      (({ x with lanes := (takeMany (wSrcA f.word) f.ctx (imm f.word 0 8) x).2.lanes } : Unit).pokeBuf (regionAt f.word 8 15)
        (((x.lane (wSrcA f.word) f.ctx).take (imm f.word 0 8)).map (·.payload)),
       { f with takenA := imm f.word 0 8, takenB := 0, done := true }) := by
  have hneed (c : Ctx) : needA c f.word = imm f.word 0 8 := by simp [needA, hpa, hop]
  have hnone (c : Ctx) : needB c f.word = 0 := by simp [needB, hpb]
  have hcapture : captureOperands (regionAt f.word 8 15) 0 x f =
      (({ x with lanes := (takeMany (wSrcA f.word) f.ctx (imm f.word 0 8) x).2.lanes } : Unit).pokeBuf (regionAt f.word 8 15)
        (((x.lane (wSrcA f.word) f.ctx).take (imm f.word 0 8)).map (·.payload)),
       { f with takenA := imm f.word 0 8, takenB := 0 }) := by
    simp only [captureOperands, captureInto, hmay, hpa, hpb, hneed, ha, if_true, Bool.false_eq_true, if_false, Nat.sub_zero,
      Nat.zero_add, Nat.add_zero]
    rw [takeMany_eq h]
    simp only [List.length_take, Nat.min_eq_left h]
  simp [advBufLoad, hcapture, captured, hneed, hnone]

/-- ACC_LOAD retires with the 16 tokens in its bank. -/
theorem accLoad_retires {d : Device} {u : Nat} (h : Ready d u 0x22) :
    let x := d.unit u
    let w := nextWord x
    16 ≤ (x.lane (wSrcA w) x.active).length →
    RetiresWith u d (runWord 0x22 (fun _ x w => cuMay x w) noInit advAccLoad u d) 0 0 0
      { (nextPos x).pokeBank (imm w 0 1) ((loadCells (((x.lane (wSrcA w) x.active).take 16).map (·.payload))).filter
          (fun e => maskBit x.ctx w e.1)) with lanes := (takeMany (wSrcA w) x.active 16 x).2.lanes } := by
  intro x w hlane
  obtain ⟨_, _, _, _, _, hflight⟩ := id h
  have hret := runWord_retires (init := noInit) h (by decide) nofun
    (advAccLoad_fills (mayCapture_alone rfl) rfl rfl hlane) (Unit.setBank_flight ..)
  rw [maskBit_congr startUnit_pred, takeMany_startUnit, Unit.pokeBank_flight_comm] at hret
  rw [Unit.pokeBank_lanes_comm, ← startUnit_landed (init := noInit) hflight]
  exact hret

/-- ACC_CLEAR retires: its bank reads zero, or a predicated one has written zeros where its mask is set (R81). -/
theorem accClear_retires {d : Device} {u : Nat} (h : Ready d u 0x23) :
    let x := d.unit u
    let w := nextWord x
    RetiresWith u d (runWord 0x23 (fun _ x w => cuMay x w) noInit advAccClear u d) 0 0 0
      (if wPredicated w then (nextPos x).pokeBank (imm w 0 1) (((List.range 2048).filter (maskBit x.ctx w)).map (fun e => (e, 0)))
       else (nextPos x).setBank (imm w 0 1) { zeroed := true }) := by
  intro x w
  obtain ⟨_, _, _, _, _, hflight⟩ := id h
  rw [← startUnit_landed (init := noInit) hflight]
  split
  case isTrue hpred =>
    rw [← Unit.pokeBank_flight_comm]
    have hadv := advAccClear_predicated (d := d) (u := u) (x := startUnit d u noInit) (f := startOf d u noInit) hpred
    rw [maskBit_congr startUnit_pred] at hadv
    exact (runWord_retires h (by decide) nofun hadv (Unit.setBank_flight ..) :)
  case isFalse hpred =>
    rw [← Unit.setBank_flight_comm]
    have hadv := advAccClear_whole (d := d) (u := u) (x := startUnit d u noInit) (f := startOf d u noInit) hpred
    exact (runWord_retires h (by decide) nofun hadv (Unit.setBank_flight ..) :)

/-- BUF_LOAD retires with its tokens in its region. -/
theorem bufLoad_retires {d : Device} {u : Nat} (h : Ready d u 0x24) :
    let x := d.unit u
    let w := nextWord x
    isPort (wSrcA w) = true → imm w 0 8 ≤ (x.lane (wSrcA w) x.active).length → isPort (wSrcB w) = false →
    RetiresWith u d (runWord 0x24 (fun _ x w => cuMay x w) noInit advBufLoad u d) 0 0 0
      { (nextPos x).pokeBuf (regionAt w 8 15) (((x.lane (wSrcA w) x.active).take (imm w 0 8)).map (·.payload)) with
        lanes := (takeMany (wSrcA w) x.active (imm w 0 8) x).2.lanes } := by
  intro x w hpa hlane hpb
  obtain ⟨_, _, hop, _, _, hflight⟩ := id h
  have hret := runWord_retires (init := noInit) h (by decide) nofun
    (advBufLoad_fills (mayCapture_alone rfl) rfl hop hpa hpb hlane)
  rw [takeMany_startUnit] at hret
  rw [← startUnit_landed (init := noInit) hflight]
  exact hret

/-! ### The obligation -/

/-- Settles O4: every word starts alone (`runWord_matrix`), and what it does with its operands, its bank or its tile
(`advMm_computes`, `advEmit_sends` and its two neighbours, `advAccLoad_fills`, `advAccClear_predicated`, `advBufLoad_fills`) is
what then retires, is presented or stays in flight.  That a predicated ACC_EMIT with CLEAR_AFTER clears every element (log entry 91)
and that a row may hold an MM_ACC in its compute phase (log entry 56) are the model's own readings. -/
theorem matrixWordsComplete : Obligations.MatrixWordsComplete := by
  intro s u
  refine ⟨fun hcap hready => ⟨_, rfl, ?_⟩, fun hready => ⟨_, rfl, mmAcc_hold_captures hready⟩, fun hready => ?_,
    fun hlane hready => ⟨_, rfl, accLoad_retires hready hlane⟩, fun hready => ⟨_, rfl, accClear_retires hready⟩,
    fun hpa hlane hpb hready => ⟨_, rfl, bufLoad_retires hready hpa hlane hpb⟩⟩
  · have h := mmAcc_retires hready hcap rfl
    rw [mmSums_startUnit] at h
    exact h
  · rw [← emitForms_startUnit s.dev u.key]
    exact ⟨fun tk rest hdest hfree htokens => ⟨_, rfl, accEmit_presents hready hdest hfree htokens⟩,
      fun hdest => ⟨_, rfl, accEmit_stores hready hdest⟩, fun hdest hroom => ⟨_, rfl, accEmit_queues hready hdest hroom⟩⟩

end Sys2Proof.Machine
end

section
/-!
PROOFS. The vector unit: how a vector word starts where no word is in flight, what it leaves as it is when it sends or stores its
result, how it retires, and that each of the nine words completes with its effect (R141, R143, R144, R152 to R169).
-/
namespace Sys2Proof.Machine
open Sys2Proof.Safety

/-! ### The start of a vector word (R72, R143) -/

/-- R141: the head of the finished-tile queue is ready where a vector word reads it. -/
abbrev QueueReady (x : Unit) (w : BitVec 128) : Prop :=
  vSelA w = 1 ∨ vSelB w = 1 → (x.cu.ftq.head?.map (·.ready)) = some true

theorem isVector_iff (w : BitVec 128) : isVector w = true ↔ 0x60 ≤ wOp w ∧ wOp w ≤ 0x68 := by simp [isVector]

/-- No word in flight: the limits on a start ask of a vector word only that the queue it reads has its head. -/
theorem cuMay_of_queueReady {x : Unit} {w : BitVec 128} (hf : x.flight = []) (hv : isVector w = true)
    (hq : QueueReady x w) : cuMay x w = true := by
  have hemit : wOp w ≠ 0x21 := by
    rw [isVector_iff] at hv
    omega
  by_cases hsel : vSelA w = 1 ∨ vSelB w = 1
  · simp [cuMay, hf, hemit, hq hsel]
  · simp only [not_or] at hsel
    simp [cuMay, hf, hemit, hsel]

/-- A vector word that may start does so alone: it goes on as far as it can, and settles. -/
theorem runWord_vector {op u : Nat} {d : Device} {init : Core → Unit → Flight → Flight} (adv : Advance) (h : Ready d u op)
    (hop : 0x60 ≤ op ∧ op ≤ 0x68) (hq : QueueReady (d.unit u) (nextWord (d.unit u))) :
    runWord op (fun _ x w => cuMay x w) init adv u d
      = settleFlight u 0 (adv d u (startUnit d u init) (startOf d u init)).1
          (adv d u (startUnit d u init) (startOf d u init)).2 d := by
  obtain ⟨_, _, hw, _, _, hflight⟩ := id h
  exact runWord_start h (cuMay_of_queueReady hflight ((isVector_iff _).mpr (hw ▸ hop)) hq)

/-! ### What a vector word leaves as it is -/

theorem Unit.pokeBank_frame (x : Unit) (b : Nat) (es : List (Nat × BitVec 32)) :
    ∃ cu, x.pokeBank b es = { x with cu := cu } := by
  unfold Unit.pokeBank Unit.setBank
  split <;> exact ⟨_, rfl⟩

/-- A vector word that has formed its result changes, of its unit, the compute engine alone (the buffer, the banks and the
counters); its flight is done and has its counts and its tokens. -/
theorem vFinish_frame (d : Device) (u : Nat) (e : VEnv) (r : VResult) (x : Unit) (f : Flight) :
    ∃ cu sat flush runmax outbox, vFinish d u e r x f
      = ({ x with cu := cu },
         { f with done := true, sat := sat, flush := flush, runmax := runmax, outbox := outbox }) := by
  have hrecord (y : Unit) : ∃ cu, (if r.record = [] then y else y.pokeBuf (vRegD f.word) r.record) = { y with cu := cu } := by
    split <;> exact ⟨_, rfl⟩
  obtain ⟨cu, hcu⟩ := hrecord { x with cu := { x.cu with
    vecSteps := satNat 48 x.cu.vecSteps (vSteps f.word (hardPasses u e).2)
    sfuHard := satNat 32 x.cu.sfuHard (hardPasses u e).1 } }
  simp only [vFinish, hcu]
  split
  case h_1 | h_2 => exact ⟨_, _, _, _, _, rfl⟩
  case h_3 =>
    split
    case h_1 | h_2 | h_4 => exact ⟨_, _, _, _, _, rfl⟩
    case h_3 => exact ⟨_, _, _, _, _, Prod.ext (Unit.pokeBank_frame ..).choose_spec rfl⟩

/-! ### How a vector word retires (R141, R188) -/

/-- Removing the head of the queue and counting the run touch different parts of the unit. -/
theorem retirePop_bumpUnit (f : Flight) (u ctx pos sat flush runmax : Nat) (x : Unit) :
    { retirePop f (bumpUnit u ctx pos sat flush runmax x) with flight := [] }
      = bumpUnit u ctx pos sat flush runmax (retirePop f { x with flight := [] }) := by
  unfold retirePop bumpUnit
  split <;> split <;> rfl

/-- A word that is done and has nothing to send retires, and takes the head of the queue along where it pops it. -/
theorem settleFlight_pops {u : Nat} {d : Device} {x : Unit} {f g : Flight} (hx : x.flight = [g])
    (hctx : f.ctx = (d.unit u).active) (hpos : f.pos = (d.unit u).ctx.pos)
    (hd : f.done = true) (ho : f.outbox = []) (hw : f.waits = []) :
    RetiresWith u d (settleFlight u 0 x f d) f.sat f.flush f.runmax (retirePop f { x with flight := [] }) := by
  rw [settleFlight_retire hd ho hw, hx, RetiresWith, ← hctx, ← hpos, ← retirePop_bumpUnit]
  exact progressed_setUnit u _ d

/-! ### A vector word in one command -/

/-- The unit and the word that has started in it, with the operands that are there captured. -/
def vCapture (d : Device) (u : Nat) : Unit × Flight :=
  captureOperands (vRegA (nextWord (d.unit u))) (vRegB (nextWord (d.unit u))) (startUnit d u initVector) (startOf d u initVector)

/-- The unit and the word once its result is formed. -/
def vForm (form : VEnv → VResult) (d : Device) (u : Nat) : Unit × Flight :=
  let r := vCapture d u
  let e := vEnv d u r.1 r.2
  vFinish d u e (form e) r.1 r.2

theorem advVector_hold (form : VEnv → VResult) (d : Device) (u : Nat) :
    advVector form true d u (startUnit d u initVector) (startOf d u initVector) = vCapture d u := rfl

theorem advVector_forms {form : VEnv → VResult} {d : Device} {u : Nat}
    (hcap : captured (vCapture d u).1 (vCapture d u).2 = true) :
    advVector form false d u (startUnit d u initVector) (startOf d u initVector) = vForm form d u := if_pos hcap

/-- What is captured lies in the lanes and the buffer: the rest of the unit and of the word is that of the start. -/
theorem vCapture_frame (d : Device) (u : Nat) : ∃ lanes buf a b, vCapture d u
    = ({ startUnit d u initVector with lanes := lanes, cu := { (startUnit d u initVector).cu with buf := buf } },
       { startOf d u initVector with takenA := a, takenB := b }) := captureOperands_frame ..

theorem vForm_frame (form : VEnv → VResult) (d : Device) (u : Nat) : ∃ lanes cu a b sat flush runmax outbox, vForm form d u
    = ({ startUnit d u initVector with lanes := lanes, cu := cu },
       { startOf d u initVector with takenA := a, takenB := b, done := true, sat := sat, flush := flush, runmax := runmax,
                                     outbox := outbox }) := by
  obtain ⟨lanes, buf, a, b, hr⟩ := vCapture_frame d u
  obtain ⟨cu, sat, flush, runmax, outbox, ho⟩ :=
    vFinish_frame d u (vEnv d u (vCapture d u).1 (vCapture d u).2) (form (vEnv d u (vCapture d u).1 (vCapture d u).2))
      (vCapture d u).1 (vCapture d u).2
  refine ⟨lanes, cu, a, b, sat, flush, runmax, outbox, ho.trans ?_⟩
  rw [hr]

section
variable {op u : Nat} {d : Device} {form : VEnv → VResult} (h : Ready d u op) (hop : 0x60 ≤ op ∧ op ≤ 0x68)
  (hq : QueueReady (d.unit u) (nextWord (d.unit u)))
include h hop hq

/-- A vector word whose passes go on stays in flight with what it has captured. -/
theorem vectorWord_captures :
    runWord op (fun _ x w => cuMay x w) initVector (advVector form true) u d
      = d.setUnit u { (vCapture d u).1 with flight := [(vCapture d u).2] } := by
  obtain ⟨lanes, buf, a, b, hr⟩ := vCapture_frame d u
  rw [runWord_vector _ h hop hq, advVector_hold, hr]
  exact settleFlight_stays (g := startOf d u initVector) rfl

/-- A vector word with nothing to send retires. -/
theorem vectorWord_retires (hcap : captured (vCapture d u).1 (vCapture d u).2 = true) :
    let o := vForm form d u
    o.2.outbox = [] → RetiresWith u d (runWord op (fun _ x w => cuMay x w) initVector (advVector form false) u d)
      o.2.sat o.2.flush o.2.runmax (retirePop o.2 { o.1 with flight := [] }) := by
  obtain ⟨_, _, _, _, _, _, _, _, ho⟩ := vForm_frame form d u
  rw [runWord_vector _ h hop hq, advVector_forms hcap, ho]
  exact fun hout => settleFlight_pops rfl rfl rfl rfl hout rfl

/-- A vector word with tokens presents the first of them. -/
theorem vectorWord_presents (hcap : captured (vCapture d u).1 (vCapture d u).2 = true) {t : Token} {rest : List Token} :
    let o := vForm form d u
    o.2.outbox = t :: rest → PortsFree (d.unit u) (nextWord (d.unit u)) →
    Presents u d (runWord op (fun _ x w => cuMay x w) initVector (advVector form false) u d) o.1 o.2 t rest := by
  obtain ⟨_, _, _, _, _, _, _, outbox, ho⟩ := vForm_frame form d u
  rw [runWord_vector _ h hop hq, advVector_forms hcap, ho]
  rintro o (rfl : outbox = t :: rest) hfree
  exact settleFlight_presents (f := o.2) rfl hfree

end

/-! ### The obligation -/

/-- The nine vector words, each with its opcode and what it forms (Table 4.2). -/
def vectorRows (u : UnitRef) : List (Nat × (VEnv → VResult) × Instr) :=
  [(0x60, formMap, .vMap u), (0x61, formBcast, .vBcast u), (0x62, formFunc, .vFunc u), (0x63, formReduce, .vReduce u),
   (0x64, formPred, .vPred u), (0x65, formStats, .vStats u), (0x66, formSmax, .vSmax u), (0x67, formMove, .vMove u),
   (0x68, formFill, .vFill u)]

/-- The two vector words whose passes may go on (log entry 56). -/
def heldRows (u : UnitRef) : List (Nat × Instr) := [(0x62, .vFunc u true), (0x66, .vSmax u true)]

theorem exec_vectorRows (u : UnitRef) (s : State) : ∀ row ∈ vectorRows u,
    (0x60 ≤ row.1 ∧ row.1 ≤ 0x68) ∧ exec row.2.2 s = .next (vectorWord row.1 row.2.1 u s) := by
  simp only [vectorRows, List.forall_mem_cons]
  exact ⟨⟨by decide, rfl⟩, ⟨by decide, rfl⟩, ⟨by decide, rfl⟩, ⟨by decide, rfl⟩, ⟨by decide, rfl⟩, ⟨by decide, rfl⟩,
    ⟨by decide, rfl⟩, ⟨by decide, rfl⟩, ⟨by decide, rfl⟩, List.forall_mem_nil _⟩

theorem exec_heldRows (u : UnitRef) (s : State) : ∀ row ∈ heldRows u,
    (0x60 ≤ row.1 ∧ row.1 ≤ 0x68) ∧ ∃ form, exec row.2 s = .next (vectorWord row.1 form u s true) := by
  simp only [heldRows, List.forall_mem_cons]
  exact ⟨⟨by decide, _, rfl⟩, ⟨by decide, _, rfl⟩, List.forall_mem_nil _⟩

/-- Settles O5: a vector word starts alone (`runWord_vector`), and forming its result leaves the ports, the flights and the place of
the word as they stood (`vForm_frame`); so it retires, presents its first token, or stays in flight with what it has captured.  That
a row may hold a V_FUNC or V_SMAX in its passes (log entry 56) is the model's own reading. -/
theorem vectorWordsComplete : Obligations.VectorWordsComplete := by
  intro s u
  refine ⟨fun row hrow hready hq => ?_, fun row hrow hready hcap hq => ?_⟩
  · obtain ⟨hop, form, hexec⟩ := exec_heldRows u s row hrow
    exact ⟨_, hexec, vectorWord_captures hready hop hq⟩
  · obtain ⟨hop, hexec⟩ := exec_vectorRows u s row hrow
    exact ⟨fun hout => ⟨_, hexec, vectorWord_retires hready hop hq hcap hout⟩,
      fun t rest hout hfree => ⟨_, hexec, vectorWord_presents hready hop hq hcap hout hfree⟩⟩

end Sys2Proof.Machine
end

section
/-!
PROOFS. The scratchpad memory unit: a region is a queue, and DESC_SET, PUSH, ZERO, RELEASE, READ and COL_READ complete with their
effect (R206, R208, R209, R210, R213).
-/
namespace Sys2Proof.Machine
open Sys2Proof.Safety

/-- A word that has started, and sends nothing yet, stays in flight (R72). -/
theorem settleFlight_start (d : Device) (u : Nat) :
    settleFlight u 0 (startUnit d u noInit) (startOf d u noInit) d = d.setUnit u (startUnit d u noInit) :=
  settleFlight_stays (g := startOf d u noInit) rfl

set_option Elab.async false

/-! ### The slots of a region (R208) -/

theorem Desc.len_le (r : Desc) : r.len ≤ 8192 := by
  have : bitsOf r.cfg.toNat 14 13 < 2 ^ 13 := by
    unfold bitsOf
    exact Nat.mod_lt _ (Nat.two_pow_pos 13)
  unfold Desc.len
  omega

theorem Desc.len_pos (r : Desc) : 0 < r.len := Nat.succ_pos _

/-- Two relative slots within the region's length stand at different places. -/
theorem Desc.slot_inj {r : Desc} {p q : Nat} (hp : p < r.len) (hq : q < r.len) (h : r.slot p = r.slot q) : p = q := by
  have hmod : ∀ k, (r.head + k) % r.len < 8192 := fun k =>
    Nat.lt_of_lt_of_le (Nat.mod_lt _ r.len_pos) r.len_le
  have hoff : (r.head + p) % r.len = (r.head + q) % r.len :=
    Nat.ModEq.eq_of_lt_of_lt (Nat.ModEq.add_left_cancel' r.base h) (hmod p) (hmod q)
  exact Nat.ModEq.eq_of_lt_of_lt (Nat.ModEq.add_left_cancel' r.head hoff) hp hq

/-- HEAD advanced by `k` shifts every relative slot by `k`. -/
theorem Desc.slot_advance (r : Desc) (k p : Nat) : (r.advance k).slot p = r.slot (k + p) := by
  show (r.base + ((r.head + k) % r.len + p) % r.len) % 8192 = _
  rw [Nat.mod_add_mod, Nat.add_assoc]
  rfl

theorem Mu.desc_setDesc (m : Mu) (n j : Nat) (r : Desc) : (m.setDesc n r).desc j = if j = n then r else m.desc j := by
  simp [Mu.desc, Mu.setDesc, Tab.getD_set]

/-! ### A push (R208) -/

theorem Mu.pushSlot_desc (m : Mu) (n j : Nat) (v : BitVec 4096) : (m.pushSlot n v).desc j
    = if j = n then { m.desc n with tail := ((m.desc n).tail + 1) % (m.desc n).len, count := (m.desc n).count + 1 }
      else m.desc j := Mu.desc_setDesc ..

theorem Mu.pushSlot_ram (m : Mu) (n : Nat) (v : BitVec 4096) :
    (m.pushSlot n v).ram = Ram.blit m.ram (16 * (m.desc n).slot (m.desc n).count) 16 v.toNat := rfl

theorem Mu.pushSlot_count (m : Mu) (n : Nat) (v : BitVec 4096) : ((m.pushSlot n v).desc n).count = (m.desc n).count + 1 := by
  rw [Mu.pushSlot_desc, if_pos rfl]

theorem Mu.pushSlot_slot (m : Mu) (n : Nat) (v : BitVec 4096) : ((m.pushSlot n v).desc n).slot = (m.desc n).slot := by
  rw [Mu.pushSlot_desc, if_pos rfl]
  rfl

theorem Mu.pushSlot_len (m : Mu) (n : Nat) (v : BitVec 4096) : ((m.pushSlot n v).desc n).len = (m.desc n).len := by
  rw [Mu.pushSlot_desc, if_pos rfl]
  rfl

/-- The slot at TAIL holds what was pushed, and the others what they held. -/
theorem Mu.pushSlot_slotData (m : Mu) (n : Nat) (v : BitVec 4096) (a : Nat) : (m.pushSlot n v).slotData a
    = if a = (m.desc n).slot (m.desc n).count then v else m.slotData a := by
  simp only [Mu.slotData, Mu.pushSlot_ram]
  split
  case isTrue h => rw [h, Ram.slice_blit_same, Nat.mod_eq_of_lt v.isLt, BitVec.ofNat_toNat, BitVec.setWidth_eq]
  case isFalse h => rw [Ram.slice_blit_apart _ _ _ _ _ _ (by omega)]

/-- What is pushed to a region with room stands at its end. -/
theorem Mu.regionList_pushSlot {m : Mu} {n : Nat} (h : (m.desc n).count < (m.desc n).len) (v : BitVec 4096) :
    regionList (m.pushSlot n v) n = regionList m n ++ [v] := by
  have hheld : ∀ p ∈ List.range (m.desc n).count,
      (m.pushSlot n v).slotData ((m.desc n).slot p) = m.slotData ((m.desc n).slot p) := by
    intro p hp
    have hlt := List.mem_range.mp hp
    rw [Mu.pushSlot_slotData, if_neg fun heq => hlt.ne (Desc.slot_inj (hlt.trans h) h heq)]
  simp only [regionList, Mu.pushSlot_count, Mu.pushSlot_slot, List.range_succ, List.map_append, List.map_cons, List.map_nil]
  rw [List.map_congr_left hheld, Mu.pushSlot_slotData, if_pos rfl]

/-! ### Several pushes -/

theorem Mu.regionList_pushSlots {n : Nat} (vs : List (BitVec 4096)) {m : Mu} :
    (m.desc n).count + vs.length ≤ (m.desc n).len → regionList (Mu.pushSlots n vs m) n = regionList m n ++ vs := by
  induction vs generalizing m with
  | nil => exact fun _ => (List.append_nil _).symm
  | cons v vs ih =>
    intro h
    rw [List.length_cons] at h
    rw [Mu.pushSlots, ih (by rw [Mu.pushSlot_count, Mu.pushSlot_len]; omega), Mu.regionList_pushSlot (by omega),
      List.append_assoc, List.singleton_append]

/-- A push leaves every other region's descriptor as it is. -/
theorem Mu.pushSlots_desc {n j : Nat} (hj : j ≠ n) (vs : List (BitVec 4096)) (m : Mu) :
    (Mu.pushSlots n vs m).desc j = m.desc j := by
  induction vs generalizing m with
  | nil => rfl
  | cons v vs ih => rw [Mu.pushSlots, ih, Mu.pushSlot_desc, if_neg hj]

/-- A push leaves every word outside the slots at TAIL as it is. -/
theorem Mu.read_pushSlots {n a : Nat} (vs : List (BitVec 4096)) (m : Mu)
    (h : ∀ p, (m.desc n).count ≤ p → p < (m.desc n).count + vs.length →
      a < 16 * (m.desc n).slot p ∨ 16 * (m.desc n).slot p + 16 ≤ a) :
    Ram.read (Mu.pushSlots n vs m).ram a = Ram.read m.ram a := by
  induction vs generalizing m with
  | nil => rfl
  | cons v vs ih =>
    rw [List.length_cons] at h
    rw [Mu.pushSlots, ih, Mu.pushSlot_ram, Ram.read_blit, if_neg]
    · have htail := h _ le_rfl (by omega)
      omega
    · intro p hlo hhi
      rw [Mu.pushSlot_count] at hlo hhi
      rw [Mu.pushSlot_slot]
      exact h p (by omega) (by omega)

/-! ### A release -/

/-- Slots that are released leave from the front. -/
theorem Mu.regionList_advance (m : Mu) (n k : Nat) :
    regionList (m.setDesc n ((m.desc n).advance k)) n = (regionList m n).drop k := by
  have hdesc : (m.setDesc n ((m.desc n).advance k)).desc n = (m.desc n).advance k := by
    rw [Mu.desc_setDesc, if_pos rfl]
  refine List.ext_getElem ?_ fun i hi hj => ?_
  · simp only [regionList, hdesc, List.length_map, List.length_range, List.length_drop]
    rfl
  · simp only [regionList, hdesc, Desc.slot_advance, List.getElem_map, List.getElem_range, List.getElem_drop]
    rfl

/-- Settles O6: a push appends one slot after another (`regionList_pushSlot`: relative slots within the length stand at
different places, `Desc.slot_inj`), and a release shifts the relative slots (`Desc.slot_advance`). -/
theorem regionIsAQueue : Obligations.RegionIsAQueue := fun m n vs hroom =>
  ⟨Mu.regionList_pushSlots vs hroom, fun _ hj => Mu.pushSlots_desc hj vs m, fun _ h => Mu.read_pushSlots vs m h,
    fun k _ => Mu.regionList_advance m n k⟩

/-! ### How a word of an MU starts, and retires (R72, R209) -/

/-- With no word in flight, no limit on an MU word's start applies (R209, R554). -/
abbrev MayAlone (can : Core → Unit → BitVec 128 → Bool) : Prop := ∀ c x w, x.flight = [] → can c x w = true

theorem startAlone_mayAlone : MayAlone startAlone := fun _ _ _ h => by simp [startAlone, h]

theorem noWriter_mayAlone : MayAlone noWriter := fun _ _ _ h => by simp [noWriter, h]

theorem noReader_mayAlone : MayAlone noReader := fun _ _ _ h => by simp [noReader, h]

theorem runWord_alone {op u : Nat} {d : Device} {can : Core → Unit → BitVec 128 → Bool} (hcan : MayAlone can) (adv : Advance)
    (h : Ready d u op) :
    runWord op can noInit adv u d = settleFlight u 0 (adv d u (startUnit d u noInit) (startOf d u noInit)).1
      (adv d u (startUnit d u noInit) (startOf d u noInit)).2 d := by
  obtain ⟨_, _, _, _, _, hflight⟩ := id h
  exact runWord_start h (hcan _ _ _ hflight)

/-- Only a vector word removes the head of the finished-tile queue (R141). -/
theorem retirePop_of_not_vector {f : Flight} (h : 0x68 < wOp f.word) (x : Unit) : retirePop f x = x :=
  if_neg (by simp only [Bool.and_eq_true, decide_eq_true_eq]; omega)

/-- A word of an MU that forms its effect when it starts, and sends nothing, starts and retires in one command. -/
theorem muWord_retires {op u : Nat} {d : Device} {can : Core → Unit → BitVec 128 → Bool} {adv : Advance} {y : Unit} {n : Nat}
    (hcan : MayAlone can) (hop : 0x68 < op) (h : Ready d u op)
    (hadv : adv d u (startUnit d u noInit) (startOf d u noInit) = (y, { startOf d u noInit with takenA := n, done := true }))
    (hy : y.flight = [startOf d u noInit]) :
    RetiresWith u d (runWord op can noInit adv u d) 0 0 0 { y with flight := [] } := by
  obtain ⟨_, _, hw, _, _, _⟩ := id h
  have hret := settleFlight_pops (d := d) (u := u) (f := { startOf d u noInit with takenA := n, done := true }) hy rfl rfl rfl rfl rfl
  rw [retirePop_of_not_vector (hw ▸ hop)] at hret
  rw [runWord_alone hcan adv h, hadv]
  exact hret

/-! ### DESC_SET, PUSH, ZERO and RELEASE (R206, R210) -/

theorem descSet_retires {d : Device} {u : Nat} (h : Ready d u 0xA0) :
    let w := nextWord (d.unit u)
    Retires u d (runWord 0xA0 startAlone noInit advDescSet u d) fun x => { nextPos x with
      mu := x.mu.setDesc (muDesc w) { cfg := (Ram.read x.ctx.consts (imm w 43 6)).setWidth 28, valid := true } } := by
  intro w
  obtain ⟨_, _, _, _, _, hflight⟩ := id h
  have hctx := congrArg Ctx.consts (ctx_nextPos (d.unit u))
  have hconsts : (Tab.getD (startUnit d u noInit).ctxs (d.unit u).active {}).consts = (d.unit u).ctx.consts := hctx
  have hadv : advDescSet d u (startUnit d u noInit) (startOf d u noInit) = (_, { startOf d u noInit with takenA := 0, done := true }) := rfl
  have hret := muWord_retires startAlone_mayAlone (by norm_num) h hadv rfl
  rw [Retires, ← startUnit_landed (init := noInit) hflight, ← hconsts]
  exact hret

/-- PUSH whose tokens have come to a region with room writes them all. -/
theorem advPush_writes {d : Device} {u : Nat} {x : Unit} {f : Flight} (ha : f.takenA = 0)
    (hlane : muCount f.word ≤ (x.lane (wSrcA f.word) f.ctx).length) (hroom : muCount f.word ≤ x.mu.room (muDesc f.word)) :
    advPush d u x f =
      ({ x with mu := Mu.pushSlots (muDesc f.word) (((x.lane (wSrcA f.word) f.ctx).take (muCount f.word)).map (·.payload)) x.mu
                lanes := (takeMany (wSrcA f.word) f.ctx (muCount f.word) x).2.lanes },
       { f with takenA := muCount f.word, done := true }) := by
  simp only [advPush, ha, Nat.sub_zero, Nat.min_eq_left hroom, Nat.zero_add]
  rw [takeMany_eq hlane]
  simp only [List.length_take, Nat.min_eq_left hlane, le_refl, decide_true]

theorem push_retires {d : Device} {u : Nat} (h : Ready d u 0xA1) :
    let x := d.unit u
    let w := nextWord x
    muCount w ≤ (x.lane (wSrcA w) x.active).length → muCount w ≤ x.mu.room (muDesc w) →
    Retires u d (runWord 0xA1 noWriter noInit advPush u d) fun x =>
      { nextPos x with
        mu := Mu.pushSlots (muDesc w) (((x.lane (wSrcA w) x.active).take (muCount w)).map (·.payload)) x.mu
        lanes := (takeMany (wSrcA w) x.active (muCount w) x).2.lanes } := by
  intro x w hlane hroom
  obtain ⟨_, _, _, _, _, hflight⟩ := id h
  have hret := muWord_retires noWriter_mayAlone (by norm_num) h
    (advPush_writes (x := startUnit d u noInit) (f := startOf d u noInit) rfl hlane hroom) rfl
  rw [takeMany_startUnit] at hret
  rw [Retires, ← startUnit_landed (init := noInit) hflight]
  exact hret

/-- ZERO for a region with room writes all its slots. -/
theorem advZero_writes {d : Device} {u : Nat} {x : Unit} {f : Flight} (ha : f.takenA = 0)
    (hroom : muCount f.word ≤ x.mu.room (muDesc f.word)) :
    advZero d u x f = ({ x with mu := Mu.pushSlots (muDesc f.word) (List.replicate (muCount f.word) 0) x.mu },
      { f with takenA := muCount f.word, done := true }) := by
  simp only [advZero, ha, Nat.sub_zero, Nat.min_eq_left hroom, Nat.zero_add, le_refl, decide_true]

theorem zero_retires {d : Device} {u : Nat} (h : Ready d u 0xA5) :
    let w := nextWord (d.unit u)
    muCount w ≤ (d.unit u).mu.room (muDesc w) →
    Retires u d (runWord 0xA5 noWriter noInit advZero u d) fun x =>
      { nextPos x with mu := Mu.pushSlots (muDesc w) (List.replicate (muCount w) 0) x.mu } := by
  intro w hroom
  obtain ⟨_, _, _, _, _, hflight⟩ := id h
  rw [Retires, ← startUnit_landed (init := noInit) hflight]
  exact muWord_retires noWriter_mayAlone (by norm_num) h
    (advZero_writes (x := startUnit d u noInit) (f := startOf d u noInit) rfl hroom) rfl

/-- RELEASE of slots that the region holds releases them all. -/
theorem advRelease_releases {d : Device} {u : Nat} {x : Unit} {f : Flight} (ha : f.takenA = 0)
    (hheld : muCount f.word ≤ (x.mu.desc (muDesc f.word)).count) :
    advRelease d u x f =
      ({ x with mu := x.mu.setDesc (muDesc f.word) ((x.mu.desc (muDesc f.word)).advance (muCount f.word)) },
       { f with takenA := muCount f.word, done := true }) := by
  simp only [advRelease, ha, Nat.sub_zero, Nat.min_eq_left hheld, Nat.zero_add, le_refl, decide_true]

theorem release_retires {d : Device} {u : Nat} (h : Ready d u 0xA4) :
    let w := nextWord (d.unit u)
    muCount w ≤ ((d.unit u).mu.desc (muDesc w)).count →
    Retires u d (runWord 0xA4 noReader noInit advRelease u d) fun x =>
      { nextPos x with mu := x.mu.setDesc (muDesc w) ((x.mu.desc (muDesc w)).advance (muCount w)) } := by
  intro w hheld
  obtain ⟨_, _, _, _, _, hflight⟩ := id h
  rw [Retires, ← startUnit_landed (init := noInit) hflight]
  exact muWord_retires noReader_mayAlone (by norm_num) h
    (advRelease_releases (x := startUnit d u noInit) (f := startOf d u noInit) rfl hheld) rfl

/-! ### READ and COL_READ (R210, R213) -/

/-- The token that an access to words `ws` forms. -/
def readToken (x : Unit) (f : Flight) (ws : List Nat) : Token :=
  ⟨BitVec.ofNat 4096 (ws.zipIdx.foldl (fun acc e => acc + ((Ram.read x.mu.ram e.1).toNat <<< (256 * e.2))) 0),
    mkTag f.ctx (wTileEnd f.word && decide (f.takenA + 1 = readTotal f.word)) 512 0 0⟩

/-- The scratchpad after an access to words `ws`: the slots it frees are released, and its steps are counted. -/
def readMu (x : Unit) (f : Flight) (ws : List Nat) : Mu :=
  let n := muDesc f.word
  let m := x.mu.setDesc n ((x.mu.desc n).advance (readFree f.word f.takenA))
  { m with bankSteps := satNat 48 m.bankSteps (accessSteps ws) }

/-- A reading word after its next token is formed, which waits to be sent. -/
def readNext (f : Flight) : Flight :=
  { f with takenA := f.takenA + 1, takenB := f.takenB + readFree f.word f.takenA, done := f.takenA + 1 = readTotal f.word }

theorem advRead_forms {d : Device} {u : Nat} {x : Unit} {f : Flight} {ws : List Nat} (h : readWords x f = some ws) :
    advRead d u x f = ({ x with mu := readMu x f ws }, { readNext f with outbox := [readToken x f ws] }) := by
  simp only [advRead, h]
  rfl

/-- A word that can go on and is the only one in flight goes on. -/
theorem runWord_goesOn {op u : Nat} {d : Device} {can : Core → Unit → BitVec 128 → Bool} {init : Core → Unit → Flight → Flight}
    {adv : Advance} {f : Flight} (hx : (d.unit u).flight = [f]) (hw : wOp f.word = op) (hd : f.done = false)
    (hne : (adv d u (d.unit u) f).2 ≠ f) :
    runWord op can init adv u d = settleFlight u 0 (adv d u (d.unit u) f).1 (adv d u (d.unit u) f).2 d := by
  simp [runWord, goOn, hx, hw, hd, hne]

theorem Device.setUnit_setUnit (d : Device) (u : Nat) (x y : Unit) : (d.setUnit u x).setUnit u y = d.setUnit u y := by
  simp [Device.setUnit]

/-- What is presented in a unit does not depend on what the unit held before. -/
theorem presents_of_setUnit {u : Nat} {d d' : Device} {x y : Unit} {f : Flight} {t : Token} {rest : List Token}
    (h : Presents u (d.setUnit u x) d' y f t rest) : Presents u d d' y f t rest := by
  obtain ⟨hd, hx, hports⟩ := h
  exact ⟨hd.trans (d.setUnit_setUnit ..), hx, hports⟩

/-- The command of a reading word starts it, and sends the token that its first access forms. -/
theorem readWord_presents {op u : Nat} {d : Device} {ws : List Nat} (word : Nat) (h : Ready d u op) :
    let x := d.unit u
    let f := startOf d u noInit
    PortsFree x (nextWord x) → readWords x f = some ws →
    Presents u d (readWord op .clean word u d) { nextPos x with mu := readMu x f ws } (readNext f) (readToken x f ws) [] := by
  intro x f hfree hws
  obtain ⟨_, _, hw, _, _, hflight⟩ := id h
  have hstart : runWord op noReader noInit (fun _ _ x f => (x, f)) u d = d.setUnit u (startUnit d u noInit) :=
    (runWord_alone noReader_mayAlone _ h).trans (settleFlight_start d u)
  have hwords : readWords (startUnit d u noInit) f = some ws := hws
  have hopen : openFlight (startUnit d u noInit) op = some f :=
    List.find?_eq_some_iff_append.mpr ⟨by simpa using ⟨hw, rfl⟩, [], [], rfl, by simp⟩
  have hadv := advRead_forms (d := d.setUnit u (startUnit d u noInit)) (u := u) hwords
  have hgo : runWord op noReader noInit advRead u (d.setUnit u (startUnit d u noInit))
      = settleFlight u 0 { startUnit d u noInit with mu := readMu x f ws }
          { readNext f with outbox := [readToken x f ws] } (d.setUnit u (startUnit d u noInit)) := by
    rw [runWord_goesOn (f := f) (by rw [Device.unit_setUnit_same]; rfl) hw rfl] <;> rw [Device.unit_setUnit_same, hadv]
    · rfl
    · exact fun heq => Nat.one_ne_zero (congrArg Flight.takenA heq)
  have hread : readWord op .clean word u d = runWord op noReader noInit advRead u (d.setUnit u (startUnit d u noInit)) := by
    simp only [readWord, hstart, Device.unit_setUnit_same, hopen, Option.bind_some, hwords]
    rfl
  rw [hread, hgo, ← startUnit_landed (init := noInit) hflight]
  exact presents_of_setUnit (settleFlight_presents (f := readNext f) (g := f) rfl hfree rfl)

/-! ### The obligation -/

/-- The two reading words of an MU, each with its opcode. -/
def readingRows (u : UnitRef) (word : Fin 16) : List (Nat × Instr) := [(0xA2, .read_ u .clean word), (0xA3, .colRead u .clean word)]

theorem exec_readingRows (u : UnitRef) (word : Fin 16) (s : State) : ∀ row ∈ readingRows u word,
    exec row.2 s = .next { s with dev := readWord row.1 .clean word.val u.key s.dev } := by
  simp only [readingRows, List.forall_mem_cons]
  exact ⟨rfl, rfl, List.forall_mem_nil _⟩

/-- Settles O7: a word of an MU starts alone (`runWord_alone`); the four that send nothing form their whole effect when they start and
retire (`muWord_retires`), and a reading word presents the token of its first access (`readWord_presents`). -/
theorem scratchpadWordsComplete : Obligations.ScratchpadWordsComplete := by
  intro s u word
  refine ⟨fun h => ⟨_, rfl, descSet_retires h⟩, fun hlane hroom h => ⟨_, rfl, push_retires h hlane hroom⟩,
    fun hroom h => ⟨_, rfl, zero_retires h hroom⟩, fun hheld h => ⟨_, rfl, release_retires h hheld⟩, ?_⟩
  intro row hrow ws f v m hfree hws h
  refine ⟨_, exec_readingRows u word s row hrow, ?_⟩
  have hread := readWord_presents word.val h hfree hws
  have hnext : readNext f = { f with takenA := 1, takenB := readFree (nextWord (s.dev.unit u.key)) 0,
                                     done := readTotal (nextWord (s.dev.unit u.key)) = 1 } := by
    simp [readNext, f, startOf, noInit, eq_comm]
  rw [← hnext]
  exact hread

end Sys2Proof.Machine
end

section
/-!
PROOFS. The work of the tiers: writes of the logical space, and the allocation and release of pages, change the tiers and the lists of a
move's command alone (R235 to R241, R430).
-/
namespace Sys2Proof.Machine
open Sys2Proof.Safety
set_option Elab.async false

/-! ### A command that goes on as it is -/

/-- The job is that of a PAGE_MOVE, whose lists change with its moves (R430). -/
def Job.moves : Job → Bool
  | .moving _ _ _ _ _ => true
  | _ => false

/-- A command keeps its STATE, its PROGRESS and, unless it moves pages, its job. -/
structure SameRun (x y : Mailbox) : Prop where
  state : y.state = x.state
  progress : y.progress = x.progress
  moves : y.job.moves = x.job.moves
  job : x.job.moves = false → y.job = x.job

namespace SameRun

theorem refl {x : Mailbox} : SameRun x x := ⟨rfl, rfl, rfl, fun _ => rfl⟩

theorem trans {x y z : Mailbox} (h : SameRun x y) (k : SameRun y z) : SameRun x z :=
  ⟨k.state.trans h.state, k.progress.trans h.progress, k.moves.trans h.moves,
    fun hx => (k.job (h.moves.trans hx)).trans (h.job hx)⟩

end SameRun

/-! ### The relation -/

/-- Of a block `o`, `d` has changed the tiers alone, and the lists of moves' commands. -/
structure TierWork (o d : Device) : Prop where
  frame : d = { o with tiers := d.tiers, host := d.host }
  mb : ∀ j, SameRun (o.mb j) (d.mb j)

namespace TierWork
variable {o d : Device}

theorem refl : TierWork d d := ⟨rfl, fun _ => .refl⟩

theorem units (h : TierWork o d) : d.units = o.units := by rw [h.frame]
theorem cores (h : TierWork o d) : d.cores = o.cores := by rw [h.frame]
theorem quads (h : TierWork o d) : d.quads = o.quads := by rw [h.frame]
theorem sections (h : TierWork o d) : d.sections = o.sections := by rw [h.frame]
theorem sched (h : TierWork o d) : d.sched = o.sched := by rw [h.frame]
theorem power (h : TierWork o d) : d.power = o.power := by rw [h.frame]

theorem setTiers {x : Tiers} (h : TierWork o d) : TierWork o { d with tiers := x } :=
  ⟨congrArg (fun e => { e with tiers := x }) h.frame, h.mb⟩

theorem updMb {m : Nat} {f : Mailbox → Mailbox} (h : TierWork o d) (hf : SameRun (d.mb m) (f (d.mb m))) :
    TierWork o (d.updMb m f) := by
  refine ⟨congrArg (fun e : Device => { e with host := (d.updMb m f).host }) h.frame, fun j => (h.mb j).trans ?_⟩
  rw [Device.updMb_eq, Device.mb_setMb]
  split
  · subst_vars
    exact hf
  · exact .refl

theorem ite {c : Prop} {_ : Decidable c} {x y : Device} (hx : TierWork o x) (hy : TierWork o y) :
    TierWork o (if c then x else y) := by
  split
  · exact hx
  · exact hy

theorem foldl {β : Type} {l : List β} {f : Device → β → Device} (h : TierWork o d)
    (hf : ∀ e x, TierWork o e → TierWork o (f e x)) : TierWork o (l.foldl f d) :=
  List.foldlRecOn l f h fun e he x _ => hf e x he

/-! ### Frames, moves and residency entries -/

theorem setRes {p e} (h : TierWork o d) : TierWork o (d.setRes p e) := .setTiers h
theorem giveFrame {unit frame} (h : TierWork o d) : TierWork o (giveFrame d unit frame) := .setTiers h
theorem invalidate {p} (h : TierWork o d) : TierWork o (invalidate p d) := .setTiers h

/-- A page that is skipped changes the lists of its PAGE_MOVE alone. -/
theorem skipMove {mv} (h : TierWork o d) : TierWork o (skipMove mv d) := .ite (.updMb h (by
  split
  case h_1 hj =>
    split
    · exact ⟨rfl, rfl, by rw [hj]; rfl, fun hm => by rw [hj] at hm; cases hm⟩
    · exact .refl
  case h_2 => exact .refl)) h

theorem endMove {mv} (h : TierWork o d) : TierWork o (endMove mv d) := .skipMove (.giveFrame (.setTiers h))

theorem abortMove {p} (h : TierWork o d) : TierWork o (abortMove p d) := by
  unfold Machine.abortMove
  split
  · exact h
  · exact .setRes (.endMove (.setTiers h))

theorem touchTier {p} (h : TierWork o d) : TierWork o (touchTier p d) := .ite (.setRes h) h

theorem writeFrame {unit frame off n v} (h : TierWork o d) : TierWork o (writeFrame d unit frame off n v) :=
  .ite (.setTiers h) (.setTiers h)

/-! ### Writes of the logical space -/

theorem writePage {p off n v} (h : TierWork o d) : TierWork o (writePage p off n v d) :=
  .ite (.writeFrame (.touchTier (.abortMove h))) h

theorem writeLogicalAux {fuel a n v} (h : TierWork o d) : TierWork o (writeLogicalAux fuel a n v d) := by
  induction fuel generalizing a n v d with
  | zero => exact h
  | succ fuel ih => exact .ite h (ih (.writePage h))

theorem writeLogical {a n v} (h : TierWork o d) : TierWork o (writeLogical a n v d) := .writeLogicalAux h

theorem markPending {sec g k} (h : TierWork o d) : TierWork o (markPending sec g k d) :=
  .ite (.foldl h fun _ _ he => .setRes he) h

theorem writeCtxRecords {sec c} (h : TierWork o d) : TierWork o (writeCtxRecords sec c d) := by
  unfold Machine.writeCtxRecords
  split
  · exact .ite h (.writeLogical h)
  · exact h

theorem writeRecords {sec cores} (h : TierWork o d) : TierWork o (writeRecords sec cores d) :=
  .foldl h fun _ _ he => .ite (.foldl he fun _ _ hf => .writeCtxRecords hf) he

theorem writeStoreImage {sec image} (h : TierWork o d) : TierWork o (writeStoreImage sec image d) :=
  .foldl h fun _ _ he => .writeLogical he

theorem writeStoreGen {sec l} (h : TierWork o d) : TierWork o (writeStoreGen sec l d) :=
  .foldl h fun _ _ he => .foldl he fun _ _ hf => .foldl hf fun _ _ hg => .writeLogical hg

theorem writeStores {sec} (h : TierWork o d) : TierWork o (writeStores sec d) :=
  .foldl (.foldl h fun _ _ he => .writeStoreImage he) fun _ _ he => .writeStoreGen he

theorem writeReport {d0 sec} (h : TierWork o d) : TierWork o (writeReport d0 sec d) := .writeLogical h

theorem queuePromotions {sec} (h : TierWork o d) : TierWork o (queuePromotions sec d) :=
  .foldl h fun _ _ he => by
    split
    · exact .ite (.foldl he fun _ _ hf => .ite (.setTiers hf) hf) he
    · exact he

/-! ### Pages -/

theorem freePage {p} (h : TierWork o d) : TierWork o (freePage p d) :=
  .ite (.invalidate (.setRes (.setTiers (by
    split
    · exact .endMove h
    · exact h)))) h

theorem freePages {ps} (h : TierWork o d) : TierWork o (freePages ps d) := .foldl h fun _ _ he => .freePage he

theorem takeFrame {unit r} (h : TierWork o d) (hr : takeFrame d unit = some r) : TierWork o r.2 := by
  unfold Machine.takeFrame at hr
  dsimp only at hr
  split at hr
  · cases hr
    exact .setTiers h
  · cases hr

theorem allocPage {p cls pin unit e} (h : TierWork o d) (he : allocPage p cls pin unit d = some e) : TierWork o e := by
  obtain ⟨r, hr, rfl⟩ := Option.map_eq_some_iff.mp he
  exact .invalidate (.setRes (.takeFrame h hr))

theorem allocPinned {taken core n r} (h : TierWork o d) (hr : allocPinned taken core n d = some r) : TierWork o r.1 := by
  unfold Machine.allocPinned at hr
  split at hr
  · cases hr
    exact h
  · split at hr
    · cases hr
    · obtain ⟨e, he, rfl⟩ := Option.map_eq_some_iff.mp hr
      refine List.foldlRecOn (motive := fun a => ∀ e, a = some e → TierWork o e) _ _ (by rintro _ ⟨⟩; exact h) ?_ e he
      intro a ha k _ e he
      obtain ⟨b, hb, hbe⟩ := Option.bind_eq_some_iff.mp he
      exact .allocPage (ha b hb) hbe

theorem allocStores {m cores bases r} (h : TierWork o d) (hr : allocStores m cores bases d = .ok r) : TierWork o r.1 := by
  unfold Machine.allocStores at hr
  dsimp only at hr
  split at hr
  · cases hr
  · rename_i hf
    have hd := List.foldlRecOn (motive := fun (a : Except PlaceFail (Device × List Nat × List Nat)) => ∀ r, a = .ok r → TierWork o r.1) _ _ (by rintro _ ⟨⟩; exact h) ?_ _ hf
    · split at hr
      · cases hr
      · rename_i hp
        cases hr
        exact .allocPinned hd hp
    · intro acc ih l _ r hr
      split at hr
      · cases hr
      · split at hr
        · cases hr
        · rename_i hp
          cases hr
          exact .allocPinned (ih _ rfl) hp

end TierWork

end Sys2Proof.Machine
end

section
/-!
PROOFS. Calm operations: those that leave the sections, the scheduling and power registers, the section that holds each core, and
every command as they are.  Streams, channels, tallies, barriers and the reset of an idle core are calm.
-/
namespace Sys2Proof.Machine
open Sys2Proof.Safety
set_option Elab.async false

/-- The sections and the scheduling and power registers stand. -/
structure Still (o d : Device) : Prop where
  sections : d.sections = o.sections
  sched : d.sched = o.sched
  power : d.power = o.power

/-- So do the section that holds each core, and every command. -/
structure Calm (o d : Device) : Prop extends Still o d where
  owner : ∀ c, (d.core c).section_ = (o.core c).section_
  mb : ∀ j, SameRun (o.mb j) (d.mb j)

theorem Still.refl {d : Device} : Still d d := ⟨rfl, rfl, rfl⟩

theorem Still.trans {a b c : Device} (h : Still a b) (k : Still b c) : Still a c :=
  ⟨k.sections.trans h.sections, k.sched.trans h.sched, k.power.trans h.power⟩

theorem Still.section? {o d : Device} (h : Still o d) (n : Nat) : d.section? n = o.section? n := by
  rw [Device.section?, h.sections]
  rfl

namespace Calm
variable {o d : Device}

theorem refl : Calm d d := ⟨.refl, fun _ => rfl, fun _ => .refl⟩

theorem trans {a b c : Device} (h : Calm a b) (k : Calm b c) : Calm a c :=
  ⟨h.toStill.trans k.toStill, fun i => (k.owner i).trans (h.owner i), fun j => (h.mb j).trans (k.mb j)⟩

theorem coreSection (h : Calm o d) (c : Nat) : coreSection d c = coreSection o c := by
  rw [Machine.coreSection, h.owner, funext h.section?]
  rfl

/-- The parts of a block that the relation does not speak of. -/
theorem of_eq {e : Device} (h : Calm o d) (hs : e.sections = d.sections := by rfl) (hc : e.sched = d.sched := by rfl)
    (hp : e.power = d.power := by rfl) (hk : e.cores = d.cores := by rfl) (hh : e.host = d.host := by rfl) : Calm o e :=
  h.trans ⟨⟨hs, hc, hp⟩, fun c => by rw [Device.core, hk]; rfl, fun j => by rw [Device.mb, Device.mb, hh]; exact .refl⟩

theorem setTiers {x : Tiers} (h : Calm o d) : Calm o { d with tiers := x } := h.of_eq
theorem setSync {x : SyncState} (h : Calm o d) : Calm o { d with sync := x } := h.of_eq
theorem setUnits {x : Tab Unit} (h : Calm o d) : Calm o { d with units := x } := h.of_eq
theorem setMgmt {x : Mgmt} (h : Calm o d) : Calm o { d with mgmt := x } := h.of_eq
theorem setTraining {x : Training} (h : Calm o d) : Calm o { d with training := x } := h.of_eq
theorem setSet {x : LinkSet} (h : Calm o d) : Calm o { d with set := x } := h.of_eq
theorem setUnit {u x} (h : Calm o d) : Calm o (d.setUnit u x) := h.of_eq
theorem updUnit {u f} (h : Calm o d) : Calm o (d.updUnit u f) := h.of_eq
theorem updQuad {q f} (h : Calm o d) : Calm o (d.updQuad q f) := h.of_eq
theorem setCtrl {c ms} (h : Calm o d) : Calm o (d.setCtrl c ms) := h.of_eq
theorem pushCtrl {c ms} (h : Calm o d) : Calm o (pushCtrl c ms d) := h.of_eq
theorem updPort {p f} (h : Calm o d) : Calm o (d.updPort p f) := h.of_eq

theorem updCore {c : Nat} {f : Core → Core} (h : Calm o d) (hf : (f (d.core c)).section_ = (d.core c).section_ := by rfl) :
    Calm o (d.updCore c f) :=
  h.trans ⟨⟨rfl, rfl, rfl⟩, fun k => by
    rw [Device.updCore_eq, Device.core_setCore]
    split
    · subst_vars
      exact hf
    · rfl, fun _ => .refl⟩

theorem updSeq {c : Nat} {f : Seq → Seq} (h : Calm o d) : Calm o (d.updSeq c f) := h.updCore

theorem updMb {m : Nat} {f : Mailbox → Mailbox} (h : Calm o d)
    (hf : SameRun (d.mb m) (f (d.mb m)) := by exact ⟨rfl, rfl, rfl, fun _ => rfl⟩) : Calm o (d.updMb m f) :=
  h.trans ⟨⟨rfl, rfl, rfl⟩, fun _ => rfl, (TierWork.updMb .refl hf).mb⟩

/-- The work of the tiers is calm. -/
theorem tierWork {e : Device} (h : Calm o d) (w : TierWork d e) : Calm o e :=
  h.trans ⟨⟨w.sections, w.sched, w.power⟩, fun c => by rw [Device.core, w.cores]; rfl, w.mb⟩

theorem ite {c : Prop} {_ : Decidable c} {x y : Device} (hx : Calm o x) (hy : Calm o y) : Calm o (if c then x else y) := by
  split
  · exact hx
  · exact hy

theorem foldl {β : Type} {l : List β} {f : Device → β → Device} (h : Calm o d) (hf : ∀ e x, Calm o e → Calm o (f e x)) :
    Calm o (l.foldl f d) :=
  List.foldlRecOn l f h fun e he x _ => hf e x he

/-! ### Records and replies -/

theorem putRecord {typ err subject mbx seq data} (h : Calm o d) : Calm o (putRecord typ err subject mbx seq data d) := .setMgmt h
theorem newSecond (h : Calm o d) : Calm o (newSecond d) := .ite (.setMgmt h) (.putRecord (.setMgmt h))
theorem logRec {typ err subject mbx seq data} (h : Calm o d) : Calm o (logRec typ err subject mbx seq data d) :=
  .ite (.setMgmt (.ite (.newSecond h) h)) (.putRecord (.ite (.newSecond h) h))
theorem log {typ subject data} (h : Calm o d) : Calm o (log typ subject data d) := .logRec h
theorem reply {m off n v} (h : Calm o d) : Calm o (reply m off n v d) := .updMb h
theorem replyAddr {m addr} (h : Calm o d) : Calm o (replyAddr m addr d) := .reply h
theorem replyAccess {m addr q} (h : Calm o d) : Calm o (replyAccess m addr q d) := .reply (.replyAddr h)

/-! ### Words and links of the harness -/

theorem progressed {c word} (h : Calm o d) : Calm o (progressed c word d) := by
  have hidle : Calm o (if word then resetIdle c d else d) := .ite (.updCore h (by split <;> rfl)) h
  unfold Machine.progressed
  dsimp only
  split
  · exact .foldl hidle fun _ _ he => .updCore he
  · exact hidle

theorem settleFlight {u i x f} (h : Calm o d) : Calm o (settleFlight u i x f d) := by
  unfold Machine.settleFlight
  split
  · exact .ite (.progressed (.setUnit h)) (.setUnit h)

theorem ackOut {u p} (h : Calm o d) : Calm o (ackOut u p d) := by
  unfold Machine.ackOut
  dsimp only
  split
  · split
    · exact .settleFlight h
    · exact .setUnit h
  · exact .setUnit h

theorem dropSource {u src} (h : Calm o d) : Calm o (dropSource u src d) := .ite (.updUnit h) (.ackOut h)

theorem releaseEdges {c} (h : Calm o d) : Calm o (releaseEdges c d) :=
  .foldl h fun _ _ he => .foldl he fun _ _ hf => by
    split
    · exact hf
    · split
      · exact .dropSource (.updUnit hf)
      · exact hf

/-! ### Packets and channels -/

theorem sendPacket {k} (h : Calm o d) : Calm o (sendPacket k d) := by
  unfold Machine.sendPacket
  split
  · exact .updPort h
  · exact .setSet h

theorem updSlot {c n f} (h : Calm o d) : Calm o (d.updSlot c n f) := .updCore h
theorem updEp {c e f} (h : Calm o d) : Calm o (d.updEp c e f) := .updCore h
theorem closeSender {c e quiet} (h : Calm o d) : Calm o (closeSender c e quiet d) := .updEp h
theorem rxToken {c e slot t} (h : Calm o d) : Calm o (rxToken c e slot t d) := .ite (.updEp h) h
theorem rxClose {sec src dst slot side} (h : Calm o d) : Calm o (rxClose sec src dst slot side d) :=
  .ite (.updEp h) (.ite (.closeSender h) h)
theorem setChan {c ms} (h : Calm o d) : Calm o (setChan c ms d) := .setSync h

theorem arriveMsg {sec m} (h : Calm o d) : Calm o (arriveMsg sec m d) := by
  unfold Machine.arriveMsg
  split
  · exact .rxToken h
  · exact .rxClose h
  · exact h

theorem settleChan {sec c n} (h : Calm o d) : Calm o (settleChan sec c n d) := by
  induction n generalizing d with
  | zero => exact h
  | succ n ih =>
    unfold Machine.settleChan
    split
    · exact ih (.arriveMsg (.setChan h))
    · exact h

theorem sendChan {sec to_ msg} (h : Calm o d) : Calm o (sendChan sec to_ msg d) :=
  .ite (.ite (.settleChan (.setChan h)) (.setChan h)) (.sendPacket h)

theorem closeEndpoint {sec c e} (h : Calm o d) : Calm o (closeEndpoint sec c e d) :=
  .ite (.foldl (.foldl (.updEp h) fun _ _ he => .sendChan he) fun _ _ he => .sendChan he) h

theorem closeWhole {sec c e} (h : Calm o d) : Calm o (closeWhole sec c e d) :=
  .foldl (.ite (.closeEndpoint h) (.updEp (.closeEndpoint h))) fun _ _ he => .sendChan he

theorem closeCore {c} (h : Calm o d) : Calm o (closeCore c d) := by
  unfold Machine.closeCore
  split
  · exact .foldl h fun _ _ he => .closeWhole he
  · exact h

theorem closeEndpoints {sec} (h : Calm o d) : Calm o (closeEndpoints sec d) :=
  .foldl (.foldl h fun _ _ he => .foldl he fun _ _ hf => .closeEndpoint hf)
    fun _ _ he => .ite he (.foldl (.setChan he) fun _ _ hf => .arriveMsg hf)

theorem sendHalts {cores} (h : Calm o d) : Calm o (sendHalts cores d) := .foldl h fun _ _ he => .ite he (.pushCtrl he)

/-! ### Stores -/

theorem countWritten {c e} (h : Calm o d) : Calm o (countWritten c e d) := by
  unfold Machine.countWritten
  exact .updSlot h
theorem dropStore {c q e} (h : Calm o d) : Calm o (dropStore c q e d) := .updCore h

theorem writeEntry {addr data} (h : Calm o d) : Calm o (writeEntry addr data d) := by
  unfold Machine.writeEntry
  split
  · exact .setTraining (.setTraining (.tierWork h (.writeLogical (.markPending .refl))))
  · exact .tierWork h (.writeLogical .refl)

theorem lastStore {c q e} (h : Calm o d) : Calm o (lastStore c q d e) :=
  .ite h (by
    split
    · exact .countWritten (.dropStore (.writeEntry h))
    · exact .log (.dropStore h))

theorem lastStores {c} (h : Calm o d) : Calm o (lastStores c d) :=
  .foldl h fun _ _ he => .foldl he fun _ _ hf => .lastStore hf

theorem noPending {c} (h : Calm o d) : Calm o (noPending c d) := .ite h (.updCore h)

/-! ### The reset of an idle core (R99, R260) -/

theorem resetCoreState {c} (h : Calm o d) : Calm o (resetCoreState c d) :=
  .ite h (.setSync (.setCtrl (.updCore (.foldl (.foldl h fun _ _ he => .updUnit he) fun _ _ he => .updUnit he))))

theorem resetIdleCore {c} (h : Calm o d) : Calm o (resetIdleCore c d) :=
  .ite h (.resetCoreState (.releaseEdges (.lastStores (.closeCore h))))

/-! ### Tallies, barriers and waiting tokens (R303, R305, R362) -/

theorem tallyOperation {q} (h : Calm o d) : Calm o (tallyOperation q d) := by
  unfold Machine.tallyOperation
  dsimp only
  split
  · exact h
  · exact .foldl (.updQuad h) fun _ _ he => .updSeq he

theorem applyTallies {q n} (h : Calm o d) : Calm o (applyTallies q n d) := by
  induction n generalizing d with
  | zero => exact h
  | succ n ih => exact .ite h (ih (.tallyOperation h))

theorem barrierRelease {c} (h : Calm o d) : Calm o (barrierRelease c d) := by
  unfold Machine.barrierRelease
  split
  · exact h
  · exact .updSeq (.setSync h)

theorem applyReleases {c n} (h : Calm o d) : Calm o (applyReleases c n d) := by
  induction n generalizing d with
  | zero => exact h
  | succ n ih => exact .ite h (ih (.barrierRelease h))

theorem settleSync {sec} (h : Calm o d) : Calm o (settleSync sec d) :=
  .foldl (.foldl h fun _ _ he => .applyTallies he) fun _ _ he => .applyReleases he

theorem clearBarriers {all n} (h : Calm o d) : Calm o (clearBarriers all n d) := .setSync h

theorem putSpill {r t} (h : Calm o d) : Calm o (putSpill r t d) := .updUnit h
theorem unspill {r} (h : Calm o d) : Calm o (unspill r d) := by
  unfold Machine.unspill
  exact .updUnit (.updUnit h)

theorem settleWaiting {u src} (h : Calm o d) : Calm o (settleWaiting u src d) := by
  unfold Machine.settleWaiting
  split
  · exact h
  · split
    · exact h
    · refine .ite h ?_
      dsimp only
      split
      · exact .putSpill (.unspill (.dropSource h))
      · exact .updUnit (.dropSource h)

theorem settleTokens {sec} (h : Calm o d) : Calm o (settleTokens sec d) :=
  .foldl h fun _ _ he => .foldl he fun _ _ hf => .settleWaiting hf

theorem muCorrected {u word cls} (h : Calm o d) : Calm o (muCorrected u word cls d) := .setMgmt (.updUnit h)

end Calm

end Sys2Proof.Machine
end

section
/-!
PROOFS. The ends of commands, and what follows them: PREEMPT, CORE_OFFLINE and CANCEL settle (R429, R432), lost cores return (R372), and
a section is halted (R427, R559).
-/
namespace Sys2Proof.Machine
open Sys2Proof.Safety
set_option Elab.async false

/-! ### Sections by handle -/

theorem handle_of_section? {d : Device} {h : Nat} {sec : Section} (hs : d.section? h = some sec) : sec.handle = h := by
  simpa using List.find?_some hs

/-- A change of the sections that keeps their handles changes the section of a handle so. -/
theorem find?_handle_map {g : Section → Section} {h : Nat} (l : List Section) (hg : ∀ s, (g s).handle = h ↔ s.handle = h) :
    (l.map g).find? (·.handle = h) = (l.find? (·.handle = h)).map g := by
  induction l with
  | nil => rfl
  | cons s l ih =>
    by_cases hs : s.handle = h
    · simp [hs, hg]
    · simp [hs, hg, ih]

theorem Device.section?_updSection {d : Device} {h : Nat} {f : Section → Section} (hf : ∀ s, s.handle = h → (f s).handle = h) :
    (d.updSection h f).section? h = (d.section? h).map f := by
  have hmap := find?_handle_map (g := fun s => if s.handle = h then f s else s) (h := h) d.sections fun s => by
    by_cases hs : s.handle = h <;> simp [hs, hf]
  rw [Device.section?, Device.updSection, hmap, ← Device.section?]
  cases hs : d.section? h with
  | none => rfl
  | some s => exact congrArg some (if_pos (handle_of_section? hs))

theorem coreSection_handle {d : Device} {c : Nat} {sec : Section} (h : coreSection d c = some sec) :
    d.section? sec.handle = some sec := by
  obtain ⟨n, -, hn⟩ := Option.bind_eq_some_iff.mp h
  rw [handle_of_section? hn]
  exact hn

/-! ### The end of a command touches the host's side alone -/

/-- Of a block `o`, `d` has changed the host's side alone. -/
def HostWork (o d : Device) : Prop := d = { o with host := d.host }

namespace HostWork
variable {o d : Device}

theorem refl : HostWork d d := rfl
theorem still (h : HostWork o d) : Still o d := ⟨by rw [h], by rw [h], by rw [h]⟩
theorem core (h : HostWork o d) (c : Nat) : d.core c = o.core c := by rw [h]; rfl
theorem ctrl (h : HostWork o d) (c : Nat) : d.ctrl c = o.ctrl c := by rw [h]; rfl
theorem trans {a b c : Device} (h : HostWork a b) (k : HostWork b c) : HostWork a c := by
  unfold HostWork at *
  rw [k, h]

theorem updMb {m f} (h : HostWork o d) : HostWork o (d.updMb m f) := h.trans rfl

theorem irq {v} (h : HostWork o d) : HostWork o (irq v d) := by
  unfold Machine.irq
  split
  · exact h
  · exact h.trans rfl

theorem endDone {m} (h : HostWork o d) : HostWork o (endDone m d) := h.trans rfl

theorem endFailed {m e} (h : HostWork o d) : HostWork o (endFailed m e d) := by
  unfold Machine.endFailed
  dsimp only
  split
  · exact .irq (h.trans rfl)
  · exact h.trans rfl

theorem foldl {β : Type} {l : List β} {f : Device → β → Device} (h : HostWork o d) (hf : ∀ e x, HostWork o e → HostWork o (f e x)) :
    HostWork o (l.foldl f d) :=
  List.foldlRecOn l f h fun e he x _ => hf e x he

theorem failWaiting {h code} (w : HostWork o d) : HostWork o (failWaiting h code d) :=
  .foldl w fun _ _ he => by
    split
    · exact .endFailed he
    · exact he

theorem endAbandoned {h} (w : HostWork o d) : HostWork o (endAbandoned h d) :=
  .foldl w fun _ _ he => by
    split
    · split
      · exact .endFailed (.updMb he)
      · exact he
    · split
      · exact .endDone he
      · exact he
    · exact he

end HostWork

/-- What DONE leaves of a command. -/
def Mailbox.ended (x : Mailbox) : Mailbox := { x with state := .done, error := x.note, job := .none }

theorem endDone_mb (m j : Nat) (d : Device) : (endDone m d).mb j = if j = m then (d.mb m).ended else d.mb j :=
  Device.mb_setMb ..

theorem endDone_mb_same (m : Nat) (d : Device) : (endDone m d).mb m = (d.mb m).ended := by
  rw [endDone_mb, if_pos rfl]

theorem sendVector_mbx (x : HostSide) (v : Nat) : (sendVector x v).mbx = x.mbx := by
  unfold sendVector
  split <;> rfl

theorem irq_mb (v j : Nat) (d : Device) : (irq v d).mb j = d.mb j := by
  unfold irq
  split
  · rfl
  · rw [Device.mb, sendVector_mbx]
    rfl

theorem endFailed_live {m j : Nat} {e : BitVec 8} {d : Device} (h : ((endFailed m e d).mb j).state.live = true) :
    (d.mb j).state.live = true := by
  have hmb : ((endFailed m e d).mb j).state = if j = m then .failed else (d.mb j).state := by
    unfold endFailed
    dsimp only
    split
    · rw [irq_mb]
      exact (congrArg Mailbox.state (Device.mb_setMb ..)).trans (by split <;> rfl)
    · exact (congrArg Mailbox.state (Device.mb_setMb ..)).trans (by split <;> rfl)
  rw [hmb] at h
  split at h
  · cases h
  · exact h

/-! ### PREEMPT, CORE_OFFLINE and CANCEL settle -/

/-- The job of a command that settles. -/
def Job.settles : Job → Bool
  | .preempting _ => true
  | .offline _ => true
  | .cancelling _ => true
  | _ => false

theorem Job.moves_of_settles : ∀ {j : Job}, j.settles = true → j.moves = false
  | .preempting _, _ => rfl
  | .offline _, _ => rfl
  | .cancelling _, _ => rfl

/-- One command's turn of `settleJobs`. -/
def settleJob (d : Device) (m : Nat) : Device :=
  match (d.mb m).job with
  | .preempting h => if (d.section? h).any (fun s => s.state = .preempting) then d else endDone m d
  | .offline c =>
    if (coreSection d c).any (fun s => s.state = .running || s.state = .preempting) then d else endDone m (resetIdleCore c d)
  | .cancelling t => if (d.mb t).job.stops then d else endDone m d
  | _ => d

theorem settleJobs_eq (d : Device) : settleJobs d = (List.range 16).foldl settleJob d := rfl

/-- A turn ends its command, after calm work, or does nothing. -/
theorem settleJob_cases (d : Device) (m : Nat) :
    settleJob d m = d ∨ ((d.mb m).job.settles = true ∧ ∃ e, Calm d e ∧ settleJob d m = endDone m e) := by
  unfold settleJob
  split
  case h_1 hj =>
    split
    · exact .inl rfl
    · exact .inr ⟨by rw [hj]; rfl, d, .refl, rfl⟩
  case h_2 hj =>
    split
    · exact .inl rfl
    · exact .inr ⟨by rw [hj]; rfl, _, .resetIdleCore .refl, rfl⟩
  case h_3 hj =>
    split
    · exact .inl rfl
    · exact .inr ⟨by rw [hj]; rfl, d, .refl, rfl⟩
  case h_4 => exact .inl rfl

/-- The block stands but for commands that wait for sections: of these some may be DONE. -/
structure Settles (o d : Device) : Prop extends Still o d where
  owner : ∀ c, (d.core c).section_ = (o.core c).section_
  mb : ∀ j, SameRun (o.mb j) (d.mb j) ∨ ((o.mb j).job.settles = true ∧ (d.mb j).state = .done ∧ (d.mb j).job = .none)

theorem Settles.refl {d : Device} : Settles d d := ⟨.refl, fun _ => rfl, fun _ => .inl .refl⟩

theorem Settles.coreSection {o d : Device} (h : Settles o d) (c : Nat) : coreSection d c = coreSection o c := by
  rw [Machine.coreSection, h.owner, funext h.section?]
  rfl

/-- A command whose job does not settle goes on as it is. -/
theorem Settles.sameRun {o d : Device} (h : Settles o d) {j : Nat} (hj : (o.mb j).job.settles = false) :
    SameRun (o.mb j) (d.mb j) :=
  (h.mb j).resolve_right fun hdone => by rw [hdone.1] at hj; cases hj

theorem SameRun.job_of_settles {x y : Mailbox} (h : SameRun x y) (hy : y.job.settles = true) : y.job = x.job :=
  h.job (h.moves.symm.trans (Job.moves_of_settles hy))

theorem SameRun.done {x y : Mailbox} (h : SameRun x y) (hx : x.state = .done ∧ x.job = .none) : y.state = .done ∧ y.job = .none :=
  ⟨h.state.trans hx.1, (h.job (by rw [hx.2]; rfl)).trans hx.2⟩

theorem Settles.settleJob {o d : Device} (h : Settles o d) (m : Nat) : Settles o (settleJob d m) := by
  obtain heq | ⟨hm, e, hcalm, heq⟩ := settleJob_cases d m
  · rwa [heq]
  rw [heq]
  refine ⟨h.toStill.trans (hcalm.toStill.trans (HostWork.endDone .refl).still), fun c => (hcalm.owner c).trans (h.owner c), fun j => ?_⟩
  rw [endDone_mb]
  split
  case isTrue hj =>
    subst hj
    obtain hrun | ⟨_, _, hnone⟩ := h.mb j
    · exact .inr ⟨hrun.job_of_settles hm ▸ hm, rfl, rfl⟩
    · rw [hnone] at hm
      cases hm
  case isFalse =>
    obtain hrun | ⟨hs, hdone⟩ := h.mb j
    · exact .inl (hrun.trans (hcalm.mb j))
    · exact .inr ⟨hs, (hcalm.mb j).done hdone⟩

theorem Settles.foldl {o d : Device} (h : Settles o d) (l : List Nat) : Settles o (l.foldl Machine.settleJob d) :=
  List.foldlRecOn l _ h fun _ he m _ => he.settleJob m

theorem settleJobs_settles (d : Device) : Settles d (settleJobs d) := Settles.refl.foldl _

/-- CORE_OFFLINE ends DONE where no section that runs or is being pre-empted holds its core. -/
theorem settleJobs_offline_done {d : Device} {k c : Nat} (hk : k < 16) (hj : (d.mb k).job = .offline c)
    (hfree : coreSection d c = none) : ((settleJobs d).mb k).state = .done := by
  obtain ⟨l₁, l₂, hl⟩ := List.append_of_mem (List.mem_range.mpr hk)
  rw [settleJobs_eq, hl, List.foldl_append, List.foldl_cons]
  have hbefore : Settles d (l₁.foldl settleJob d) := Settles.refl.foldl l₁
  have hturn : ((settleJob (l₁.foldl settleJob d) k).mb k).state = .done ∧ ((settleJob (l₁.foldl settleJob d) k).mb k).job = .none := by
    obtain hrun | ⟨_, hdone⟩ := hbefore.mb k
    · have hjob := (hrun.job (by rw [hj]; rfl)).trans hj
      have hcore := (hbefore.coreSection c).trans hfree
      simp [settleJob, hjob, hcore, endDone_mb_same, Mailbox.ended]
    · simpa [settleJob, hdone.2] using hdone
  exact (((Settles.refl.foldl l₂).sameRun (by rw [hturn.2]; rfl)).done hturn).1

/-- CORE_OFFLINE waits while a section that runs or is being pre-empted holds its core. -/
theorem settleJobs_offline_waits {d : Device} {k c : Nat} {sec : Section} (hj : (d.mb k).job = .offline c)
    (hheld : coreSection d c = some sec) (hstate : sec.state = .preempting) : SameRun (d.mb k) ((settleJobs d).mb k) := by
  refine (List.foldlRecOn (motive := fun e => Settles d e ∧ SameRun (d.mb k) (e.mb k)) (List.range 16) settleJob
    ⟨.refl, .refl⟩ fun e ⟨hset, hrun⟩ m _ => ⟨hset.settleJob m, ?_⟩).2
  by_cases hm : m = k
  · subst hm
    have hjob := (hrun.job (by rw [hj]; rfl)).trans hj
    have hcore := (hset.coreSection c).trans hheld
    simpa [settleJob, hjob, hcore, hstate] using hrun
  · obtain heq | ⟨_, f, hcalm, heq⟩ := settleJob_cases e m
    · rwa [heq]
    · rw [heq, endDone_mb, if_neg (Ne.symm hm)]
      exact hrun.trans (hcalm.mb k)

/-! ### Lost cores return (R372) -/

theorem coreReturns_foldl (l : List Nat) (d : Device) : ∃ off,
    l.foldl (fun d k => coreReturns k d) d = { d with sched := { d.sched with offline := off } } := by
  induction l generalizing d with
  | nil => exact ⟨_, rfl⟩
  | cons c l ih =>
    have hc : ∃ off, coreReturns c d = { d with sched := { d.sched with offline := off } } := by
      unfold coreReturns
      split <;> exact ⟨_, rfl⟩
    obtain ⟨off, hoff⟩ := hc
    obtain ⟨off', hall⟩ := ih (coreReturns c d)
    refine ⟨off', ?_⟩
    rw [List.foldl_cons, hall, hoff]

theorem lostReturns_frame (h : Nat) (d : Device) : ∃ off secs,
    lostReturns h d = { d with sched := { d.sched with offline := off }, sections := secs } := by
  unfold lostReturns
  split
  case h_1 c rest _ =>
    obtain ⟨off, hoff⟩ := coreReturns_foldl (c :: rest) d
    rw [hoff]
    exact ⟨_, _, rfl⟩
  case h_2 => exact ⟨_, _, rfl⟩

/-- The section is stopped for no core any more. -/
theorem lostReturns_section {h : Nat} {d : Device} {sec : Section} (hs : d.section? h = some sec) :
    ∃ auto_, (lostReturns h d).section? h = some { sec with lostCores := [], autoResume := auto_ } := by
  unfold lostReturns
  rw [hs]
  split
  case h_1 c rest hlost =>
    obtain ⟨off, hoff⟩ := coreReturns_foldl (c :: rest) d
    rw [hoff]
    exact ⟨_, (Device.section?_updSection
      (f := fun s => { s with lostCores := [], autoResume := s.autoResume && s.state = .preempted }) fun _ hk => hk).trans
      (congrArg (Option.map _) hs)⟩
  case h_2 hlost =>
    have hnil : sec.lostCores = [] := by
      cases hl : sec.lostCores with
      | nil => rfl
      | cons c rest => exact absurd (congrArg some hl) (hlost c rest)
    exact ⟨sec.autoResume, by rw [hs, ← hnil]⟩

theorem lostReturns_done (h : Nat) (d : Device) : (lostReturns h d).sched.done = d.sched.done := by
  obtain ⟨off, secs, heq⟩ := lostReturns_frame h d
  rw [heq]

theorem lostReturns_core (h c : Nat) (d : Device) : (lostReturns h d).core c = d.core c := by
  obtain ⟨off, secs, heq⟩ := lostReturns_frame h d
  rw [heq]
  rfl

theorem lostReturns_mb (h j : Nat) (d : Device) : (lostReturns h d).mb j = d.mb j := by
  obtain ⟨off, secs, heq⟩ := lostReturns_frame h d
  rw [heq]
  rfl

/-! ### A section is halted (R427, R559) -/

/-- The command of a halted section ends. -/
def failCommand (sec : Section) (code : BitVec 8) (d : Device) : Device :=
  match liveMbx d sec with | some m => releaseStages m (endFailed m code (endComparing m d)) | none => d

theorem failCommand_frame (sec : Section) (code : BitVec 8) (d : Device) : (failCommand sec code d).sched = d.sched
    ∧ ∃ g : Section → Section, (∀ s, (g s).handle = s.handle) ∧ (failCommand sec code d).sections = d.sections.map g := by
  unfold failCommand
  split
  case h_1 m _ =>
    have hcompare : Still d (endComparing m d) := by
      unfold endComparing
      split <;> exact ⟨rfl, rfl, rfl⟩
    have hfail : Still d (endFailed m code (endComparing m d)) := hcompare.trans (HostWork.endFailed .refl).still
    refine ⟨hfail.sched, _, fun s => ?_, congrArg _ hfail.sections⟩
    split <;> rfl
  case h_2 => exact ⟨rfl, id, fun _ => rfl, (List.map_id _).symm⟩

/-- The records, stages and streams of a section that is halted: all that comes before its own state changes. -/
def haltWork (sec : Section) (code : BitVec 8) (d : Device) : Device :=
  let d := sendHalts sec.cores d
  closeEndpoints sec (failCommand sec code
    (if sec.state = .running || sec.state = .preempting || stopsNow d sec then writeRecords sec sec.cores d else d))

theorem haltSection_eq {h : Nat} {code : BitVec 8} {d : Device} {sec : Section} (hs : d.section? h = some sec) :
    haltSection h code d = settleJobs (lostReturns h (failWaiting h 0x02
      ((haltWork sec code d).updSection h fun s => { s with state := .halted, mbx := none }))) := by
  unfold haltSection
  rw [hs]
  rfl

theorem haltWork_frame (sec : Section) (code : BitVec 8) (d : Device) : (haltWork sec code d).sched = d.sched
    ∧ ∃ g : Section → Section, (∀ s, (g s).handle = s.handle) ∧ (haltWork sec code d).sections = d.sections.map g := by
  have hbefore : ∀ {c : Prop} {_ : Decidable c},
      Calm d (if c then writeRecords sec sec.cores (sendHalts sec.cores d) else sendHalts sec.cores d) :=
    .ite (.tierWork (.sendHalts .refl) (.writeRecords .refl)) (.sendHalts .refl)
  obtain ⟨hsched, g, hg, hsections⟩ := failCommand_frame sec code
    (if sec.state = .running || sec.state = .preempting || stopsNow (sendHalts sec.cores d) sec
      then writeRecords sec sec.cores (sendHalts sec.cores d) else sendHalts sec.cores d)
  have hafter : Calm _ (haltWork sec code d) := .closeEndpoints .refl
  exact ⟨hafter.sched.trans (hsched.trans hbefore.sched), g, hg, hafter.sections.trans (hsections.trans (by rw [hbefore.sections]))⟩

/-- The count of pre-emptions does not change when a section is halted. -/
theorem haltSection_done (h : Nat) (code : BitVec 8) (d : Device) : (haltSection h code d).sched.done = d.sched.done := by
  cases hs : d.section? h with
  | none =>
    unfold haltSection
    rw [hs]
  | some sec =>
    rw [haltSection_eq hs, (settleJobs_settles _).sched, lostReturns_done, (HostWork.failWaiting .refl).still.sched]
    exact congrArg Sched.done (haltWork_frame sec code d).1

/-- A section that is there is halted. -/
theorem haltSection_state {h : Nat} {code : BitVec 8} {d : Device} {sec : Section} (hs : d.section? h = some sec) :
    ((haltSection h code d).section? h).map (·.state) = some .halted := by
  obtain ⟨-, g, hg, hsections⟩ := haltWork_frame sec code d
  have hwork : (haltWork sec code d).section? h = some (g sec) := by
    rw [Device.section?, hsections, find?_handle_map _ fun s => by rw [hg], ← Device.section?, hs]
    rfl
  have hhalted := ((HostWork.failWaiting (h := h) (code := 0x02) .refl).still.section? h).trans
    ((Device.section?_updSection (f := fun s => { s with state := .halted, mbx := none }) fun _ hk => hk).trans
      (congrArg (Option.map _) hwork))
  obtain ⟨auto_, hreturned⟩ := lostReturns_section hhalted
  rw [haltSection_eq hs, (settleJobs_settles _).section?, hreturned]
  rfl

/-! ### Stores complete, with or without a halt (R262, R560) -/

theorem flushEntry_done (c q : Nat) (e : StoreEntry) (d : Device) : (flushEntry c q e d).sched.done = d.sched.done := by
  unfold flushEntry
  split
  case h_1 => rw [haltSection_done]; exact congrArg Sched.done (Calm.replyAccess (.dropStore .refl)).sched
  case h_2 => exact congrArg Sched.done (Calm.lastStore .refl).sched

theorem flushCore_done (c : Nat) (d : Device) : (flushCore c d).sched.done = d.sched.done := by
  unfold flushCore
  refine (congrArg Sched.done (Calm.noPending .refl).sched).trans ?_
  refine List.foldlRecOn (motive := fun e : Device => e.sched.done = d.sched.done) _ _ rfl fun e he q _ => ?_
  exact List.foldlRecOn (motive := fun e : Device => e.sched.done = d.sched.done) _ _ he fun e he entry _ =>
    (flushEntry_done ..).trans he

theorem flushStores_done (cores : List Nat) (d : Device) : (flushStores cores d).sched.done = d.sched.done :=
  List.foldlRecOn (motive := fun e : Device => e.sched.done = d.sched.done) _ _ rfl fun _ he _ _ => (flushCore_done ..).trans he

end Sys2Proof.Machine
end

section
/-!
PROOFS. A rung command that passes its checks is accepted and starts (R416, R417, Table 13.6): PREEMPT, RESUME, CORE_OFFLINE and
CORE_ONLINE.
-/
namespace Sys2Proof.Machine
open Sys2Proof.Safety
set_option Elab.async false

/-! ### Acceptance -/

/-- The mailbox of a command that is accepted as number `n`. -/
def Mailbox.accept (x : Mailbox) (n now : Nat) : Mailbox :=
  { x with state := .accepted, error := 0, order := n, since := now, rung := false }

/-- The block once the command of mailbox `m` has been accepted. -/
def accepted (m : Nat) (d : Device) : Device :=
  let e := d.setMb m ((d.mb m).accept d.host.orders d.now)
  { e with host := { e.host with orders := d.host.orders + 1 } }

theorem accepted_mb (m j : Nat) (d : Device) :
    (accepted m d).mb j = if j = m then (d.mb m).accept d.host.orders d.now else d.mb j := Device.mb_setMb ..

theorem accepted_mb_same (m : Nat) (d : Device) : (accepted m d).mb m = (d.mb m).accept d.host.orders d.now := by
  rw [accepted_mb, if_pos rfl]

theorem accepted_mb_other {m j : Nat} (d : Device) (h : j ≠ m) : (accepted m d).mb j = d.mb j := by
  rw [accepted_mb, if_neg h]

theorem acceptCmd_eq_accepted {op m : Nat} {check : Check} {d : Device} (h : Rung d m op) (hgated : gatedOp op = false)
    (hcheck : check d (d.mb m) = 0) : acceptCmd op check m d = accepted m d := by
  obtain ⟨_, _, _, _, hheld, htrip, _⟩ := h
  simp [acceptCmd, Nat.not_le.mpr hheld, htrip, hcheck, hgated]
  rfl

/-- The accepted command starts. -/
theorem accepted_starts (m : Nat) (d : Device) : (accepted m d).updMb m
    (fun y => { y with state := .running, job := .none, started := (accepted m d).now, progress := 0 }) = taken m d := by
  rw [Device.updMb_eq, accepted_mb_same]
  simp only [accepted, taken, Device.setMb, Tab.set_set]
  rfl

/-- A rung command that passes its check and can start runs. -/
theorem hostCmd_runs {op m : Nat} {check : Check} {can : Device → Nat → Bool} {run : Nat → Device → Device} {d : Device}
    (h : Rung d m op) (hgated : gatedOp op = false) (hcheck : check d (d.mb m) = 0) (hcan : can (accepted m d) m = true) :
    hostCmd op check can run m d = run m (taken m d) := by
  obtain ⟨hservice, hrung, _, hop, _, _, hchosen⟩ := id h
  have hstarts : (((accepted m d).mb m).opcode = op && ((accepted m d).mb m).state = .accepted && !((accepted m d).mb m).rung
      && !(accepted m d).boot.chosen && can (accepted m d) m) = true := by
    have hchosen' : (accepted m d).boot.chosen = false := hchosen
    have hop' : ((accepted m d).mb m).opcode = op := by rw [accepted_mb_same]; exact hop
    have hstate : ((accepted m d).mb m).state = .accepted := by rw [accepted_mb_same]; rfl
    have hrung' : ((accepted m d).mb m).rung = false := by rw [accepted_mb_same]; rfl
    simp [hop', hstate, hrung', hchosen', hcan]
  unfold hostCmd
  simp only [hservice, hop, hrung, acceptCmd_eq_accepted h hgated hcheck]
  simp only [Bool.not_true, Bool.false_eq_true, ↓reduceIte, decide_true, Bool.and_self, hstarts, accepted_starts]

theorem between_of_rung {d : Device} {m op : Nat} (h : Rung d m op) : (d.mb m).between = false := by
  obtain ⟨_, _, hidle, _⟩ := h
  simp [Mailbox.between, hidle]

/-- The first row of a command that may take several. -/
theorem hostWork_runs {op m : Nat} {check : Check} {can go : Device → Nat → Bool} {run : Nat → Device → Device} {d : Device}
    (h : Rung d m op) (hgated : gatedOp op = false) (hcheck : check d (d.mb m) = 0) (hcan : can (accepted m d) m = true) :
    hostWork op check can go run m d = run m (taken m d) := by
  rw [← hostCmd_runs (run := run) h hgated hcheck hcan]
  simp [hostWork, between_of_rung h]

/-- A further row of it. -/
theorem hostWork_goes {op m : Nat} {check : Check} {can go : Device → Nat → Bool} {run : Nat → Device → Device} {d : Device}
    (hservice : serviceOn d = true) (hop : (d.mb m).opcode = op) (hbetween : (d.mb m).between = true) (hgo : go d m = true) :
    hostWork op check can go run m d = run m d := by
  simp [hostWork, hservice, hop, hbetween, hgo]

/-! ### The block in which the command runs -/

theorem taken_mb_same (m : Nat) (d : Device) : (taken m d).mb m =
    { (d.mb m).accept d.host.orders d.now with state := .running, started := d.now, progress := 0, job := .none } :=
  Device.mb_setMb_same ..

theorem taken_mb_other {m j : Nat} (d : Device) (h : j ≠ m) : (taken m d).mb j = d.mb j :=
  (Device.mb_setMb ..).trans (if_neg h)

theorem taken_arg (m off n : Nat) (d : Device) : ((taken m d).mb m).arg off n = (d.mb m).arg off n := by
  rw [taken_mb_same]
  rfl

/-! ### PREEMPT (Table 14.7, R364) -/

theorem allOf_eq_zero {cs : List (BitVec 8)} (h : allOf cs = 0) : ∀ c ∈ cs, c = 0 := by
  unfold allOf at h
  cases hfind : cs.find? (· != 0) with
  | none => simpa using hfind
  | some c =>
    rw [hfind] at h
    have hne : (c != 0) = true := List.find?_some (p := (· != 0)) hfind
    simp only [Option.getD_some] at h
    simp [h] at hne

theorem checkPreempt_fits {d : Device} {x : Mailbox} {sec : Section} (h : checkPreempt d x = 0)
    (hs : d.section? (x.arg 0 4) = some sec) (hstate : sec.state = .idle ∨ sec.state = .running) : saveFits d sec = true := by
  have hname := allOf_eq_zero h _ (List.mem_cons_of_mem _ (List.mem_singleton_self _))
  unfold naming at hname
  rw [hs] at hname
  dsimp only at hname
  have hlive : (sec.state = .idle || sec.state = .running) = true := by simpa using hstate
  have hplaced : (sec.state = .halted || sec.state = .loading || sec.state = .forming) = false := by
    obtain hstate | hstate := hstate <;> simp [hstate]
  rw [hplaced, hlive, Bool.false_or, Bool.true_and] at hname
  cases hfits : saveFits d sec with
  | true => rfl
  | false =>
    rw [hfits] at hname
    cases hlinks : hasLinks sec.pkg <;> simp [hlinks] at hname

/-- PREEMPT of an idle section, of a running one and of one that is being pre-empted begins at once where no region load came
before it. -/
theorem canPreempt_accepted {d : Device} {k : Nat} {sec : Section} (h : Rung d k 0x15) (hcheck : checkPreempt d (d.mb k) = 0)
    (hs : d.section? ((d.mb k).arg 0 4) = some sec) (hregion : regionPending d ((d.mb k).arg 0 4) = false)
    (hfirst : ∀ j, j < 16 → j ≠ k → ¬((d.mb j).opcode = 0x18 ∧ (d.mb j).state = .accepted ∧ (d.mb j).rung = false
      ∧ (d.mb j).arg 0 4 = (d.mb k).arg 0 4)) : canPreempt (accepted k d) k = true := by
  obtain ⟨_, _, _, hop, _⟩ := h
  have harg : ((accepted k d).mb k).arg 0 4 = (d.mb k).arg 0 4 := by
    rw [accepted_mb_same]
    rfl
  have hjobs : regionPending (accepted k d) ((d.mb k).arg 0 4) = regionPending d ((d.mb k).arg 0 4) := by
    have hjob : ∀ m, ((accepted k d).mb m).job = (d.mb m).job := fun m => by
      rw [accepted_mb]
      split
      · subst_vars
        rfl
      · rfl
    simp only [regionPending, hjob]
  have hqueue : ∀ j ∈ List.range 16, (!(((accepted k d).mb j).opcode = 0x18 && ((accepted k d).mb j).state = .accepted
      && !((accepted k d).mb j).rung && ((accepted k d).mb j).arg 0 4 = (d.mb k).arg 0 4)
      || ((accepted k d).mb k).order < ((accepted k d).mb j).order) = true := by
    intro j hj
    by_cases hjk : j = k
    · subst hjk
      have hop' : ((accepted j d).mb j).opcode = 0x15 := by rw [accepted_mb_same]; exact hop
      simp [hop']
    · rw [accepted_mb_other d hjk]
      simp only [Bool.or_eq_true, Bool.not_eq_true', Bool.and_eq_false_imp]
      exact .inl (by simpa using hfirst j (List.mem_range.mp hj) hjk)
  have hfits : (d.section? ((d.mb k).arg 0 4)).all
      (fun s => !(s.state = .idle || s.state = .running) || saveFits (accepted k d) s) = true := by
    rw [hs, Option.all_some]
    by_cases hstate : sec.state = .idle ∨ sec.state = .running
    · have hfit : saveFits (accepted k d) sec = true := checkPreempt_fits hcheck hs hstate
      simp [hfit]
    · have hother : (sec.state = .idle || sec.state = .running) = false := by simpa using hstate
      rw [hother]
      rfl
  unfold canPreempt
  simp only [harg, hjobs, hregion, Bool.not_false, Bool.true_and, Bool.and_eq_true, List.all_eq_true]
  exact ⟨hqueue, hfits⟩

/-! ### RESUME (R291) -/

/-- A RESUME that has started stands in the order of placements as it stood when it was accepted. -/
theorem placeTurn_taken (k : Nat) (d : Device) : placeTurn (taken k d) k = placeTurn (accepted k d) k := by
  have horder : ((taken k d).mb k).order = ((accepted k d).mb k).order := by rw [taken_mb_same, accepted_mb_same]
  unfold placeTurn
  refine congrArg (List.all _) (funext fun j => ?_)
  by_cases hj : j = k
  · simp [hj]
  · simp only [taken_mb_other d hj, accepted_mb_other d hj, horder]

end Sys2Proof.Machine
end

section
/-!
PROOFS. Pre-emption: the save of a section that is quiescent (R222, R360 to R362, Table 11.4).
-/
namespace Sys2Proof.Machine
open Sys2Proof.Safety
set_option Elab.async false

/-! ### The cores of a saved section are free (R294) -/

/-- A core is free, with no message on its way to it. -/
def dropCore (c : Nat) (d : Device) : Device :=
  let d := (d.updCore c freeCore).setCtrl c []
  { d with sync := { d.sync with chan := Tab.erase d.sync.chan c, releases := Tab.erase d.sync.releases c } }

/-- One core of a section is released. -/
def releaseCore (d : Device) (c : Nat) : Device := dropCore c ((coreUnits c).foldl (fun d u => d.updUnit u clearUnit) d)

theorem releaseCores_eq (sec : Section) (d : Device) :
    releaseCores sec d = freePages (storePagesOf sec) (sec.cores.foldl releaseCore (releaseSpills sec d)) := rfl

/-- The sections, the registers and every command stand; `mb` is that of `Calm`. -/
structure Runs (o d : Device) : Prop extends Still o d where
  mb : ∀ j, SameRun (o.mb j) (d.mb j)

theorem Runs.refl {d : Device} : Runs d d := ⟨.refl, fun _ => .refl⟩

theorem Runs.trans {a b c : Device} (h : Runs a b) (k : Runs b c) : Runs a c :=
  ⟨h.toStill.trans k.toStill, fun j => (h.mb j).trans (k.mb j)⟩

theorem Calm.runs {o d : Device} (h : Calm o d) : Runs o d := ⟨h.toStill, h.mb⟩

theorem dropCore_core (d : Device) (c k : Nat) :
    ((dropCore c d).core k).section_ = if k = c then none else (d.core k).section_ := by
  refine (congrArg Core.section_ (Device.core_setCore ..)).trans ?_
  split <;> rfl

theorem dropCore_runs (d : Device) (c : Nat) : Runs d (dropCore c d) := ⟨⟨rfl, rfl, rfl⟩, fun _ => .refl⟩

theorem clearUnits_calm (l : List Nat) (d : Device) : Calm d (l.foldl (fun d u => d.updUnit u clearUnit) d) :=
  .foldl .refl fun _ _ he => .updUnit he

theorem releaseCore_core (d : Device) (c k : Nat) :
    ((releaseCore d c).core k).section_ = if k = c then none else (d.core k).section_ := by
  rw [releaseCore, dropCore_core, (clearUnits_calm (coreUnits c) d).owner]

theorem releaseCore_runs (d : Device) (c : Nat) : Runs d (releaseCore d c) :=
  (clearUnits_calm (coreUnits c) d).runs.trans (dropCore_runs ..)

theorem releaseCore_foldl (cores : List Nat) (d : Device) : Runs d (cores.foldl releaseCore d)
    ∧ ∀ c, c ∈ cores ∨ (d.core c).section_ = none → ((cores.foldl releaseCore d).core c).section_ = none := by
  induction cores generalizing d with
  | nil =>
    rw [List.foldl_nil]
    exact ⟨.refl, fun c hc => hc.resolve_left List.not_mem_nil⟩
  | cons k cores ih =>
    obtain ⟨hruns, hfree⟩ := ih (releaseCore d k)
    rw [List.foldl_cons]
    refine ⟨(releaseCore_runs d k).trans hruns, fun c hc => hfree c ?_⟩
    rw [releaseCore_core]
    by_cases hck : c = k
    · exact .inr (if_pos hck)
    · rw [if_neg hck]
      exact hc.imp_left fun hmem => (List.mem_cons.mp hmem).resolve_left hck

/-- The cores of a section that is released are free; the sections and the commands stand. -/
theorem releaseCores_frees (sec : Section) (d : Device) : Runs d (releaseCores sec d)
    ∧ ∀ c ∈ sec.cores, ((releaseCores sec d).core c).section_ = none := by
  have hspills : Calm d (releaseSpills sec d) := .foldl .refl fun _ _ he => .updUnit he
  obtain ⟨hruns, hfree⟩ := releaseCore_foldl sec.cores (releaseSpills sec d)
  have hpages := Calm.refl.tierWork (.freePages (ps := storePagesOf sec) (d := sec.cores.foldl releaseCore (releaseSpills sec d)) .refl)
  rw [releaseCores_eq]
  exact ⟨hspills.runs.trans (hruns.trans hpages.runs), fun c hc => (hpages.owner c).trans (hfree c (.inl hc))⟩

/-! ### What a save reads (R216, R561) -/

theorem muCorrected_ctxs (u word v : Nat) (cls : Bool) (d : Device) : ((muCorrected u word cls d).unit v).ctxs = (d.unit v).ctxs := by
  refine (congrArg Unit.ctxs (Device.unit_setUnit ..)).trans ?_
  split
  · subst_vars
    rfl
  · rfl

theorem recordsPoison_muCorrected (u word : Nat) (cls : Bool) (d : Device) (sec : Section) :
    recordsPoison (muCorrected u word cls d) sec = recordsPoison d sec := by
  simp only [recordsPoison, muCorrected_ctxs]
  rfl

/-- A save that finds no uncorrected error goes on as before. -/
theorem saveRead_clean {sec : Section} {err : MuErr} (h : ∀ r ∈ err, r.2.2 ≠ .uncorrected) (d : Device) :
    Calm d (saveRead sec err d) ∧ recordsPoison (saveRead sec err d) sec = recordsPoison d sec := by
  unfold saveRead
  split
  case h_1 => exact ⟨.refl, rfl⟩
  case h_2 u w e =>
    split
    case isTrue => exact ⟨.refl, rfl⟩
    case isFalse =>
      dsimp only
      split
      case h_1 => exact absurd rfl (h _ rfl)
      case h_2 => exact ⟨.muCorrected .refl, recordsPoison_muCorrected ..⟩
      case h_3 => exact ⟨.refl, rfl⟩

/-! ### The save (Orders 4 to 6 of Table 11.4) -/

/-- The block of a section whose words and stores are settled. -/
def settledBlock (sec : Section) (d : Device) : Device := flushStores sec.cores (settleTokens sec (settleSync sec d))

theorem settledBlock_done (sec : Section) (d : Device) : (settledBlock sec d).sched.done = d.sched.done := by
  rw [settledBlock, flushStores_done]
  exact congrArg Sched.done (Calm.settleTokens (.settleSync .refl)).sched

/-- The section becomes PREEMPTED with its save. -/
def putSave (h : Nat) (v : Save) (t : Nat) (d : Device) : Device :=
  let d := d.updSection h (fun s => { s with state := .preempted, save := some v, spills := [], storePages := [] })
  { d with sched := { d.sched with done := satAdd d.sched.done 1, saveUs := BitVec.ofNat 32 t } }

/-- The section's command is PREEMPTED with it. -/
def suspendRun (sec : Section) (d : Device) : Device :=
  match runsNow d sec with
  | some m => d.updMb m (fun x => if x.state.started then { x with state := .preempted } else x)
  | none => d

theorem suspendRun_host (sec : Section) (d : Device) : HostWork d (suspendRun sec d) := by
  unfold suspendRun
  split
  · exact .updMb .refl
  · exact .refl

theorem suspendRun_preempted {sec : Section} {d : Device} {j h g : Nat} (hj : sec.mbx = some j) (hh : sec.handle = h)
    (hjob : (d.mb j).job = .run h g) (hstarted : (d.mb j).state.started = true) :
    ((suspendRun sec d).mb j).state = .preempted ∧ ((suspendRun sec d).mb j).job = .run h g := by
  have hruns : runsNow d sec = some j := by simp [runsNow, hj, Option.filter, hjob, hh]
  have hput : (suspendRun sec d).mb j = { d.mb j with state := .preempted } := by
    unfold suspendRun
    rw [hruns]
    exact (Device.mb_setMb_same ..).trans (if_pos hstarted)
  rw [hput]
  exact ⟨rfl, hjob⟩

/-- The section's cores are released, its records written, and nothing of it is left on its way. -/
def releasedBlock (sec : Section) (err : MuErr) (d : Device) : Device :=
  clearBarriers false sec.handle (releaseCores sec (writeRecords sec sec.cores (saveRead sec err (settledBlock sec d))))

theorem releasedBlock_runs {sec : Section} {err : MuErr} (hclean : ∀ r ∈ err, r.2.2 ≠ .uncorrected) (d : Device) :
    Runs (settledBlock sec d) (releasedBlock sec err d) ∧ ∀ c ∈ sec.cores, ((releasedBlock sec err d).core c).section_ = none := by
  obtain ⟨hread, -⟩ := saveRead_clean (sec := sec) hclean (settledBlock sec d)
  obtain ⟨hfree, howner⟩ := releaseCores_frees sec (writeRecords sec sec.cores (saveRead sec err (settledBlock sec d)))
  exact ⟨(hread.tierWork (.writeRecords .refl)).runs.trans (hfree.trans (Calm.clearBarriers .refl).runs), howner⟩

/-- The save of a section whose settling halts nothing and whose records lie in sound pages. -/
theorem savePreempt_eq {h : Nat} {forced : Bool} {err : MuErr} {d : Device} {sec : Section} (hs : d.section? h = some sec)
    (hstate : sec.state ≠ .halted) (hsettled : (settledBlock sec d).section? h = some sec)
    (hpoison : recordsPoison (settledBlock sec d) sec = none) (hclean : ∀ r ∈ err, r.2.2 ≠ .uncorrected) :
    ∃ v t, savePreempt h forced err d
      = settleJobs (lostReturns h (suspendRun sec (putSave h v t (releasedBlock sec err d)))) := by
  obtain ⟨hread, hpages⟩ := saveRead_clean (sec := sec) hclean (settledBlock sec d)
  have hlive : ((saveRead sec err (settledBlock sec d)).section? h).any (fun s => s.state = .halted) = false := by
    rw [hread.section?, hsettled]
    simpa using hstate
  obtain rfl := handle_of_section? hs
  unfold savePreempt
  rw [hs]
  dsimp only
  rw [← settledBlock, hlive, hpages, hpoison]
  exact ⟨_, _, rfl⟩

/-- R360 to R362: the section is PREEMPTED with its save, and its cores are free. -/
theorem savePreempt_saves {h : Nat} {forced : Bool} {err : MuErr} {d : Device} {sec : Section} (hs : d.section? h = some sec)
    (hstate : sec.state ≠ .halted) (hsettled : (settledBlock sec d).section? h = some sec)
    (hpoison : recordsPoison (settledBlock sec d) sec = none) (hclean : ∀ r ∈ err, r.2.2 ≠ .uncorrected) :
    let e := savePreempt h forced err d
    (e.section? h).map (fun t => (t.state, t.save.isSome)) = some (.preempted, true)
      ∧ e.sched.done = satAdd d.sched.done 1 ∧ ∀ c ∈ sec.cores, (e.core c).section_ = none := by
  obtain ⟨v, t, heq⟩ := savePreempt_eq (forced := forced) hs hstate hsettled hpoison hclean
  obtain ⟨hruns, howner⟩ := releasedBlock_runs (sec := sec) hclean d
  have hput : (putSave h v t (releasedBlock sec err d)).section? h
      = some { sec with state := .preempted, save := some v, spills := [], storePages := [] } :=
    (Device.section?_updSection (f := fun s => { s with state := .preempted, save := some v, spills := [], storePages := [] })
      fun _ hk => hk).trans (congrArg (Option.map _) ((hruns.toStill.section? h).trans hsettled))
  have hhost := suspendRun_host sec (putSave h v t (releasedBlock sec err d))
  obtain ⟨auto_, hreturned⟩ := lostReturns_section ((hhost.still.section? h).trans hput)
  have hjobs := settleJobs_settles (lostReturns h (suspendRun sec (putSave h v t (releasedBlock sec err d))))
  dsimp only
  rw [heq]
  refine ⟨?_, ?_, fun c hc => ?_⟩
  · rw [hjobs.section?, hreturned]
    rfl
  · rw [hjobs.sched, lostReturns_done, hhost.still.sched, ← settledBlock_done sec d, ← hruns.sched]
    rfl
  · rw [hjobs.owner, lostReturns_core, hhost.core]
    exact howner c hc

/-- R360: the command of a section that is saved is PREEMPTED. -/
theorem savePreempt_suspends {h j g : Nat} {forced : Bool} {err : MuErr} {d : Device} {sec : Section} (hs : d.section? h = some sec)
    (hstate : sec.state ≠ .halted) (hsettled : (settledBlock sec d).section? h = some sec)
    (hpoison : recordsPoison (settledBlock sec d) sec = none) (hclean : ∀ r ∈ err, r.2.2 ≠ .uncorrected)
    (hj : sec.mbx = some j) (hstarted : ((settledBlock sec d).mb j).state.started = true)
    (hjob : ((settledBlock sec d).mb j).job = .run h g) : ((savePreempt h forced err d).mb j).state = .preempted := by
  obtain ⟨v, t, heq⟩ := savePreempt_eq (forced := forced) hs hstate hsettled hpoison hclean
  obtain ⟨hruns, -⟩ := releasedBlock_runs (sec := sec) hclean d
  have hrun : SameRun ((settledBlock sec d).mb j) ((putSave h v t (releasedBlock sec err d)).mb j) := hruns.mb j
  obtain ⟨hpre, hrunning⟩ := suspendRun_preempted hj (handle_of_section? hs) ((hrun.job (by rw [hjob]; rfl)).trans hjob)
    (by rw [hrun.state]; exact hstarted)
  rw [heq, ((settleJobs_settles _).sameRun (by rw [lostReturns_mb, hrunning]; rfl)).state, lostReturns_mb]
  exact hpre

end Sys2Proof.Machine
end

section
/-!
PROOFS. Pre-emption: the suspend messages of a running section, and a pre-emption that is abandoned (R361, R363, R367, Tables 11.4
and 11.6).
-/
namespace Sys2Proof.Machine
open Sys2Proof.Safety
set_option Elab.async false

/-! ### Cores one after another -/

/-- A fold whose steps leave a value as it is. -/
theorem foldl_misses {ι β : Type} {step : Device → ι → Device} {val : Device → β} {l : List ι}
    (hother : ∀ d, ∀ j ∈ l, val (step d j) = val d) (d : Device) : val (l.foldl step d) = val d :=
  List.foldlRecOn (motive := fun e => val e = val d) l step rfl fun e he j hj => (hother e j hj).trans he

/-- A fold in which one step alone changes a value: it meets the value as it was at first. -/
theorem foldl_meets {ι κ β : Type} {step : Device → ι → Device} {val : Device → β} {key : ι → κ} {l : List ι}
    (hl : (l.map key).Nodup) {i : ι} (hi : i ∈ l) (hother : ∀ d, ∀ j ∈ l, key j ≠ key i → val (step d j) = val d) (d : Device) :
    ∃ e, val e = val d ∧ val (l.foldl step d) = val (step e i) := by
  obtain ⟨l₁, l₂, rfl⟩ := List.append_of_mem hi
  rw [List.map_append, List.map_cons, List.nodup_append] at hl
  obtain ⟨-, hl₂, hdisjoint⟩ := hl
  have hbefore : ∀ j ∈ l₁, key j ≠ key i := fun j hj => hdisjoint _ (List.mem_map_of_mem hj) _ (List.mem_cons_self ..)
  have hafter : ∀ j ∈ l₂, key j ≠ key i := fun j hj heq => (List.nodup_cons.mp hl₂).1 (heq ▸ List.mem_map_of_mem hj)
  refine ⟨l₁.foldl step d, foldl_misses (fun e j hj => hother e j (List.mem_append_left _ hj) (hbefore j hj)) d, ?_⟩
  rw [List.foldl_append, List.foldl_cons]
  exact foldl_misses (fun e j hj => hother e j (List.mem_append_right _ (List.mem_cons_of_mem _ hj)) (hafter j hj)) _

theorem Device.ctrl_setCtrl (d : Device) (c k : Nat) (ms : List CtrlMsg) :
    (d.setCtrl c ms).ctrl k = if k = c then ms else d.ctrl k := by
  by_cases hk : k = c
  · rw [hk, Device.ctrl_setCtrl_same, if_pos rfl]
  rw [if_neg hk, Device.ctrl, Device.setCtrl, Device.quad_updQuad]
  split
  case isTrue hq =>
    have hr : k % 4 ≠ c % 4 := fun hr => hk (by omega)
    rw [Device.ctrl, hq]
    exact (Tab.getD_set ..).trans (if_neg hr)
  case isFalse => rfl

/-! ### Suspend (Orders 1 and 2 of Table 11.4) -/

/-- One core is sent the suspend message. -/
def suspendCore (d : Device) (c : Nat) : Device := pushCtrl c [.suspend] (d.updCore c (fun x => { x with quiesce := 0 }))

theorem suspendCore_same (d : Device) (c : Nat) :
    (suspendCore d c).ctrl c = d.ctrl c ++ [.suspend] ∧ ((suspendCore d c).core c).quiesce = 0 :=
  ⟨Device.ctrl_setCtrl_same .., congrArg Core.quiesce (Device.core_setCore_same ..)⟩

theorem suspendCore_other {c k : Nat} (d : Device) (h : k ≠ c) : (suspendCore d c).ctrl k = d.ctrl k :=
  (Device.ctrl_setCtrl ..).trans (if_neg h)

/-- R361: every core of the section is sent the suspend message, and begins to count its steps. -/
theorem suspendCores_sends {l : List Nat} (hl : l.Nodup) {c : Nat} (hc : c ∈ l) (d : Device) :
    (l.foldl suspendCore d).ctrl c = d.ctrl c ++ [.suspend] ∧ ((l.foldl suspendCore d).core c).quiesce = 0 := by
  obtain ⟨e, he, hctrl⟩ := foldl_meets (step := suspendCore) (val := fun d => d.ctrl c) (key := id) (by rwa [List.map_id]) hc
    (fun d j _ hj => suspendCore_other d (Ne.symm hj)) d
  refine ⟨?_, ?_⟩
  · rw [hctrl, (suspendCore_same e c).1, he]
  · obtain ⟨e, -, hquiesce⟩ := foldl_meets (step := suspendCore) (val := fun d => (d.core c).quiesce) (key := id)
      (by rwa [List.map_id]) hc (fun d j _ hj => congrArg Core.quiesce ((Device.core_setCore ..).trans (if_neg (Ne.symm hj)))) d
    rw [hquiesce]
    exact (suspendCore_same e c).2

theorem suspendCores_calm (l : List Nat) (d : Device) : Calm d (l.foldl suspendCore d) :=
  .foldl .refl fun _ _ he => .pushCtrl (.updCore he)

theorem suspendCores_mgmt (l : List Nat) (d : Device) : (l.foldl suspendCore d).mgmt = d.mgmt :=
  List.foldlRecOn (motive := fun e : Device => e.mgmt = d.mgmt) l suspendCore rfl fun _ he _ _ => he

/-- The section is PREEMPTING from now on. -/
def beginPreempt (h : Nat) (d : Device) : Device :=
  d.updSection h (fun s => { s with state := .preempting, suspendedAt := d.now })

theorem beginPreempt_section {h : Nat} {d : Device} {sec : Section} (hs : d.section? h = some sec) :
    (beginPreempt h d).section? h = some { sec with state := .preempting, suspendedAt := d.now } :=
  (Device.section?_updSection (f := fun s => { s with state := .preempting, suspendedAt := d.now }) fun _ hk => hk).trans
    (congrArg (Option.map _) hs)

theorem startPreempt_suspends {h : Nat} {d : Device} {sec : Section} (hs : d.section? h = some sec)
    (happly : applyBegun d sec = false) : startPreempt h d = beginPreempt h (sec.cores.foldl suspendCore d) := by
  unfold startPreempt sendSuspend
  rw [hs]
  simp only [Option.any_some, happly, Bool.false_eq_true, ↓reduceIte]
  rfl

theorem startPreempt_waits {h : Nat} {d : Device} {sec : Section} (hs : d.section? h = some sec)
    (happly : applyBegun d sec = true) : startPreempt h d = beginPreempt h d := by
  unfold startPreempt
  rw [hs, Option.any_some, happly]
  rfl

/-- In either case the section is PREEMPTING, and but for it the block has done calm work and recorded nothing. -/
theorem startPreempt_cases {h : Nat} {d : Device} {sec : Section} (hs : d.section? h = some sec) :
    ∃ e, Calm d e ∧ e.mgmt = d.mgmt ∧ startPreempt h d = beginPreempt h e := by
  cases happly : applyBegun d sec with
  | true => exact ⟨d, .refl, rfl, startPreempt_waits hs happly⟩
  | false => exact ⟨_, suspendCores_calm sec.cores d, suspendCores_mgmt sec.cores d, startPreempt_suspends hs happly⟩

/-! ### A pre-emption is abandoned (R363) -/

/-- What `continueSeq` reads of a sequencer is the same. -/
structure SameStop (p q : Seq) : Prop where
  state : p.state = q.state
  epochStop : p.epochStop = q.epochStop
  entry : p.entry = q.entry
  count : p.count = q.count

theorem SameStop.refl {p : Seq} : SameStop p p := ⟨rfl, rfl, rfl, rfl⟩

theorem SameStop.trans {p q r : Seq} (h : SameStop p q) (k : SameStop q r) : SameStop p r :=
  ⟨h.state.trans k.state, h.epochStop.trans k.epochStop, h.entry.trans k.entry, h.count.trans k.count⟩

/-- The sequencer goes on at a resume message. -/
def Seq.stopped (q : Seq) : Bool := q.state = .suspended && !q.epochStop

theorem continueSeq_of_stopped {q : Seq} (h : q.stopped = true) :
    continueSeq q = { q with state := if q.entry < q.count then .issuing else .finished } := if_pos h

theorem continueSeq_of_not_stopped {q : Seq} (h : q.stopped = false) : continueSeq q = q := if_neg (by rw [Seq.stopped] at h; simp [h])

theorem SameStop.stopped {p q : Seq} (h : SameStop p q) : p.stopped = q.stopped := by
  rw [Seq.stopped, h.state, h.epochStop]
  rfl

theorem SameStop.continueSeq {p q : Seq} (h : SameStop p q) : SameStop (continueSeq p) (continueSeq q) := by
  cases hq : q.stopped with
  | true =>
    rw [continueSeq_of_stopped hq, continueSeq_of_stopped (h.stopped.trans hq)]
    exact ⟨by rw [h.entry, h.count], h.epochStop, h.entry, h.count⟩
  | false => rwa [continueSeq_of_not_stopped hq, continueSeq_of_not_stopped (h.stopped.trans hq)]

/-- A sequencer that has gone on does not go on again. -/
theorem continueSeq_idem (q : Seq) : continueSeq (continueSeq q) = continueSeq q := by
  cases hq : q.stopped with
  | true =>
    refine continueSeq_of_not_stopped ?_
    rw [continueSeq_of_stopped hq, Seq.stopped]
    dsimp only
    split <;> rfl
  | false => rw [continueSeq_of_not_stopped hq, continueSeq_of_not_stopped hq]

/-- One core of an abandoned pre-emption is told to go on. -/
def goOnCore (d : Device) (c : Nat) : Device :=
  sendResume c (d.updCore c (fun x => { x with quiesce := 0, seq := if x.seq.markEpoch then x.seq else { x.seq with stopAt := none } }))

theorem takeResume_other {c k : Nat} (d : Device) (hk : k ≠ c) :
    (takeResume c d).ctrl k = d.ctrl k ∧ (takeResume c d).core k = d.core k := by
  unfold takeResume
  split
  case isTrue => exact ⟨(Device.ctrl_setCtrl ..).trans (if_neg hk), (Device.core_setCore ..).trans (if_neg hk)⟩
  case isFalse => exact ⟨rfl, rfl⟩

/-- A resume message that meets no other takes effect at once. -/
theorem takeResume_next {c : Nat} {d : Device} (h : d.ctrl c = [.resume]) :
    (takeResume c d).ctrl c = [] ∧ (takeResume c d).core c = { d.core c with seq := continueSeq (d.core c).seq } := by
  unfold takeResume
  rw [h]
  exact ⟨Device.ctrl_setCtrl_same .., updSeq_core ..⟩

/-- A resume message joins the ones before it, or takes effect. -/
theorem takeResume_ctrl_sub (c k : Nat) (d : Device) : ∀ m ∈ (takeResume c d).ctrl k, m ∈ d.ctrl k := by
  by_cases hk : k = c
  · subst hk
    unfold takeResume
    split
    case isTrue =>
      rw [updSeq_ctrl, Device.ctrl_setCtrl_same]
      exact fun _ hm => List.mem_of_mem_tail hm
    case isFalse => exact fun _ hm => hm
  · rw [(takeResume_other d hk).1]
    exact fun _ hm => hm

theorem sendResume_other {c k : Nat} (d : Device) (hk : k ≠ c) :
    (sendResume c d).ctrl k = d.ctrl k ∧ (sendResume c d).core k = d.core k := by
  obtain ⟨hctrl, hcore⟩ := takeResume_other (pushCtrl c [.resume] d) hk
  exact ⟨hctrl.trans ((Device.ctrl_setCtrl ..).trans (if_neg hk)), hcore⟩

/-- A core to which nothing is on its way goes on at once. -/
theorem sendResume_next {c : Nat} {d : Device} (h : d.ctrl c = []) :
    (sendResume c d).ctrl c = [] ∧ (sendResume c d).core c = { d.core c with seq := continueSeq (d.core c).seq } := by
  have hpush : (pushCtrl c [.resume] d).ctrl c = [.resume] := (Device.ctrl_setCtrl_same ..).trans (by rw [h]; rfl)
  exact takeResume_next hpush

theorem sendResume_ctrl_sub (c k : Nat) (d : Device) : ∀ m ∈ (sendResume c d).ctrl k, m = .resume ∨ m ∈ d.ctrl k := by
  intro m hm
  have hpush := takeResume_ctrl_sub c k (pushCtrl c [.resume] d) m hm
  rw [pushCtrl, Device.ctrl_setCtrl] at hpush
  split at hpush
  case isTrue hk =>
    subst hk
    exact (List.mem_append.mp hpush).symm.imp_left List.mem_singleton.mp
  case isFalse => exact .inr hpush

theorem Calm.sendResume {o d : Device} {c : Nat} (h : Calm o d) : Calm o (sendResume c d) := by
  unfold Machine.sendResume takeResume
  exact .ite (.updSeq (.setCtrl (.pushCtrl h))) (.pushCtrl h)

theorem goOnCore_other {c k : Nat} (d : Device) (hk : k ≠ c) :
    (goOnCore d c).ctrl k = d.ctrl k ∧ (goOnCore d c).core k = d.core k := by
  obtain ⟨hctrl, hcore⟩ := sendResume_other (d.updCore c (fun x => { x with
    quiesce := 0, seq := if x.seq.markEpoch then x.seq else { x.seq with stopAt := none } })) hk
  exact ⟨hctrl, hcore.trans ((Device.core_setCore ..).trans (if_neg hk))⟩

theorem goOnCore_next {c : Nat} {d : Device} (h : d.ctrl c = []) :
    (goOnCore d c).ctrl c = [] ∧ SameStop ((goOnCore d c).core c).seq (continueSeq (d.core c).seq) := by
  obtain ⟨hctrl, hcore⟩ := sendResume_next (d := d.updCore c (fun x => { x with
    quiesce := 0, seq := if x.seq.markEpoch then x.seq else { x.seq with stopAt := none } })) h
  refine ⟨hctrl, ?_⟩
  rw [goOnCore, hcore, Device.updCore_eq, Device.core_setCore_same]
  refine SameStop.continueSeq ?_
  dsimp only
  split
  · exact .refl
  · exact ⟨rfl, rfl, rfl, rfl⟩

/-- Every core of the list goes on, where nothing was on its way to it. -/
theorem goOnCores (l : List Nat) {d : Device} {q : Nat} (h : d.ctrl q = []) :
    (l.foldl goOnCore d).ctrl q = []
      ∧ (q ∈ l → SameStop ((l.foldl goOnCore d).core q).seq (continueSeq (d.core q).seq))
      ∧ (q ∉ l → (l.foldl goOnCore d).core q = d.core q) := by
  induction l generalizing d with
  | nil => exact ⟨h, fun hq => absurd hq List.not_mem_nil, fun _ => rfl⟩
  | cons c l ih =>
    rw [List.foldl_cons]
    by_cases hqc : q = c
    · subst hqc
      obtain ⟨hctrl, hseq⟩ := goOnCore_next h
      obtain ⟨hctrl', hin, hout⟩ := ih hctrl
      refine ⟨hctrl', fun _ => ?_, fun hq => absurd (List.mem_cons_self ..) hq⟩
      by_cases hql : q ∈ l
      · have hagain := hseq.continueSeq
        rw [continueSeq_idem] at hagain
        exact (hin hql).trans hagain
      · rw [hout hql]
        exact hseq
    · obtain ⟨hctrl, hcore⟩ := goOnCore_other d hqc
      obtain ⟨hctrl', hin, hout⟩ := ih (hctrl.trans h)
      rw [hcore] at hin hout
      exact ⟨hctrl', fun hq => hin ((List.mem_cons.mp hq).resolve_left hqc), fun hq => hout (mt (List.mem_cons_of_mem _) hq)⟩

theorem goOnCores_sub (l : List Nat) (d : Device) (q : Nat) : ∀ m ∈ (l.foldl goOnCore d).ctrl q, m = .resume ∨ m ∈ d.ctrl q :=
  List.foldlRecOn (motive := fun e : Device => ∀ m ∈ e.ctrl q, m = .resume ∨ m ∈ d.ctrl q) l goOnCore (fun _ hm => .inr hm)
    fun _ he c _ m hm => (sendResume_ctrl_sub c q _ m hm).elim .inl (he m)

theorem goOnCores_calm (l : List Nat) (d : Device) : Calm d (l.foldl goOnCore d) :=
  .foldl .refl fun _ _ he => .sendResume (.updCore he)

/-! ### What is withdrawn (Table 11.6) -/

/-- The suspend messages on their way to a core are withdrawn. -/
def dropSuspend (d : Device) (c : Nat) : Device := d.setCtrl c ((d.ctrl c).filter (fun m => m != .suspend))

theorem dropSuspend_sub (d : Device) (c q : Nat) : ∀ m ∈ (dropSuspend d c).ctrl q, m ∈ d.ctrl q := by
  intro m hm
  rw [dropSuspend, Device.ctrl_setCtrl] at hm
  split at hm
  case isTrue hq => rw [hq]; exact List.mem_of_mem_filter hm
  case isFalse => exact hm

theorem dropSuspends_sub (l : List Nat) (d : Device) (q : Nat) : ∀ m ∈ (l.foldl dropSuspend d).ctrl q, m ∈ d.ctrl q :=
  List.foldlRecOn (motive := fun e : Device => ∀ m ∈ e.ctrl q, m ∈ d.ctrl q) l dropSuspend (fun _ hm => hm)
    fun _ he c _ m hm => he m (dropSuspend_sub _ c q m hm)

theorem dropSuspends_none {l : List Nat} {q : Nat} (hq : q ∈ l) (d : Device) : .suspend ∉ (l.foldl dropSuspend d).ctrl q := by
  obtain ⟨l₁, l₂, rfl⟩ := List.append_of_mem hq
  rw [List.foldl_append, List.foldl_cons]
  refine mt (dropSuspends_sub l₂ _ q _) ?_
  rw [dropSuspend, Device.ctrl_setCtrl_same]
  simp

/-- A core to which only suspend messages were on their way has none left. -/
theorem dropSuspends_nil {l : List Nat} {q : Nat} (hq : q ∈ l) {d : Device} (h : ∀ m ∈ d.ctrl q, m = .suspend) :
    (l.foldl dropSuspend d).ctrl q = [] :=
  List.eq_nil_iff_forall_not_mem.mpr fun m hm =>
    dropSuspends_none hq d (h m (dropSuspends_sub l d q m hm) ▸ hm)

theorem dropSuspends_cores (l : List Nat) (d : Device) : (l.foldl dropSuspend d).cores = d.cores :=
  List.foldlRecOn (motive := fun e : Device => e.cores = d.cores) l dropSuspend rfl fun _ he _ _ => he

theorem dropSuspends_calm (l : List Nat) (d : Device) : Calm d (l.foldl dropSuspend d) := .foldl .refl fun _ _ he => .setCtrl he

/-! ### The pre-emption is abandoned -/

/-- A record changes the log alone. -/
theorem log_frame (typ subject data : Nat) (d : Device) :
    ∃ m, log typ subject data d = { d with mgmt := m } ∧ m.defects = d.mgmt.defects := by
  have hsecond : ∃ m, newSecond d = { d with mgmt := m } ∧ m.defects = d.mgmt.defects := by
    unfold newSecond
    dsimp only
    split <;> exact ⟨_, rfl, rfl⟩
  obtain ⟨m, hm, hdefects⟩ := hsecond
  unfold log logRec
  dsimp only
  rw [hm]
  split <;> split
  · exact ⟨_, rfl, hdefects⟩
  · exact ⟨_, rfl, hdefects⟩
  · exact ⟨_, rfl, rfl⟩
  · exact ⟨_, rfl, rfl⟩

/-- The section runs again, and the end of its pre-emption is counted. -/
def endPreempt (h : Nat) (d : Device) : Device :=
  let d := lostReturns h (d.updSection h (fun s => { s with state := .running, markNext := false }))
  { d with sched := { d.sched with abandoned := satAdd d.sched.abandoned 1 } }

theorem endPreempt_frame (h : Nat) (d : Device) : (endPreempt h d).sched.abandoned = satAdd d.sched.abandoned 1
    ∧ ∀ q, (endPreempt h d).ctrl q = d.ctrl q ∧ (endPreempt h d).core q = d.core q := by
  obtain ⟨off, secs, heq⟩ := lostReturns_frame h (d.updSection h (fun s => { s with state := .running, markNext := false }))
  unfold endPreempt
  rw [heq]
  exact ⟨rfl, fun _ => ⟨rfl, rfl⟩⟩

theorem endPreempt_section {h : Nat} {d : Device} {sec : Section} (hs : d.section? h = some sec) :
    ((endPreempt h d).section? h).map (fun t => (t.state, t.lostCores)) = some (.running, []) := by
  obtain ⟨auto_, hreturned⟩ := lostReturns_section
    ((Device.section?_updSection (f := fun s => { s with state := .running, markNext := false }) fun _ hk => hk).trans
      (congrArg (Option.map _) hs))
  exact congrArg (Option.map fun t : Section => (t.state, t.lostCores)) hreturned

theorem abandonPreempt_eq {h : Nat} {d : Device} {sec : Section} (hs : d.section? h = some sec) :
    abandonPreempt h d = endAbandoned h (log 0x13 h 0 (endPreempt h (sec.cores.foldl goOnCore (sec.cores.foldl dropSuspend d)))) := by
  unfold abandonPreempt
  rw [hs]
  rfl

/-- R363: the section runs on, and no suspend message is on its way to its cores. -/
theorem abandonPreempt_goes {h : Nat} {d : Device} {sec : Section} (hs : d.section? h = some sec) :
    let e := abandonPreempt h d
    (e.section? h).map (fun t => (t.state, t.lostCores)) = some (.running, [])
      ∧ e.sched.abandoned = satAdd d.sched.abandoned 1
      ∧ ∀ q ∈ sec.cores, .suspend ∉ e.ctrl q
        ∧ ((∀ g ∈ d.ctrl q, g = .suspend) → (e.core q).seq.state = (continueSeq (d.core q).seq).state) := by
  intro e
  have hcalm : Calm d (sec.cores.foldl goOnCore (sec.cores.foldl dropSuspend d)) :=
    (dropSuspends_calm ..).trans (goOnCores_calm ..)
  obtain ⟨habandoned, hcores⟩ := endPreempt_frame h (sec.cores.foldl goOnCore (sec.cores.foldl dropSuspend d))
  obtain ⟨m, hlog, -⟩ := log_frame 0x13 h 0 (endPreempt h (sec.cores.foldl goOnCore (sec.cores.foldl dropSuspend d)))
  have hend : HostWork { endPreempt h (sec.cores.foldl goOnCore (sec.cores.foldl dropSuspend d)) with mgmt := m } e := by
    have heq : e = _ := abandonPreempt_eq hs
    rw [heq, hlog]
    exact .endAbandoned .refl
  refine ⟨?_, ?_, fun q hq => ⟨?_, fun hsuspends => ?_⟩⟩
  · rw [hend.still.section?]
    exact endPreempt_section ((hcalm.section? h).trans hs)
  · rw [hend.still.sched, ← hcalm.sched]
    exact habandoned
  · have hctrl : e.ctrl q = (sec.cores.foldl goOnCore (sec.cores.foldl dropSuspend d)).ctrl q :=
      (hend.ctrl q).trans (hcores q).1
    rw [hctrl]
    intro hmem
    obtain hmem | hmem := goOnCores_sub sec.cores _ q _ hmem
    · cases hmem
    · exact dropSuspends_none hq d hmem
  · have hcore : e.core q = (sec.cores.foldl goOnCore (sec.cores.foldl dropSuspend d)).core q :=
      (hend.core q).trans (hcores q).2
    have hseq : ((sec.cores.foldl dropSuspend d).core q).seq = (d.core q).seq := by
      rw [Device.core, dropSuspends_cores]
      rfl
    obtain ⟨-, hgo, -⟩ := goOnCores sec.cores (dropSuspends_nil hq hsuspends)
    rw [hcore, (hgo hq).state, hseq]

end Sys2Proof.Machine
end

section
/-!
PROOFS. A core is lost, goes offline or comes back (R372, R432, Table 11.8).
-/
namespace Sys2Proof.Machine
open Sys2Proof.Safety
set_option Elab.async false

/-! ### A core of a running section is lost (Order 3 of Table 11.8) -/

/-- A core for which a section is stopped, each once. -/
def Section.withLost (s : Section) (c : Nat) : List Nat := if s.lostCores.contains c then s.lostCores else s.lostCores ++ [c]

theorem Section.mem_withLost (s : Section) (c : Nat) : c ∈ s.withLost c := by
  unfold Section.withLost
  split
  case isTrue h => exact List.contains_iff_mem.mp h
  case isFalse => exact List.mem_append_right _ (List.mem_singleton_self c)

theorem abortRegion_of_none {h : Nat} {e : BitVec 8} {d : Device} (hregion : regionJob d h = none) : abortRegion h e d = d := by
  unfold abortRegion
  rw [hregion]
  split
  case h_1 heq => cases heq
  case h_2 => rfl

/-- The section is marked as stopped for a core, and is to resume by itself. -/
def markLost (c h : Nat) (d : Device) : Device :=
  d.updSection h (fun s => { s with lostCores := s.withLost c, autoResume := true })

theorem loseCore_running {c : Nat} {err : MuErr} {d : Device} {sec : Section} (hheld : coreSection d c = some sec)
    (hstate : sec.state = .running) (hcover : hasCover sec = false) (hregion : regionJob d sec.handle = none) :
    loseCore c err d = startPreempt sec.handle (markLost c sec.handle d) := by
  unfold loseCore
  rw [hheld]
  dsimp only
  rw [abortRegion_of_none hregion, hstate, hcover]
  rfl

/-- A running section that loses a core is PREEMPTING, stopped for that core; the cores' owners, the registers, the
records and the commands stand. -/
theorem loseCore_preempts {c : Nat} {err : MuErr} {d : Device} {sec : Section} (hheld : coreSection d c = some sec)
    (hstate : sec.state = .running) (hcover : hasCover sec = false) (hregion : regionJob d sec.handle = none) :
    let e := loseCore c err d
    e.sched = d.sched ∧ e.mgmt = d.mgmt ∧ (∀ k, (e.core k).section_ = (d.core k).section_) ∧ (∀ j, SameRun (d.mb j) (e.mb j))
      ∧ ∃ t, e.section? sec.handle = some t ∧ t.state = .preempting ∧ t.lostCores = sec.withLost c ∧ t.autoResume = true := by
  intro e
  have hmark : (markLost c sec.handle d).section? sec.handle = some { sec with lostCores := sec.withLost c, autoResume := true } :=
    (Device.section?_updSection (f := fun s => { s with lostCores := s.withLost c, autoResume := true }) fun _ hk => hk).trans
      (congrArg (Option.map _) (coreSection_handle hheld))
  obtain ⟨f, hcalm, hmgmt, hstart⟩ := startPreempt_cases hmark
  have heq : e = beginPreempt sec.handle f := (loseCore_running hheld hstate hcover hregion).trans hstart
  rw [heq]
  exact ⟨hcalm.sched, hmgmt, hcalm.owner, hcalm.mb, _, beginPreempt_section ((hcalm.section? _).trans hmark), rfl, rfl, rfl⟩

theorem loseCore_of_free {c : Nat} {err : MuErr} {d : Device} (h : coreSection d c = none) : loseCore c err d = d := by
  unfold loseCore
  rw [h]

/-- A section of which a core is lost still holds that core. -/
theorem coreSection_of_section {d e : Device} {c : Nat} {sec t : Section} (hheld : coreSection d c = some sec)
    (howner : (e.core c).section_ = (d.core c).section_) (ht : e.section? sec.handle = some t) : coreSection e c = some t := by
  obtain ⟨n, hn, hsec⟩ := Option.bind_eq_some_iff.mp hheld
  obtain rfl := handle_of_section? hsec
  rw [coreSection, howner, hn]
  exact ht

/-! ### CORE_OFFLINE (R372, R432) -/

/-- A core is taken offline for the host, and mailbox `m` waits for its section. -/
def goOffline (m c : Nat) (d : Device) : Device :=
  let d := { d with sched := { d.sched with
    offline := setBit d.sched.offline c true, hostOffline := setBit d.sched.hostOffline c true } }
  d.updMb m (fun x => { x with job := .offline c })

theorem runOffline_eq (err : MuErr) (m : Nat) (d : Device) : runOffline err m d =
    (let e := loseCore ((d.mb m).arg 0 1) err (goOffline m ((d.mb m).arg 0 1) d)
     if (e.mb m).state = .running then settleJobs e else e) := rfl

theorem goOffline_mb (m c : Nat) (d : Device) : (goOffline m c d).mb m = { d.mb m with job := .offline c } :=
  Device.mb_setMb_same ..

theorem goOffline_mb_other {m j : Nat} (c : Nat) (d : Device) (h : j ≠ m) : (goOffline m c d).mb j = d.mb j :=
  (Device.mb_setMb ..).trans (if_neg h)

theorem goOffline_owner (m c k : Nat) (d : Device) : coreSection (goOffline m c d) k = coreSection d k := rfl

/-- A REGION_LOAD under way is no CORE_OFFLINE. -/
theorem regionJob_goOffline {m c h : Nat} {d : Device} (hregion : regionJob d h = none) : regionJob (goOffline m c d) h = none := by
  rw [regionJob, List.findSome?_eq_none_iff] at hregion ⊢
  intro j hj
  by_cases hjm : j = m
  · rw [hjm, goOffline_mb]
  · rw [goOffline_mb_other c d hjm]
    exact hregion j hj

/-- CORE_OFFLINE of a core that no section holds. -/
theorem runOffline_free {err : MuErr} {m : Nat} {d : Device} (hm : m < 16) (hstate : (d.mb m).state = .running)
    (hfree : coreSection d ((d.mb m).arg 0 1) = none) :
    ((runOffline err m d).mb m).state = .done
      ∧ (runOffline err m d).sched = (goOffline m ((d.mb m).arg 0 1) d).sched := by
  have hrun : ((goOffline m ((d.mb m).arg 0 1) d).mb m).state = .running := by rw [goOffline_mb]; exact hstate
  rw [runOffline_eq, loseCore_of_free (by rwa [goOffline_owner])]
  dsimp only
  rw [if_pos hrun]
  exact ⟨settleJobs_offline_done hm (by rw [goOffline_mb]) (by rwa [goOffline_owner]), (settleJobs_settles _).sched⟩

/-- CORE_OFFLINE of a core whose section runs: the section is pre-empted for it, and the command waits. -/
theorem runOffline_running {err : MuErr} {m c : Nat} {d : Device} {sec : Section} (hc : (d.mb m).arg 0 1 = c)
    (hrunning : (d.mb m).state = .running) (hheld : coreSection d c = some sec)
    (hstate : sec.state = .running) (hcover : hasCover sec = false) (hregion : regionJob d sec.handle = none) :
    let e := runOffline err m d
    (e.mb m).state = .running ∧ (e.mb m).job = .offline c
      ∧ (e.section? sec.handle).map (fun t => (t.state, t.lostCores, t.autoResume)) = some (.preempting, sec.withLost c, true) := by
  intro e
  have hheld' : coreSection (goOffline m c d) c = some sec := hheld
  obtain ⟨-, -, howner, hmb, t, ht, hpreempting, hlost, hauto⟩ :=
    loseCore_preempts (err := err) hheld' hstate hcover (regionJob_goOffline hregion)
  have hrun := hmb m
  rw [goOffline_mb] at hrun
  have hjob : ((loseCore c err (goOffline m c d)).mb m).job = .offline c := hrun.job rfl
  have hstate' : ((loseCore c err (goOffline m c d)).mb m).state = .running := hrun.state.trans hrunning
  have heq : e = settleJobs (loseCore c err (goOffline m c d)) := by
    refine (runOffline_eq err m d).trans ?_
    rw [hc]
    exact if_pos hstate'
  have hwaits := settleJobs_offline_waits hjob (coreSection_of_section hheld' (howner c) ht) hpreempting
  rw [heq]
  refine ⟨hwaits.state.trans hstate', (hwaits.job (by rw [hjob]; rfl)).trans hjob, ?_⟩
  rw [(settleJobs_settles _).section?, ht, Option.map_some, hpreempting, hlost, hauto]

end Sys2Proof.Machine
end

section
/-!
PROOFS. A unit fails (R34, R372), and a core comes back for the host (R432).
-/
namespace Sys2Proof.Machine
open Sys2Proof.Safety
set_option Elab.async false

/-! ### UNIT_FAILURE -/

/-- A unit joins a defect map once. -/
def addDefect (u : Nat) (l : List Nat) : List Nat := if l.contains u then l else l ++ [u]

theorem mem_addDefect_self (u : Nat) (l : List Nat) : u ∈ addDefect u l := by
  unfold addDefect
  split
  case isTrue h => exact List.contains_iff_mem.mp h
  case isFalse => exact List.mem_append_right _ (List.mem_singleton_self u)

theorem mem_addDefect_other {u v : Nat} (l : List Nat) (h : v ≠ u) : v ∈ addDefect u l ↔ v ∈ l := by
  unfold addDefect
  split
  · rfl
  · simp [h]

/-- A unit joins the defect maps. -/
def addDefects (u : Nat) (d : Device) : Device :=
  { d with mgmt := { d.mgmt with defects := addDefect u d.mgmt.defects }
           boot := { d.boot with defects := addDefect u d.boot.defects } }

/-- A failed unit joins the defect maps, and its core is offline. -/
def markFailed (u : Nat) (d : Device) : Device :=
  let d := addDefects u d
  { d with sched := { d.sched with offline := setBit d.sched.offline (u / 80) true } }

/-- R34: a failed unit's record, and its marks. -/
def recordFailure (u : Nat) (d : Device) : Device := markFailed u (log 0x22 (unitId u) 0 d)

theorem unitFailure_eq (u : Nat) (err : MuErr) (d : Device) : unitFailure u err d =
    (let e := loseCore (u / 80) err (recordFailure u d)
     if (coreSection e (u / 80)).any (fun s => s.state = .preempting) || e.sched.hostOffline.getLsbD (u / 80) then e
     else { e with sched := { e.sched with offline := setBit e.sched.offline (u / 80) false } }) := by
  unfold unitFailure recordFailure
  generalize log 0x22 (unitId u) 0 d = a
  rfl

theorem log_calm (typ subject data : Nat) (d : Device) : Calm d (log typ subject data d) := .log .refl

theorem markFailed_owner (u c : Nat) (d : Device) : coreSection (markFailed u d) c = coreSection d c := rfl

theorem recordFailure_owner (u c : Nat) (d : Device) : coreSection (recordFailure u d) c = coreSection d c :=
  (markFailed_owner ..).trans ((log_calm ..).coreSection c)

theorem markFailed_sched (u : Nat) (d : Device) :
    (markFailed u d).sched = { d.sched with offline := setBit d.sched.offline (u / 80) true } := rfl

theorem recordFailure_sched (u : Nat) (d : Device) :
    (recordFailure u d).sched = { d.sched with offline := setBit d.sched.offline (u / 80) true } := by
  rw [recordFailure, markFailed_sched, (log_calm ..).sched]

theorem mem_markFailed_defects (u : Nat) (d : Device) : u ∈ (markFailed u d).mgmt.defects := mem_addDefect_self u _

theorem recordFailure_mb (u j : Nat) (d : Device) : (recordFailure u d).mb j = d.mb j := by
  obtain ⟨m, hlog, -⟩ := log_frame 0x22 (unitId u) 0 d
  rw [recordFailure, hlog]
  rfl

/-- A bit that was clear is clear again after it has been set and cleared. -/
theorem setBit_set_clear {b : BitVec 16} {c : Nat} (h : b.getLsbD c = false) : setBit (setBit b c true) c false = b := by
  refine BitVec.eq_of_getLsbD_eq fun k hk => ?_
  have hset : (setBit b c true).getLsbD k = (b.getLsbD k || decide (c = k)) := by
    simp only [setBit, ↓reduceIte, BitVec.getLsbD_or, BitVec.getLsbD_ofNat, hk, decide_true, Bool.true_and, Nat.testBit_two_pow]
  rw [getLsbD_setBit_false, hset]
  by_cases hkc : k = c
  · simp [hkc, h]
  · simp [hkc, Ne.symm hkc]

/-- A core that was available is so again when its offline bit is cleared. -/
theorem markFailed_undone {u : Nat} {d : Device} (hoffline : d.sched.offline.getLsbD (u / 80) = false) :
    { markFailed u d with sched := { (markFailed u d).sched with
      offline := setBit (markFailed u d).sched.offline (u / 80) false } } = addDefects u d := by
  have hback : { (markFailed u d).sched with offline := setBit (markFailed u d).sched.offline (u / 80) false } = d.sched := by
    rw [markFailed_sched, setBit_set_clear hoffline]
  rw [hback]
  rfl

/-- A unit fails in a core that no section holds: it is recorded, and nothing else. -/
theorem unitFailure_free {u : Nat} {err : MuErr} {d : Device} (hfree : coreSection d (u / 80) = none)
    (hoffline : d.sched.offline.getLsbD (u / 80) = false) (hhost : d.sched.hostOffline.getLsbD (u / 80) = false) :
    unitFailure u err d = addDefects u (log 0x22 (unitId u) 0 d) := by
  have hlost : loseCore (u / 80) err (recordFailure u d) = recordFailure u d := loseCore_of_free (by rwa [recordFailure_owner])
  have hnot : (recordFailure u d).sched.hostOffline.getLsbD (u / 80) = false := by rw [recordFailure_sched]; exact hhost
  have hundone := markFailed_undone (u := u) (d := log 0x22 (unitId u) 0 d) (by rwa [(log_calm ..).sched])
  rw [unitFailure_eq, hlost]
  dsimp only
  rw [recordFailure_owner, hfree, hnot]
  exact hundone

/-- A REGION_LOAD under way is none of those that a record changes. -/
theorem regionJob_congr {d e : Device} {h : Nat} (hmb : ∀ j, (e.mb j).job = (d.mb j).job) : regionJob e h = regionJob d h := by
  simp only [regionJob, hmb]

/-- A unit fails in a core whose section runs: the section is pre-empted for that core. -/
theorem unitFailure_running {u : Nat} {err : MuErr} {d : Device} {sec : Section} (hheld : coreSection d (u / 80) = some sec)
    (hstate : sec.state = .running) (hcover : hasCover sec = false) (hregion : regionJob d sec.handle = none) :
    let e := unitFailure u err d
    u ∈ e.mgmt.defects ∧ e.sched.offline = setBit d.sched.offline (u / 80) true
      ∧ ∃ t, e.section? sec.handle = some t ∧ t.state = .preempting ∧ t.autoResume = true ∧ u / 80 ∈ t.lostCores := by
  intro e
  have hheld' : coreSection (recordFailure u d) (u / 80) = some sec := by rwa [recordFailure_owner]
  have hregion' : regionJob (recordFailure u d) sec.handle = none := by
    rwa [regionJob_congr fun j => congrArg Mailbox.job (recordFailure_mb u j d)]
  obtain ⟨hsched, hmgmt, howner, -, t, ht, hpreempting, hlost, hauto⟩ := loseCore_preempts (err := err) hheld' hstate hcover hregion'
  have hany : (coreSection (loseCore (u / 80) err (recordFailure u d)) (u / 80)).any (fun s => s.state = .preempting) = true := by
    rw [coreSection_of_section hheld' (howner _) ht, Option.any_some, hpreempting]
    rfl
  have heq : e = loseCore (u / 80) err (recordFailure u d) := by
    refine (unitFailure_eq u err d).trans ?_
    simp only [hany, Bool.true_or, ↓reduceIte]
  refine ⟨?_, ?_, t, heq ▸ ht, hpreempting, hauto, hlost ▸ sec.mem_withLost _⟩
  · rw [heq, hmgmt, recordFailure]
    exact mem_markFailed_defects u _
  · rw [heq, hsched, recordFailure_sched]

end Sys2Proof.Machine
end

section
/-!
PROOFS. CORE_ONLINE: the core that comes back is reset where no command that is not final holds it (R432, R552).
-/
namespace Sys2Proof.Machine
open Sys2Proof.Safety
set_option Elab.async false

/-! ### A core whose section has no live command -/

/-- No command that is not final holds the core. -/
def NoLive (c : Nat) (d : Device) : Prop := ∀ sec, coreSection d c = some sec → liveMbx d sec = none

theorem liveMbx_eq_none {d : Device} {sec : Section} : liveMbx d sec = none ↔ ∀ m, sec.mbx = some m → (d.mb m).state.live = false := by
  unfold liveMbx
  cases sec.mbx <;> simp [Option.filter]

theorem NoLive.calm {c : Nat} {o d : Device} (h : NoLive c o) (k : Calm o d) : NoLive c d := fun sec hsec =>
  liveMbx_eq_none.mpr fun m hm => by
    rw [(k.mb m).state]
    exact liveMbx_eq_none.mp (h sec (k.coreSection c ▸ hsec)) m hm

/-! ### Its stores complete without a halt -/

theorem flushEntry_of_noLive {c q : Nat} {e : StoreEntry} {d : Device} (h : NoLive c d) : flushEntry c q e d = lastStore c q d e := by
  have hnone : (coreSection d c).bind (fun sec => (liveMbx d sec).map (fun m => (sec.handle, m))) = none := by
    cases hsec : coreSection d c with
    | none => rfl
    | some sec => rw [Option.bind_some, h sec hsec, Option.map_none]
  unfold flushEntry
  rw [hnone]
  split
  case h_1 heq => cases heq
  case h_2 => rfl

theorem flushCore_calm {c : Nat} {d : Device} (h : NoLive c d) : Calm d (flushCore c d) := by
  unfold flushCore
  refine .noPending (List.foldlRecOn (motive := Calm d) _ _ .refl fun e he q _ => ?_)
  refine List.foldlRecOn (motive := Calm d) _ _ he fun e he entry _ => ?_
  rw [flushEntry_of_noLive (h.calm he)]
  exact .lastStore he

/-! ### A region load that is aborted -/

/-- The registers and the cores' owners stand; sections keep their handles and commands, and no command comes to life. -/
structure Aborts (o d : Device) : Prop where
  sched : d.sched = o.sched
  power : d.power = o.power
  owner : ∀ c, (d.core c).section_ = (o.core c).section_
  sections : ∃ g : Section → Section, (∀ s, (g s).handle = s.handle ∧ (g s).mbx = s.mbx) ∧ d.sections = o.sections.map g
  live : ∀ j, (d.mb j).state.live = true → (o.mb j).state.live = true

namespace Aborts
variable {o d : Device}

theorem of_calm (h : Calm o d) : Aborts o d :=
  ⟨h.sched, h.power, h.owner, ⟨id, fun _ => ⟨rfl, rfl⟩, h.sections.trans (List.map_id _).symm⟩, fun j hj => (h.mb j).state ▸ hj⟩

theorem trans {a b c : Device} (h : Aborts a b) (k : Aborts b c) : Aborts a c := by
  obtain ⟨g, hg, hab⟩ := h.sections
  obtain ⟨g', hg', hbc⟩ := k.sections
  refine ⟨k.sched.trans h.sched, k.power.trans h.power, fun i => (k.owner i).trans (h.owner i),
    ⟨g' ∘ g, fun s => ⟨(hg' (g s)).1.trans (hg s).1, (hg' (g s)).2.trans (hg s).2⟩, ?_⟩, fun j hj => h.live j (k.live j hj)⟩
  rw [hbc, hab, List.map_map]

theorem noLive {c : Nat} (h : Aborts o d) (hlive : NoLive c o) : NoLive c d := by
  obtain ⟨g, hg, hsections⟩ := h.sections
  intro sec hsec
  obtain ⟨n, hn, hfound⟩ := Option.bind_eq_some_iff.mp hsec
  rw [h.owner] at hn
  rw [Device.section?, hsections, find?_handle_map _ fun s => by rw [(hg s).1], ← Device.section?, Option.map_eq_some_iff] at hfound
  obtain ⟨s, hs, rfl⟩ := hfound
  have hnone := liveMbx_eq_none.mp (hlive s (Option.bind_eq_some_iff.mpr ⟨n, hn, hs⟩))
  refine liveMbx_eq_none.mpr fun m hm => Bool.eq_false_iff.mpr fun hj => ?_
  exact Bool.eq_false_iff.mp (hnone m ((hg s).2 ▸ hm)) (h.live m hj)

/-- A change of a section that keeps its handle and its command. -/
theorem updSection {h : Nat} {f : Section → Section} (hf : ∀ s, (f s).handle = s.handle ∧ (f s).mbx = s.mbx) :
    Aborts d (d.updSection h f) :=
  ⟨rfl, rfl, fun _ => rfl, ⟨fun s => if s.handle = h then f s else s, fun s => by dsimp only; split <;> simp [hf], rfl⟩, fun _ hj => hj⟩

theorem undoRegion {sec : Section} : Aborts d (undoRegion sec d) := by
  unfold Machine.undoRegion
  split
  case h_1 => exact of_calm .refl
  case h_2 pkg units _ =>
    have hunits : Calm d (units.foldl (fun d e => d.setUnit e.1 e.2) d) := .foldl .refl fun _ _ he => .setUnit he
    exact (of_calm hunits).trans ((updSection (h := sec.handle)
      (f := fun s => { s with pkg := pkg, before := none, stale := 0 }) fun _ => ⟨rfl, rfl⟩).trans (of_calm (.foldl .refl fun _ _ he =>
      .ite he (.tierWork he (.writeStoreImage .refl)))))

theorem abortRegion {h : Nat} {e : BitVec 8} : Aborts d (abortRegion h e d) := by
  unfold Machine.abortRegion
  split
  case h_1 sec m s _ _ =>
    have hfail : ∀ f : Device, Aborts f (endFailed m e f) := fun f =>
      have hwork : HostWork f (endFailed m e f) := .endFailed .refl
      ⟨hwork.still.sched, hwork.still.power, fun c => congrArg Core.section_ (hwork.core c),
        ⟨id, fun _ => ⟨rfl, rfl⟩, hwork.still.sections.trans (List.map_id _).symm⟩, fun _ => endFailed_live⟩
    exact (of_calm (.foldl .refl fun _ _ he => .setCtrl he)).trans (undoRegion.trans (hfail _))
  case h_2 => exact of_calm .refl

theorem abortRegionOf {c : Nat} : Aborts d (abortRegionOf c d) := by
  unfold Machine.abortRegionOf
  split
  · split
    · split
      · exact abortRegion
      · exact of_calm .refl
    · exact of_calm .refl
  · exact of_calm .refl

end Aborts

/-! ### The reset, and CORE_ONLINE -/

theorem coreReset_frame {c : Nat} {d : Device} (h : NoLive c d) :
    (coreReset c d).sched = d.sched ∧ (coreReset c d).power = d.power := by
  have habort : Aborts d (abortRegionOf c d) := .abortRegionOf
  have hclose : Calm (abortRegionOf c d) (closeCore c (abortRegionOf c d)) := .closeCore .refl
  have hflush := flushCore_calm ((habort.noLive h).calm hclose)
  have hreset : Calm (abortRegionOf c d) (resetCoreState c (releaseEdges c (flushCore c (closeCore c (abortRegionOf c d))))) :=
    .resetCoreState (.releaseEdges (hclose.trans hflush))
  unfold coreReset
  split
  · exact ⟨rfl, rfl⟩
  · exact ⟨hreset.sched.trans habort.sched, hreset.power.trans habort.power⟩

/-- CORE_RESET outside a sequence of Table 18.7 leaves the registers as they are. -/
theorem coreResetRow_frame {c : Nat} {d : Device} (hresetting : d.boot.resetting = false) :
    (coreResetRow c d).sched = d.sched ∧ (coreResetRow c d).power = d.power := by
  unfold coreResetRow
  dsimp only
  split
  case isTrue hreset =>
    rw [hresetting, Bool.false_or, Bool.and_eq_true, Bool.not_eq_true'] at hreset
    obtain ⟨-, hheld⟩ := hreset
    refine coreReset_frame fun sec hsec => ?_
    rw [hsec, Option.any_some] at hheld
    obtain ⟨⟨hlive, -⟩, -⟩ : (liveMbx d sec = none ∧ ¬sec.state = .loading) ∧ ¬sec.state = .forming := by simpa using hheld
    exact hlive
  case isFalse => exact ⟨rfl, rfl⟩

theorem runOnline_returns {m c : Nat} {d : Device} (hc : (d.mb m).arg 0 1 = c) (hresetting : d.boot.resetting = false) :
    ((runOnline m d).mb m).state = .done
      ∧ (runOnline m d).sched.hostOffline = setBit d.sched.hostOffline c false
      ∧ (runOnline m d).sched.offline = setBit d.sched.offline c (d.power.quadrantOff.getLsbD (c / 4)) := by
  have hreset : (if d.sched.offline.getLsbD c then coreResetRow c d else d).sched = d.sched
      ∧ (if d.sched.offline.getLsbD c then coreResetRow c d else d).power = d.power := by
    split
    · exact coreResetRow_frame hresetting
    · exact ⟨rfl, rfl⟩
  obtain ⟨hsched, hpower⟩ := hreset
  unfold runOnline
  rw [hc]
  dsimp only
  refine ⟨by rw [endDone_mb_same]; rfl, ?_, ?_⟩
  · rw [(HostWork.endDone .refl).still.sched, hsched]
  · rw [(HostWork.endDone .refl).still.sched, hsched, hpower]

end Sys2Proof.Machine
end

section
/-!
PROOFS. Resumption: the units and the cores of a section that is placed again hold what its save holds (R222, R362, R366).
-/
namespace Sys2Proof.Machine
open Sys2Proof.Safety
set_option Elab.async false

/-! ### Places of a well placed section (R288) -/

theorem phys_mem {sec : Section} {l : Nat} (hl : l < sec.cores.length) : sec.phys l ∈ sec.cores := by
  rw [Section.phys, List.getD_eq_getElem _ _ hl]
  exact List.getElem_mem hl

theorem phys_inj {sec : Section} (h : sec.cores.Nodup) {l l' : Nat} (hl : l < sec.cores.length) (hl' : l' < sec.cores.length)
    (heq : sec.phys l = sec.phys l') : l = l' := by
  rw [Section.phys, Section.phys, List.getD_eq_getElem _ _ hl, List.getD_eq_getElem _ _ hl'] at heq
  exact h.getElem_inj_iff.mp heq

theorem phys_nodup {sec : Section} (h : sec.cores.Nodup) : ((List.range sec.cores.length).map sec.phys).Nodup :=
  List.Nodup.map_on (fun _ hl _ hl' heq => phys_inj h (List.mem_range.mp hl) (List.mem_range.mp hl') heq) List.nodup_range

/-- A logical unit: its core, row and column are within their bounds, and its key says where it lies. -/
theorem logicalUnits_spec {sec : Section} {e : Nat × Nat × Nat × Nat} (he : e ∈ logicalUnits sec) :
    e.1 < sec.cores.length ∧ e.2.1 < 8 ∧ e.2.2.1 < 8
      ∧ e.2.2.2 = 80 * sec.phys e.1 + 10 * e.2.1 + sec.l2p.getD (64 * e.1 + 8 * e.2.1 + e.2.2.1) 0 := by
  simp only [logicalUnits, List.mem_flatMap, List.mem_map, List.mem_range] at he
  obtain ⟨l, hl, r, hr, k, hk, rfl⟩ := he
  exact ⟨hl, hr, hk, rfl⟩

/-- The column of a logical unit stands in its row's part of the map. -/
theorem column_mem_row {sec : Section} (hlen : sec.l2p.length = 64 * sec.cores.length) {l r k : Nat} (hl : l < sec.cores.length)
    (hr : r < 8) (hk : k < 8) : sec.l2p.getD (64 * l + 8 * r + k) 0 ∈ (((sec.l2p.drop (64 * l)).take 64).drop (8 * r)).take 8 := by
  have hi : 64 * l + 8 * r + k < sec.l2p.length := by omega
  refine List.mem_iff_getElem.mpr ⟨k, by simp only [List.length_take, List.length_drop]; omega, ?_⟩
  rw [List.getD_eq_getElem _ _ hi]
  simp only [List.getElem_take, List.getElem_drop, Nat.add_assoc]

/-- No spare column's node is a logical unit (R284). -/
theorem spare_not_logical {sec : Section} (h : PlacedWell sec) {e : Nat × Nat × Nat × Nat} (he : e ∈ logicalUnits sec) {l r p : Nat}
    (hl : l < sec.cores.length) (hr : r < 8) (hp : p ∈ spareCols sec l r) : 80 * sec.phys l + 10 * r + p ≠ e.2.2.2 := by
  obtain ⟨hcores, -, hlen, hcols, -⟩ := h
  obtain ⟨hl', hr', hk', hkey⟩ := logicalUnits_spec he
  have hmem := column_mem_row hlen hl' hr' hk'
  have hcol := hcols _ (List.mem_of_mem_drop (List.mem_of_mem_take (List.mem_of_mem_drop (List.mem_of_mem_take hmem))))
  simp only [spareCols, spareIn, List.mem_filter, List.mem_range, Bool.not_eq_true', List.contains_eq_mem, decide_eq_false_iff_not] at hp
  obtain ⟨hp, hspare⟩ := hp
  intro heq
  rw [hkey] at heq
  have hcore : sec.phys l = sec.phys e.1 := by omega
  have hrow : r = e.2.1 := by omega
  have hcolumn : p = sec.l2p.getD (64 * e.1 + 8 * e.2.1 + e.2.2.1) 0 := by omega
  obtain rfl := phys_inj hcores hl hl' hcore
  subst hrow
  rw [hcolumn] at hspare
  exact hspare hmem

/-! ### The steps of a restore -/

/-- The logical units take what the save holds of them. -/
def restoreUnits (sec : Section) (v : Save) (d : Device) : Device :=
  (logicalUnits sec).foldl (fun d e =>
    d.updUnit e.2.2.2 (restoreUnit sec v e.1 e.2.1 (e.2.2.2 % 10) (Tab.getD v.units (64 * e.1 + 8 * e.2.1 + e.2.2.1) {}))) d

/-- The spare columns take the generated frames of their rows. -/
def restoreSpares (sec : Section) (v : Save) (d : Device) : Device :=
  (List.range sec.cores.length).foldl (fun d l =>
    (List.range 8).foldl (fun d r =>
      (spareCols sec l r).foldl (fun d p => d.updUnit (80 * sec.phys l + 10 * r + p) (restoreSpare sec v l r p)) d) d) d

/-- The cores take what the save holds of them. -/
def restoreCores (sec : Section) (v : Save) (d : Device) : Device :=
  (List.range sec.cores.length).foldl (fun d l => d.updCore (sec.phys l) (restoreCore sec l (Tab.getD v.cores l {}))) d

/-- The cores are told to go on. -/
def resumeCores (sec : Section) (d : Device) : Device := sec.cores.foldl (fun d c => sendResume c d) d

theorem restoreSave_eq (sec : Section) (v : Save) (d : Device) : restoreSave sec v d = moveIngest sec (restoreSync sec v
    (restoreSpills sec v (resumeCores sec (restoreCores sec v (restoreSpares sec v (restoreUnits sec v d)))))) := rfl

/-! ### Units -/

theorem Device.unit_updUnit (d : Device) (u k : Nat) (f : Unit → Unit) :
    (d.updUnit u f).unit k = if k = u then f (d.unit u) else d.unit k := Device.unit_setUnit ..

theorem Device.unit_updUnit_other {u k : Nat} (d : Device) (f : Unit → Unit) (h : k ≠ u) : (d.updUnit u f).unit k = d.unit k :=
  (Device.unit_updUnit ..).trans (if_neg h)

/-- What one logical unit takes back. -/
theorem restoreUnits_unit {sec : Section} (h : PlacedWell sec) (v : Save) {e : Nat × Nat × Nat × Nat} (he : e ∈ logicalUnits sec)
    (d : Device) : (restoreUnits sec v d).unit e.2.2.2
      = restoreUnit sec v e.1 e.2.1 (e.2.2.2 % 10) (Tab.getD v.units (64 * e.1 + 8 * e.2.1 + e.2.2.1) {}) (d.unit e.2.2.2) := by
  obtain ⟨-, -, -, -, hnodup⟩ := h
  obtain ⟨f, hf, hmeets⟩ := foldl_meets (val := fun d : Device => d.unit e.2.2.2) hnodup he
    (step := fun d e => d.updUnit e.2.2.2
      (restoreUnit sec v e.1 e.2.1 (e.2.2.2 % 10) (Tab.getD v.units (64 * e.1 + 8 * e.2.1 + e.2.2.1) {})))
    (fun d j _ hj => Device.unit_updUnit_other d _ (Ne.symm hj)) d
  rw [restoreUnits, hmeets, Device.unit_updUnit, if_pos rfl, hf]

theorem restoreSpares_unit {sec : Section} (h : PlacedWell sec) (v : Save) {e : Nat × Nat × Nat × Nat} (he : e ∈ logicalUnits sec)
    (d : Device) : (restoreSpares sec v d).unit e.2.2.2 = d.unit e.2.2.2 :=
  foldl_misses (val := fun d : Device => d.unit e.2.2.2) (fun _ _ hl => foldl_misses (val := fun d : Device => d.unit e.2.2.2)
    (fun _ _ hr => foldl_misses (val := fun d : Device => d.unit e.2.2.2) (fun d _ hp => Device.unit_updUnit_other d _
      (Ne.symm (spare_not_logical h he (List.mem_range.mp hl) (List.mem_range.mp hr) hp))) _) _) d

/-! ### Contexts -/

/-- A context that is placed anew keeps all that is saved of it. -/
theorem placeCtx_saved (sec : Section) (v : Save) (l row col lay : Nat) (c : Ctx) : SavedContext c (placeCtx sec v l row col lay c) :=
  ⟨rfl, rfl, rfl, rfl, rfl, rfl, rfl, rfl, rfl, rfl, rfl, rfl⟩

theorem savedContext_refl (c : Ctx) : SavedContext c c := ⟨rfl, rfl, rfl, rfl, rfl, rfl, rfl, rfl, rfl, rfl, rfl, rfl⟩

theorem restoreUnit_ctxs (sec : Section) (v : Save) (l row col : Nat) (s x : Unit) (k : Nat) :
    SavedContext (Tab.getD s.ctxs k {}) (Tab.getD (restoreUnit sec v l row col s x).ctxs k {}) := by
  unfold restoreUnit
  dsimp only
  induction s.ctxs with
  | nil => exact savedContext_refl _
  | cons c rest ih =>
    obtain ⟨j, c⟩ := c
    simp only [List.map_cons, Tab.getD, Tab.find]
    by_cases hk : k = j
    · simp only [hk, ↓reduceIte, Option.getD_some]
      split
      · exact placeCtx_saved ..
      · split
        · exact placeCtx_saved ..
        · exact savedContext_refl _
    · simpa only [hk, ↓reduceIte, Tab.getD] using ih

/-! ### Spill regions leave all of a unit but its memory and their descriptors -/

/-- Units agree but for an MU's memory and spill descriptors. -/
def SameButSpills (x y : Unit) : Prop := y = { x with mu := { x.mu with ram := y.mu.ram, spills := y.mu.spills } }

theorem restoreSpills_unit (sec : Section) (v : Save) (d : Device) (u : Nat) :
    SameButSpills (d.unit u) ((restoreSpills sec v d).unit u) := by
  refine List.foldlRecOn (motive := fun e : Device => SameButSpills (d.unit u) (e.unit u)) _ _ rfl fun e he r _ => ?_
  split
  case h_1 =>
    rw [Device.unit_updUnit]
    split
    case isTrue hu =>
      subst hu
      unfold SameButSpills at he ⊢
      rw [he]
    case isFalse => exact he
  case h_2 => exact he

theorem restoreSpills_ram {sec : Section} {v : Save} {u : Nat} (h : ∀ g ∈ sec.spills, g.mu ≠ u) (d : Device) :
    (restoreSpills sec v d).unit u = d.unit u :=
  foldl_misses (val := fun d : Device => d.unit u) (fun d g hg => by
    split
    · exact Device.unit_updUnit_other d _ (Ne.symm (h g hg))
    · rfl) d

/-! ### The parts of the block that the further steps leave -/

theorem restoreCores_units (sec : Section) (v : Save) (d : Device) : (restoreCores sec v d).units = d.units :=
  List.foldlRecOn (motive := fun e : Device => e.units = d.units) _ _ rfl fun _ he _ _ => he

theorem sendResume_units (c : Nat) (d : Device) : (sendResume c d).units = d.units := by
  unfold sendResume takeResume
  split <;> rfl

theorem resumeCores_units (sec : Section) (d : Device) : (resumeCores sec d).units = d.units :=
  foldl_misses (val := Device.units) (fun d c _ => sendResume_units c d) d

/-- Of a block `o`, `d` has changed the supervisors and the synchronisation state alone. -/
def SyncWork (o d : Device) : Prop := d = { o with quads := d.quads, sync := d.sync }

theorem SyncWork.trans {a b c : Device} (h : SyncWork a b) (k : SyncWork b c) : SyncWork a c := by
  unfold SyncWork at *
  rw [k, h]

theorem SyncWork.foldl {β : Type} {o d : Device} {l : List β} {f : Device → β → Device} (h : SyncWork o d)
    (hf : ∀ e x, SyncWork e (f e x)) : SyncWork o (l.foldl f d) :=
  List.foldlRecOn l f h fun e he x _ => he.trans (hf e x)

theorem restoreSync_work (sec : Section) (v : Save) (d : Device) : SyncWork d (restoreSync sec v d) :=
  .foldl (.foldl (.foldl (.foldl rfl fun _ _ => rfl) fun _ _ => rfl) fun _ _ => rfl) fun _ _ => rfl

theorem restoreSave_unit (sec : Section) (v : Save) (d : Device) (u : Nat) : (restoreSave sec v d).unit u
    = (restoreSpills sec v (resumeCores sec (restoreCores sec v (restoreSpares sec v (restoreUnits sec v d))))).unit u := by
  rw [restoreSave_eq, (restoreSync_work sec v _)]
  rfl

/-- The unit of a logical one before the spill regions get their entries back. -/
theorem restoreSave_logical {sec : Section} (h : PlacedWell sec) (v : Save) {e : Nat × Nat × Nat × Nat} (he : e ∈ logicalUnits sec)
    (d : Device) :
    (resumeCores sec (restoreCores sec v (restoreSpares sec v (restoreUnits sec v d)))).unit e.2.2.2
      = restoreUnit sec v e.1 e.2.1 (e.2.2.2 % 10) (Tab.getD v.units (64 * e.1 + 8 * e.2.1 + e.2.2.1) {}) (d.unit e.2.2.2) := by
  rw [Device.unit, resumeCores_units, restoreCores_units, ← Device.unit, restoreSpares_unit h v he, restoreUnits_unit h v he]

/-- R222, R362: the logical units hold what the save holds of them. -/
theorem restoreSave_unitsRestored {sec : Section} (h : PlacedWell sec) (v : Save) (d : Device) :
    UnitsRestored sec v (restoreSave sec v d) := by
  intro e he s y
  have hlogical := restoreSave_logical h v he d
  have hspills := restoreSpills_unit sec v
    (resumeCores sec (restoreCores sec v (restoreSpares sec v (restoreUnits sec v d)))) e.2.2.2
  rw [← restoreSave_unit, hlogical] at hspills
  have hram : (∀ g ∈ sec.spills, g.mu ≠ e.2.2.2) → y.mu.ram = s.mu.ram := fun hapart => by
    have hsame : y = _ := (restoreSave_unit sec v d _).trans ((restoreSpills_ram hapart _).trans hlogical)
    rw [hsame]
    rfl
  obtain ⟨ram, spills, hy⟩ : ∃ ram spills, y = { restoreUnit sec v e.1 e.2.1 (e.2.2.2 % 10) s (d.unit e.2.2.2) with
      mu := { (restoreUnit sec v e.1 e.2.1 (e.2.2.2 % 10) s (d.unit e.2.2.2)).mu with ram := ram, spills := spills } } :=
    ⟨_, _, hspills⟩
  rw [hy] at hram ⊢
  exact ⟨rfl, rfl, rfl, rfl, rfl, rfl, rfl, rfl, rfl, hram, fun k => restoreUnit_ctxs _ _ _ _ _ _ (d.unit e.2.2.2) k⟩

end Sys2Proof.Machine
end

section
/-!
PROOFS. Resumption: the cores, the tallies and the spill regions of a section that is placed again (R222, R362, R366).
-/
namespace Sys2Proof.Machine
open Sys2Proof.Safety
set_option Elab.async false

/-! ### Cores -/

/-- A sequencer goes on whatever its count of retired entries is. -/
theorem continueSeq_retired (q : Seq) (a b : Nat) : { continueSeq { q with retired := a } with retired := b }
    = continueSeq { q with retired := b } := by
  cases hq : q.stopped with
  | true => rw [continueSeq_of_stopped (q := { q with retired := a }) hq, continueSeq_of_stopped (q := { q with retired := b }) hq]
  | false =>
    rw [continueSeq_of_not_stopped (q := { q with retired := a }) hq, continueSeq_of_not_stopped (q := { q with retired := b }) hq]

theorem Device.core_updCore (d : Device) (c k : Nat) (f : Core → Core) :
    (d.updCore c f).core k = if k = c then f (d.core c) else d.core k := Device.core_setCore ..

/-- What one core takes back. -/
theorem restoreCores_core {sec : Section} (h : sec.cores.Nodup) (v : Save) {l : Nat} (hl : l < sec.cores.length) (d : Device) :
    (restoreCores sec v d).core (sec.phys l) = restoreCore sec l (Tab.getD v.cores l {}) (d.core (sec.phys l)) := by
  obtain ⟨e, he, hmeets⟩ := foldl_meets (val := fun d : Device => d.core (sec.phys l)) (phys_nodup h) (List.mem_range.mpr hl)
    (step := fun d l => d.updCore (sec.phys l) (restoreCore sec l (Tab.getD v.cores l {})))
    (fun d j _ hj => (Device.core_updCore ..).trans (if_neg (Ne.symm hj))) d
  rw [restoreCores, hmeets, Device.core_updCore, if_pos rfl, he]

theorem restoreCores_quads (sec : Section) (v : Save) (d : Device) : (restoreCores sec v d).quads = d.quads :=
  List.foldlRecOn (motive := fun e : Device => e.quads = d.quads) _ _ rfl fun _ he _ _ => he

/-- Of a block `o`, `d` has changed units alone. -/
def UnitWork (o d : Device) : Prop := d = { o with units := d.units }

theorem UnitWork.trans {a b c : Device} (h : UnitWork a b) (k : UnitWork b c) : UnitWork a c := by
  unfold UnitWork at *
  rw [k, h]

theorem UnitWork.foldl {β : Type} {o d : Device} {l : List β} {f : Device → β → Device} (h : UnitWork o d)
    (hf : ∀ e x, UnitWork e (f e x)) : UnitWork o (l.foldl f d) :=
  List.foldlRecOn l f h fun e he x _ => he.trans (hf e x)

theorem UnitWork.core {o d : Device} (h : UnitWork o d) (c : Nat) : d.core c = o.core c := by rw [h]; rfl
theorem UnitWork.quads {o d : Device} (h : UnitWork o d) : d.quads = o.quads := by rw [h]
theorem UnitWork.calm {o d : Device} (h : UnitWork o d) : Calm o d := by
  rw [h]
  exact .setUnits .refl

theorem restoreUnits_work (sec : Section) (v : Save) (d : Device) : UnitWork d (restoreUnits sec v d) :=
  .foldl rfl fun _ _ => rfl

theorem restoreSpares_work (sec : Section) (v : Save) (d : Device) : UnitWork d (restoreSpares sec v d) :=
  .foldl rfl fun _ _ => .foldl rfl fun _ _ => .foldl rfl fun _ _ => rfl

theorem restoreSpills_work (sec : Section) (v : Save) (d : Device) : UnitWork d (restoreSpills sec v d) :=
  .foldl rfl fun _ _ => by split <;> rfl

/-- A core to which nothing is on its way goes on at once; the other cores do not meet its message. -/
theorem resumeCores_core {sec : Section} (h : sec.cores.Nodup) {c : Nat} (hc : c ∈ sec.cores) {d : Device} (hctrl : d.ctrl c = []) :
    (resumeCores sec d).core c = { d.core c with seq := continueSeq (d.core c).seq } := by
  obtain ⟨e, he, hmeets⟩ := foldl_meets (val := fun d : Device => (d.ctrl c, d.core c)) (key := id) (by rwa [List.map_id]) hc
    (step := fun d c => sendResume c d) (fun d j _ hj => Prod.ext_iff.mpr (sendResume_other d (Ne.symm hj))) d
  obtain ⟨hectrl, hecore⟩ := Prod.ext_iff.mp he
  have hnext := (sendResume_next (hectrl.trans hctrl)).2
  rw [show e.core c = d.core c from hecore] at hnext
  exact (congrArg Prod.snd hmeets).trans hnext

/-- R362, R366: the cores hold what the save holds of them, and go on from their boundary. -/
theorem restoreSave_coresRestored {sec : Section} (h : sec.cores.Nodup) (v : Save) {d : Device} (hctrl : ∀ c ∈ sec.cores, d.ctrl c = []) :
    CoresRestored sec v (restoreSave sec v d) := by
  intro l hl s y
  have hunits := (restoreUnits_work sec v d).trans (restoreSpares_work sec v (restoreUnits sec v d))
  have hquiet : (restoreCores sec v (restoreSpares sec v (restoreUnits sec v d))).ctrl (sec.phys l) = [] := by
    rw [Device.ctrl, Device.quad, restoreCores_quads, hunits.quads]
    exact hctrl _ (phys_mem hl)
  have hcore := resumeCores_core h (phys_mem hl) hquiet
  rw [restoreCores_core h v hl, hunits.core] at hcore
  have hy : y = { restoreCore sec l s (d.core (sec.phys l)) with
      seq := continueSeq { s.seq with retired := (d.core (sec.phys l)).seq.retired } } := by
    have hsync : y = ((restoreSpills sec v (resumeCores sec (restoreCores sec v (restoreSpares sec v (restoreUnits sec v d))))).core
        (sec.phys l)) := by
      show (restoreSave sec v d).core (sec.phys l) = _
      rw [restoreSave_eq, (restoreSync_work sec v _)]
      rfl
    rw [hsync, (restoreSpills_work sec v _).core]
    exact hcore
  rw [hy]
  exact ⟨rfl, rfl, rfl, rfl, rfl, rfl, rfl, rfl, continueSeq_retired s.seq _ s.seq.retired⟩

/-! ### Tallies -/

theorem Ram.read_of_mem {w : Nat} {m : Ram w} (h : (m.map (·.1)).Nodup) {e : Nat × BitVec w} (he : e ∈ m) : Ram.read m e.1 = e.2 := by
  induction m with
  | nil => cases he
  | cons c rest ih =>
    obtain ⟨hc, hrest⟩ := List.nodup_cons.mp h
    obtain rfl | he := List.mem_cons.mp he
    · simp [Ram.read]
    · have hne : e.1 ≠ c.1 := fun heq => hc (List.mem_map.mpr ⟨e, he, heq⟩)
      simpa [Ram.read, hne] using ih hrest he

theorem Ram.read_of_not_mem {w : Nat} {m : Ram w} {a : Nat} (h : a ∉ m.map (·.1)) : Ram.read m a = 0 := by
  induction m with
  | nil => rfl
  | cons c rest ih =>
    obtain ⟨hc, hrest⟩ := not_or.mp (mt List.mem_cons.mpr h)
    simpa [Ram.read, hc] using ih hrest

/-- The tally of entry `n` of a save, at its place on the new cores. -/
def tallyAt (sec : Section) (n : Nat) (d : Device) : BitVec 32 :=
  Ram.read (d.quad (sec.phys (n / 1024) / 4)).sems (1024 * (sec.phys (n / 1024) % 4) + n % 1024)

/-- A saved tally goes to its place. -/
def putTally (sec : Section) (d : Device) (e : Nat × BitVec 32) : Device :=
  d.updQuad (sec.phys (e.1 / 1024) / 4) (fun q =>
    { q with sems := Ram.write q.sems (1024 * (sec.phys (e.1 / 1024) % 4) + e.1 % 1024) e.2 })

theorem putTally_at {sec : Section} (d : Device) (e : Nat × BitVec 32) : tallyAt sec e.1 (putTally sec d e) = e.2 := by
  rw [tallyAt, putTally, Device.quad_updQuad, if_pos rfl]
  exact Ram.read_write_same ..

/-- Tallies of different entries lie at different places. -/
theorem putTally_other {sec : Section} (h : sec.cores.Nodup) {n : Nat} (hn : n / 1024 < sec.cores.length) (d : Device)
    {e : Nat × BitVec 32} (he : e.1 / 1024 < sec.cores.length) (hne : e.1 ≠ n) : tallyAt sec n (putTally sec d e) = tallyAt sec n d := by
  rw [tallyAt, putTally, Device.quad_updQuad]
  split
  case isTrue hq =>
    refine (Ram.read_write_ne _ _ fun hplace => hne ?_).trans (by rw [tallyAt, hq])
    have hphys : sec.phys (n / 1024) = sec.phys (e.1 / 1024) := by omega
    have hcore := phys_inj h hn he hphys
    rw [hphys] at hplace
    omega
  case isFalse => rfl

/-- The saved tallies go to the places of the section's new cores. -/
def restoreTallies (sec : Section) (v : Save) (d : Device) : Device := v.sems.foldl (putTally sec) d

theorem restoreTallies_at {sec : Section} (h : sec.cores.Nodup) {v : Save} (hkeys : (v.sems.map (·.1)).Nodup)
    (hcores : ∀ q ∈ v.sems, q.1 / 1024 < sec.cores.length) {n : Nat} (hn : n / 1024 < sec.cores.length) {d : Device}
    (hzero : tallyAt sec n d = 0) : tallyAt sec n (restoreTallies sec v d) = Ram.read v.sems n := by
  by_cases hmem : n ∈ v.sems.map (·.1)
  · obtain ⟨e, he, rfl⟩ := List.mem_map.mp hmem
    obtain ⟨f, -, hmeets⟩ := foldl_meets (val := tallyAt sec e.1) hkeys he (step := putTally sec)
      (fun d j hj hne => putTally_other h hn d (hcores j hj) hne) d
    rw [restoreTallies, hmeets, putTally_at, Ram.read_of_mem hkeys he]
  · rw [Ram.read_of_not_mem hmem, ← hzero]
    exact foldl_misses (fun d j hj => putTally_other h hn d (hcores j hj) fun heq => hmem (heq ▸ List.mem_map_of_mem hj)) d

/-- The tallies of one core are cleared. -/
def clearCoreSems (d : Device) (c : Nat) : Device :=
  d.updQuad (c / 4) (fun q => { q with sems := q.sems.filter (fun e => e.1 / 1024 != c % 4) })

theorem clearCoreSems_read (d : Device) (k c : Nat) {i : Nat} (hi : i < 1024) :
    Ram.read ((clearCoreSems d k).quad (c / 4)).sems (1024 * (c % 4) + i)
      = if c = k then 0 else Ram.read (d.quad (c / 4)).sems (1024 * (c % 4) + i) := by
  have hplace : (1024 * (c % 4) + i) / 1024 = c % 4 := by omega
  rw [clearCoreSems, Device.quad_updQuad]
  by_cases hq : c / 4 = k / 4
  · rw [if_pos hq]
    dsimp only
    rw [Ram.read_filter _ (fun a => a / 1024 != k % 4), hplace, ← hq]
    by_cases hck : c = k
    · simp [hck]
    · have hne : c % 4 ≠ k % 4 := by omega
      simp [hck, hne]
  · have hck : c ≠ k := fun heq => hq (by rw [heq])
    rw [if_neg hq, if_neg hck]

/-- The tallies of a core that is cleared are zero (R301, R302). -/
theorem clearSems_zero {cores : List Nat} {c : Nat} (hc : c ∈ cores) {i : Nat} (hi : i < 1024) (d : Device) :
    Ram.read ((clearSems cores d).quad (c / 4)).sems (1024 * (c % 4) + i) = 0 := by
  obtain ⟨l₁, l₂, rfl⟩ := List.append_of_mem hc
  show Ram.read (((l₁ ++ c :: l₂).foldl clearCoreSems d).quad (c / 4)).sems (1024 * (c % 4) + i) = 0
  rw [List.foldl_append, List.foldl_cons]
  refine List.foldlRecOn (motive := fun e : Device => Ram.read (e.quad (c / 4)).sems (1024 * (c % 4) + i) = 0) l₂ clearCoreSems
    (by rw [clearCoreSems_read _ _ _ hi, if_pos rfl]) fun e he k _ => ?_
  rw [clearCoreSems_read _ _ _ hi, he, ite_self]

/-! ### The supervisors after a restore -/

theorem sendResume_sems (c q : Nat) (d : Device) : ((sendResume c d).quad q).sems = (d.quad q).sems := by
  have hctrl : ∀ (k : Nat) (ms : List CtrlMsg) (e : Device), ((e.setCtrl k ms).quad q).sems = (e.quad q).sems := fun k ms e => by
    rw [Device.setCtrl, Device.quad_updQuad]
    split
    case isTrue h => rw [h]
    case isFalse => rfl
  unfold sendResume takeResume
  split
  · exact (hctrl ..).trans (hctrl ..)
  · exact hctrl ..

theorem resumeCores_sems (sec : Section) (q : Nat) (d : Device) : ((resumeCores sec d).quad q).sems = (d.quad q).sems :=
  foldl_misses (val := fun d : Device => (d.quad q).sems) (fun d c _ => sendResume_sems c q d) d

theorem restoreSync_quad (sec : Section) (v : Save) (q : Nat) (d : Device) :
    (restoreSync sec v d).quad q = (restoreTallies sec v d).quad q := by
  have hquads : (restoreSync sec v d).quads = (restoreTallies sec v d).quads := by
    refine List.foldlRecOn (motive := fun e : Device => e.quads = (restoreTallies sec v d).quads) _ _ ?_ fun _ he _ _ => he
    refine List.foldlRecOn (motive := fun e : Device => e.quads = (restoreTallies sec v d).quads) _ _ ?_ fun _ he _ _ => he
    exact List.foldlRecOn (motive := fun e : Device => e.quads = (restoreTallies sec v d).quads) _ _ rfl fun _ he _ _ => he
  rw [Device.quad, hquads]
  rfl

/-- R222: the tallies stand as saved, at the places of the new cores. -/
theorem restoreSave_talliesRestored {sec : Section} (h : sec.cores.Nodup) {v : Save} (hkeys : (v.sems.map (·.1)).Nodup)
    (hcores : ∀ q ∈ v.sems, q.1 / 1024 < sec.cores.length) {d : Device}
    (hzero : ∀ l < sec.cores.length, ∀ i < 1024, Ram.read (d.quad (sec.phys l / 4)).sems (1024 * (sec.phys l % 4) + i) = 0) :
    TalliesRestored sec v (restoreSave sec v d) := by
  intro l hl i hi
  have hcore : (1024 * l + i) / 1024 = l := by omega
  have hplace : (1024 * l + i) % 1024 = i := by omega
  have hbefore : ∀ q, ((restoreSpills sec v (resumeCores sec (restoreCores sec v (restoreSpares sec v (restoreUnits sec v d))))).quad q).sems
      = (d.quad q).sems := fun q => by
    have hunits := (restoreUnits_work sec v d).trans (restoreSpares_work sec v (restoreUnits sec v d))
    rw [Device.quad, (restoreSpills_work sec v _).quads, ← Device.quad, resumeCores_sems, Device.quad, restoreCores_quads, hunits.quads]
    rfl
  have hat := restoreTallies_at h hkeys hcores (n := 1024 * l + i) (by rw [hcore]; exact hl)
    (d := restoreSpills sec v (resumeCores sec (restoreCores sec v (restoreSpares sec v (restoreUnits sec v d)))))
    (by rw [tallyAt, hcore, hplace, hbefore]; exact hzero l hl i hi)
  rw [tallyAt, hcore, hplace, ← restoreSync_quad] at hat
  exact hat

/-! ### Spill regions -/

/-- One spill region gets its entries back. -/
def restoreSpill (v : Save) (d : Device) (r : SpillRegion) : Device :=
  match v.spills.find? (fun e => e.1 = r.record) with
  | some e => d.updUnit r.mu (fun x =>
      let s := Tab.getD x.mu.spills r.desc {}
      let s := { s with head := e.2.1.head, tail := e.2.1.tail, count := e.2.1.count }
      { x with mu := { x.mu with ram := Ram.blit x.mu.ram r.base (17 * r.cap) e.2.2, spills := Tab.set x.mu.spills r.desc s } })
  | none => d

theorem restoreSpills_eq (sec : Section) (v : Save) (d : Device) : restoreSpills sec v d = sec.spills.foldl (restoreSpill v) d := rfl

/-- The region's own step: its descriptor and its words are those of the save. -/
theorem restoreSpill_same {v : Save} {g : SpillRegion} {e} (he : v.spills.find? (fun e => e.1 = g.record) = some e) (d : Device) :
    ((spillDesc (restoreSpill v d g) g).head = e.2.1.head ∧ (spillDesc (restoreSpill v d g) g).tail = e.2.1.tail
        ∧ (spillDesc (restoreSpill v d g) g).count = e.2.1.count)
      ∧ Ram.slice ((restoreSpill v d g).unit g.mu).mu.ram g.base (17 * g.cap) = e.2.2 % 2 ^ (256 * (17 * g.cap)) := by
  have hstep : ((restoreSpill v d g).unit g.mu).mu = { (d.unit g.mu).mu with
      ram := Ram.blit (d.unit g.mu).mu.ram g.base (17 * g.cap) e.2.2
      spills := Tab.set (d.unit g.mu).mu.spills g.desc { Tab.getD (d.unit g.mu).mu.spills g.desc {} with
        head := e.2.1.head, tail := e.2.1.tail, count := e.2.1.count } } := by
    unfold restoreSpill
    rw [he]
    dsimp only
    rw [Device.unit_updUnit, if_pos rfl]
  rw [spillDesc, hstep, Tab.getD_set_same]
  exact ⟨⟨rfl, rfl, rfl⟩, Ram.slice_blit_same ..⟩

/-- The step of another region leaves this one's descriptor. -/
theorem restoreSpill_desc_other {v : Save} {g x : SpillRegion} (hne : (x.mu, x.desc) ≠ (g.mu, g.desc)) (d : Device) :
    spillDesc (restoreSpill v d x) g = spillDesc d g := by
  unfold restoreSpill
  split
  case h_1 =>
    rw [spillDesc, Device.unit_updUnit]
    split
    case isTrue hmu =>
      have hdesc : g.desc ≠ x.desc := fun hdesc => hne (by rw [hmu, hdesc])
      rw [Tab.getD_set_ne _ _ _ hdesc, spillDesc, hmu]
    case isFalse => rfl
  case h_2 => rfl

/-- The step of a region that lies apart leaves this one's words. -/
theorem restoreSpill_slice_other {v : Save} {g x : SpillRegion}
    (hapart : x.mu = g.mu → x.base + 17 * x.cap ≤ g.base ∨ g.base + 17 * g.cap ≤ x.base) (d : Device) :
    Ram.slice ((restoreSpill v d x).unit g.mu).mu.ram g.base (17 * g.cap) = Ram.slice (d.unit g.mu).mu.ram g.base (17 * g.cap) := by
  unfold restoreSpill
  split
  case h_1 =>
    rw [Device.unit_updUnit]
    split
    case isTrue hmu =>
      rw [hmu]
      exact Ram.slice_blit_apart _ _ _ _ _ _ (hapart hmu.symm).symm
    case isFalse => rfl
  case h_2 => rfl

/-- R222: the spill regions hold the entries of their records. -/
theorem restoreSave_spillsRestored {sec : Section} (hkeys : (sec.spills.map (fun g => (g.mu, g.desc))).Nodup) (v : Save) (d : Device) :
    SpillsRestored sec v (restoreSave sec v d) := by
  intro g hg e he
  have hunit : ∀ u, (restoreSave sec v d).unit u
      = (sec.spills.foldl (restoreSpill v) (resumeCores sec (restoreCores sec v (restoreSpares sec v (restoreUnits sec v d))))).unit u := fun u => by
    rw [restoreSave_unit, restoreSpills_eq]
  obtain ⟨f, -, hdesc⟩ := foldl_meets (val := fun d => spillDesc d g) hkeys hg (step := restoreSpill v)
    (fun d x _ hne => restoreSpill_desc_other hne d) (resumeCores sec (restoreCores sec v (restoreSpares sec v (restoreUnits sec v d))))
  obtain ⟨⟨hhead, htail, hcount⟩, -⟩ := restoreSpill_same he f
  have hdesc' : spillDesc (restoreSave sec v d) g = spillDesc (restoreSpill v f g) g := by
    rw [← hdesc, spillDesc, hunit]
    rfl
  rw [hdesc']
  refine ⟨hhead, htail, hcount, fun hapart => ?_⟩
  obtain ⟨f, -, hslice⟩ := foldl_meets (val := fun d : Device => Ram.slice (d.unit g.mu).mu.ram g.base (17 * g.cap)) hkeys hg
    (step := restoreSpill v)
    (fun d x hx hne => restoreSpill_slice_other (fun hmu => hapart x hx (fun heq => hne (by rw [heq])) hmu) d)
    (resumeCores sec (restoreCores sec v (restoreSpares sec v (restoreUnits sec v d))))
  rw [hunit, hslice]
  exact (restoreSpill_same he f).2

end Sys2Proof.Machine
end

section
/-!
PROOFS. Resumption: what a section that is placed again is, and what its restore leaves (R365, R366, Table 8.6).
-/
namespace Sys2Proof.Machine
open Sys2Proof.Safety
set_option Elab.async false

/-! ### The placement -/

theorem finishPlace_ok {sec : Section} {d : Device} {r : Device × Section} (h : finishPlace sec d = .ok r) :
    TierWork d r.1 ∧ r.2.handle = sec.handle ∧ r.2.cores = sec.cores := by
  unfold finishPlace at h
  split at h
  case h_1 => cases h
  case h_2 halloc =>
    split at h
    case h_1 => cases h
    case h_2 =>
      cases h
      exact ⟨.allocStores .refl halloc, rfl, rfl⟩

/-- The command whose stage was pre-empted goes on. -/
def resumeRun (j : Option Nat) (d : Device) : Device :=
  match j with
  | some m => d.updMb m (fun x => if x.state = .preempted then { x with state := if x.progress = 0 then .running else .partial_ } else x)
  | none => d

/-- The block of a section `sec` that has been placed again on the block `d`, before its save goes back. -/
def replaced (sec1 sec : Section) (d : Device) : Device :=
  (clearSems sec.cores (writeStores sec1 (writeMus sec1 d))).updSection sec.handle (fun _ => sec)

/-- The save goes back, and the time of the restore is kept. -/
def restoredBlock (sec1 sec : Section) (v : Save) (t : Nat) (d : Device) : Device :=
  let e := restoreSave sec v (replaced sec1 sec d)
  { e with sched := { e.sched with restoreUs := BitVec.ofNat 32 t } }

/-- The block of a resumption: the save goes back, the command goes on, the report is written and the promotions queued. -/
def resumedBlock (a : Device) (j : Option Nat) (sec1 sec : Section) (v : Save) (t : Nat) (d : Device) : Device :=
  queuePromotions sec (writeReport a sec (resumeRun j (restoredBlock sec1 sec v t d)))

theorem resumeSection_ok {h : Nat} {a : Device} {sec : Section} {v : Save} {r : Device × Section} (hs : a.section? h = some sec)
    (hv : sec.save = some v) (hr : resumeSection h a = .ok r) : ∃ d sec1 t, TierWork a d
      ∧ r.2.handle = sec.handle ∧ r.2.save = none ∧ r.2.state = (if (runsNow a sec).isSome then .running else .idle)
      ∧ r.1 = resumedBlock a (runsNow a sec) sec1 r.2 v t d := by
  unfold resumeSection at hr
  rw [hs] at hr
  dsimp only at hr
  rw [hv] at hr
  split at hr
  case h_1 v' cores scores hsave _ =>
    cases hsave
    split at hr
    case h_1 => cases hr
    case h_2 d sec1 hplace =>
      obtain ⟨htiers, hhandle, hcores⟩ := finishPlace_ok hplace
      obtain rfl : sec1.handle = h := (show sec1.handle = sec.handle from hhandle).trans (handle_of_section? hs)
      obtain rfl : sec1.cores = cores := hcores
      cases hr
      exact ⟨d, sec1, _, htiers, hhandle, rfl, rfl, rfl⟩
  case h_2 => cases hr
  case h_3 hnone _ => cases hnone

/-! ### The parts of the block -/

theorem writeMus_work (sec : Section) (d : Device) : UnitWork d (writeMus sec d) :=
  .foldl (.foldl rfl fun _ _ => .foldl rfl fun _ _ => .foldl rfl fun _ _ => rfl) fun _ _ => rfl

theorem clearSems_quads (cores : List Nat) (d : Device) : clearSems cores d = { d with quads := (clearSems cores d).quads } :=
  List.foldlRecOn (motive := fun e : Device => e = { d with quads := e.quads }) cores clearCoreSems rfl fun e he c _ =>
    congrArg (fun f : Device => { f with quads := (clearCoreSems e c).quads }) he

theorem clearSems_ctrl (cores : List Nat) (c : Nat) (d : Device) : (clearSems cores d).ctrl c = d.ctrl c := by
  refine foldl_misses (val := fun d : Device => d.ctrl c) (step := clearCoreSems) (fun d k _ => ?_) d
  rw [Device.ctrl, clearCoreSems, Device.quad_updQuad]
  split
  case isTrue h => rw [Device.ctrl, h]
  case isFalse => rfl

theorem Device.ctrl_congr {d e : Device} (h : e.quads = d.quads) (c : Nat) : e.ctrl c = d.ctrl c := by
  rw [Device.ctrl, Device.quad, h]
  rfl

/-- The placed section's MUs and frame stores are written: calm work, and the supervisors stand. -/
theorem placedStores_frame {a d : Device} (hd : TierWork a d) (sec1 : Section) :
    Calm a (writeStores sec1 (writeMus sec1 d)) ∧ (writeStores sec1 (writeMus sec1 d)).quads = a.quads := by
  have hmus := writeMus_work sec1 d
  have hstores : TierWork (writeMus sec1 d) (writeStores sec1 (writeMus sec1 d)) := .writeStores .refl
  exact ⟨((Calm.refl.tierWork hd).trans hmus.calm).tierWork hstores, hstores.quads.trans (hmus.quads.trans hd.quads)⟩

/-- The commands stand, and the section is the one placed. -/
theorem replaced_section {a d : Device} (hd : TierWork a d) (sec1 : Section) {sec t : Section} (hs : a.section? sec.handle = some t) :
    (replaced sec1 sec d).section? sec.handle = some sec ∧ ∀ j, SameRun (a.mb j) ((replaced sec1 sec d).mb j) := by
  obtain ⟨hcalm, -⟩ := placedStores_frame hd sec1
  have hclear := clearSems_quads sec.cores (writeStores sec1 (writeMus sec1 d))
  refine ⟨(Device.section?_updSection fun _ _ => rfl).trans ?_, fun j => ?_⟩
  · rw [hclear]
    exact congrArg (Option.map _) ((hcalm.section? _).trans hs)
  · have hmb := hcalm.mb j
    unfold replaced
    rw [hclear]
    exact hmb

/-- Nothing is on its way to the section's cores, if nothing was. -/
theorem replaced_ctrl {a d : Device} (hd : TierWork a d) (sec1 sec : Section) {c : Nat} (hctrl : a.ctrl c = []) :
    (replaced sec1 sec d).ctrl c = [] :=
  (clearSems_ctrl sec.cores c _).trans ((Device.ctrl_congr (placedStores_frame hd sec1).2 c).trans hctrl)

/-- The restore changes neither the sections nor a command's course. -/
theorem restoreSave_runs (sec : Section) (v : Save) (d : Device) : Runs d (restoreSave sec v d) := by
  have hunits : Calm d (restoreSpares sec v (restoreUnits sec v d)) :=
    ((restoreUnits_work sec v d).trans (restoreSpares_work sec v _)).calm
  have hcores : ∀ e : Device, Runs e (restoreCores sec v e) := fun e =>
    List.foldlRecOn (motive := fun f : Device => Runs e f) _ _ .refl fun _ hf _ _ => hf.trans ⟨⟨rfl, rfl, rfl⟩, fun _ => .refl⟩
  have hresume : ∀ e : Device, Calm e (resumeCores sec e) := fun e => .foldl .refl fun _ _ hf => .sendResume hf
  have hsync : ∀ e : Device, Calm e (restoreSync sec v e) := fun e => by
    rw [restoreSync_work sec v e]
    exact Calm.refl.of_eq
  rw [restoreSave_eq]
  exact hunits.runs.trans ((hcores _).trans ((hresume _).runs.trans ((restoreSpills_work sec v _).calm.runs.trans
    ((hsync _).runs.trans ⟨⟨rfl, rfl, rfl⟩, fun _ => .refl⟩))))

/-! ### What a resumption leaves -/

theorem resumeRun_host (j : Option Nat) (d : Device) : HostWork d (resumeRun j d) := by
  unfold resumeRun
  split
  · exact .updMb .refl
  · exact .refl

/-- R360: a pre-empted command goes on as it was. -/
theorem resumeRun_state {j : Nat} {d : Device} (h : (d.mb j).state = .preempted) :
    ((resumeRun (some j) d).mb j).state = if (d.mb j).progress = 0 then .running else .partial_ :=
  (congrArg Mailbox.state (Device.mb_setMb_same ..)).trans (congrArg Mailbox.state (if_pos h))

/-- After the save has gone back, the section's units, cores and supervisors are not touched again. -/
theorem resumedBlock_frame (a : Device) (j : Option Nat) (sec1 sec : Section) (v : Save) (t : Nat) (d : Device) :
    (resumedBlock a j sec1 sec v t d).units = (restoreSave sec v (replaced sec1 sec d)).units
      ∧ (resumedBlock a j sec1 sec v t d).cores = (restoreSave sec v (replaced sec1 sec d)).cores
      ∧ (resumedBlock a j sec1 sec v t d).quads = (restoreSave sec v (replaced sec1 sec d)).quads
      ∧ (resumedBlock a j sec1 sec v t d).sections = (restoreSave sec v (replaced sec1 sec d)).sections := by
  have hhost := resumeRun_host j (restoredBlock sec1 sec v t d)
  have htiers : TierWork (resumeRun j (restoredBlock sec1 sec v t d)) (resumedBlock a j sec1 sec v t d) :=
    .queuePromotions (.writeReport .refl)
  rw [htiers.units, htiers.cores, htiers.quads, htiers.sections, hhost]
  exact ⟨rfl, rfl, rfl, rfl⟩

theorem resumedBlock_section {a d : Device} (hd : TierWork a d) {j : Option Nat} {sec1 sec u : Section} {v : Save} {t : Nat}
    (hs : a.section? sec.handle = some u) : (resumedBlock a j sec1 sec v t d).section? sec.handle = some sec := by
  obtain ⟨-, -, -, hsections⟩ := resumedBlock_frame a j sec1 sec v t d
  rw [Device.section?, hsections, ← Device.section?, (restoreSave_runs ..).toStill.section?]
  exact (replaced_section hd sec1 hs).1

theorem resumedBlock_state {a d : Device} (hd : TierWork a d) {j : Nat} {sec1 sec u : Section} {v : Save} {t : Nat}
    (hs : a.section? sec.handle = some u) (hj : (a.mb j).state = .preempted) :
    ((resumedBlock a (some j) sec1 sec v t d).mb j).state = if (a.mb j).progress = 0 then .running else .partial_ := by
  have hrun : SameRun (a.mb j) ((restoredBlock sec1 sec v t d).mb j) :=
    ((replaced_section hd sec1 hs).2 j).trans ((restoreSave_runs ..).mb j)
  have htiers : TierWork (resumeRun (some j) (restoredBlock sec1 sec v t d)) (resumedBlock a (some j) sec1 sec v t d) :=
    .queuePromotions (.writeReport .refl)
  rw [(htiers.mb j).state, resumeRun_state (hrun.state.trans hj), hrun.progress]

/-- R366: a section that is placed again holds what its save holds. -/
theorem resumeSection_restores {h : Nat} {a : Device} {sec : Section} {v : Save} {r : Device × Section}
    (hs : a.section? h = some sec) (hv : sec.save = some v) (hr : resumeSection h a = .ok r) (hplaced : PlacedWell r.2)
    (hctrl : ∀ c ∈ r.2.cores, a.ctrl c = []) :
    UnitsRestored r.2 v r.1 ∧ CoresRestored r.2 v r.1
      ∧ ((v.sems.map (·.1)).Nodup → (∀ q ∈ v.sems, q.1 / 1024 < r.2.cores.length) → TalliesRestored r.2 v r.1)
      ∧ ((r.2.spills.map (fun g => (g.mu, g.desc))).Nodup → SpillsRestored r.2 v r.1) := by
  obtain ⟨d, sec1, t, hd, -, -, -, hblock⟩ := resumeSection_ok hs hv hr
  obtain ⟨hunits, hcores, hquads, -⟩ := resumedBlock_frame a (runsNow a sec) sec1 r.2 v t d
  rw [← hblock] at hunits hcores hquads
  have hcoresNodup := hplaced.1
  have hunit : ∀ u, r.1.unit u = (restoreSave r.2 v (replaced sec1 r.2 d)).unit u := fun u => by rw [Device.unit, hunits]; rfl
  have hcore : ∀ c, r.1.core c = (restoreSave r.2 v (replaced sec1 r.2 d)).core c := fun c => by rw [Device.core, hcores]; rfl
  have hquad : ∀ q, r.1.quad q = (restoreSave r.2 v (replaced sec1 r.2 d)).quad q := fun q => by rw [Device.quad, hquads]; rfl
  refine ⟨?_, ?_, fun hkeys hbound => ?_, fun hkeys => ?_⟩
  · have hrestored := restoreSave_unitsRestored hplaced v (replaced sec1 r.2 d)
    simpa only [UnitsRestored, hunit] using hrestored
  · have hrestored := restoreSave_coresRestored hcoresNodup v fun c hc => replaced_ctrl hd sec1 r.2 (hctrl c hc)
    simpa only [CoresRestored, hcore] using hrestored
  · have hrestored := restoreSave_talliesRestored hcoresNodup hkeys hbound (d := replaced sec1 r.2 d)
      fun l hl i hi => clearSems_zero (phys_mem hl) hi _
    simpa only [TalliesRestored, hquad] using hrestored
  · have hrestored := restoreSave_spillsRestored hkeys v (replaced sec1 r.2 d)
    simpa only [SpillsRestored, spillDesc, hunit] using hrestored

/-- A section that is placed again has its handle still, no save, and its state by its command. -/
theorem resumeSection_section {h : Nat} {a : Device} {sec : Section} {v : Save} {r : Device × Section}
    (hs : a.section? h = some sec) (hv : sec.save = some v) (hr : resumeSection h a = .ok r) :
    r.2.handle = sec.handle ∧ r.2.save = none ∧ r.1.section? h = some r.2
      ∧ r.2.state = (if (runsNow a sec).isSome then .running else .idle)
      ∧ ∀ j, runsNow a sec = some j → (a.mb j).state = .preempted →
          (r.1.mb j).state = if (a.mb j).progress = 0 then .running else .partial_ := by
  obtain ⟨d, sec1, t, hd, hhandle, hsave, hstate, hblock⟩ := resumeSection_ok hs hv hr
  have hh : r.2.handle = h := hhandle.trans (handle_of_section? hs)
  have hs' : a.section? r.2.handle = some sec := by rw [hh]; exact hs
  refine ⟨hhandle, hsave, ?_, hstate, fun j hj hpreempted => ?_⟩
  · rw [hblock, ← hh]
    exact resumedBlock_section hd hs'
  · rw [hblock, hj]
    exact resumedBlock_state hd hs' hpreempted

/-- A section that can be placed again has a save. -/
theorem resumeSection_save {h : Nat} {a : Device} {sec : Section} {r : Device × Section} (hs : a.section? h = some sec)
    (hr : resumeSection h a = .ok r) : ∃ v, sec.save = some v := by
  unfold resumeSection at hr
  rw [hs] at hr
  dsimp only at hr
  split at hr
  case h_1 hsave _ => exact ⟨_, hsave⟩
  case h_2 => cases hr
  case h_3 => cases hr

end Sys2Proof.Machine
end

section
/-!
PROOFS. Pre-emption and resumption: the commands and the internal rows, and the obligation (R222, R360 to R373, R429).
-/
namespace Sys2Proof.Machine
open Sys2Proof.Safety
set_option Elab.async false

/-! ### PREEMPT (R429) -/

/-- A rung PREEMPT that can start runs. -/
theorem completes_preempt {s : State} {m : Fin 16} {err : MuErr} {sec : Section} {P : Device → Prop} (hrung : Rung s.dev m.val 0x15)
    (hcheck : checkPreempt s.dev (s.dev.mb m.val) = 0) (hs : s.dev.section? ((s.dev.mb m.val).arg 0 4) = some sec)
    (hregion : regionPending s.dev ((s.dev.mb m.val).arg 0 4) = false)
    (hfirst : ∀ j, j < 16 → j ≠ m.val → ¬((s.dev.mb j).opcode = 0x18 ∧ (s.dev.mb j).state = .accepted ∧ (s.dev.mb j).rung = false
      ∧ (s.dev.mb j).arg 0 4 = (s.dev.mb m.val).arg 0 4)) (h : P (runPreempt err m.val (taken m.val s.dev))) :
    Completes (.preempt m err) s P :=
  ⟨_, rfl, by rwa [hostCmd_runs hrung rfl hcheck (canPreempt_accepted hrung hcheck hs hregion hfirst)]⟩

/-- The command waits for the pre-emption of a section. -/
def waitPreempt (m h : Nat) (d : Device) : Device := d.updMb m (fun x => { x with job := .preempting h })

theorem waitPreempt_mb (m h : Nat) (d : Device) : (waitPreempt m h d).mb m = { d.mb m with job := .preempting h } :=
  Device.mb_setMb_same ..

theorem runPreempt_idle {err : MuErr} {m h : Nat} {d : Device} {sec : Section} (harg : (d.mb m).arg 0 4 = h)
    (hs : d.section? h = some sec) (hstate : sec.state = .idle) : runPreempt err m d = endDone m (savePreempt h false err d) := by
  unfold runPreempt
  simp only [harg, hs, hstate]

theorem runPreempt_running {err : MuErr} {m h : Nat} {d : Device} {sec : Section} (harg : (d.mb m).arg 0 4 = h)
    (hs : d.section? h = some sec) (hstate : sec.state = .running) : runPreempt err m d = waitPreempt m h (startPreempt h d) := by
  unfold runPreempt
  simp only [harg, hs, hstate]
  rfl

theorem runPreempt_preempting {err : MuErr} {m h : Nat} {d : Device} {sec : Section} (harg : (d.mb m).arg 0 4 = h)
    (hs : d.section? h = some sec) (hstate : sec.state = .preempting) : runPreempt err m d = waitPreempt m h d := by
  unfold runPreempt
  simp only [harg, hs, hstate]
  rfl

theorem runPreempt_preempted {err : MuErr} {m h : Nat} {d : Device} {sec : Section} (harg : (d.mb m).arg 0 4 = h)
    (hs : d.section? h = some sec) (hstate : sec.state = .preempted) : runPreempt err m d = endDone m d := by
  unfold runPreempt
  simp only [harg, hs, hstate]

/-- A command that waits for the pre-emption of a section runs, and the section is PREEMPTING. -/
theorem waitPreempt_waits {m h : Nat} {d : Device} {sec : Section} (hs : d.section? h = some sec)
    (hrunning : (d.mb m).state = .running) :
    let e := waitPreempt m h (startPreempt h d)
    (e.mb m).state = .running ∧ (e.mb m).job = .preempting h ∧ (e.section? h).map (·.state) = some .preempting := by
  intro e
  obtain ⟨f, hcalm, -, hstart⟩ := startPreempt_cases hs
  have hmb : e.mb m = { (startPreempt h d).mb m with job := .preempting h } := waitPreempt_mb ..
  have hstate : ((startPreempt h d).mb m).state = .running := by
    rw [hstart]
    exact (hcalm.mb m).state.trans hrunning
  have hsection : e.section? h = (startPreempt h d).section? h := rfl
  rw [hmb, hsection, hstart, beginPreempt_section ((hcalm.section? h).trans hs), ← hstart]
  exact ⟨hstate, rfl, rfl⟩

theorem taken_running (m : Nat) (d : Device) : ((taken m d).mb m).state = .running := by
  rw [taken_mb_same]

theorem applyBegun_taken (m : Nat) (d : Device) (sec : Section) : applyBegun (taken m d) sec = applyBegun d sec := by
  have happlying : ∀ j, ((taken m d).mb j).applying = (d.mb j).applying := fun j => by
    by_cases hj : j = m
    · rw [hj, taken_mb_same]
      rfl
    · rw [taken_mb_other d hj]
  simp only [applyBegun, happlying]

/-! ### RESUME (R366, R429) -/

/-- A RESUME that starts, or goes on, in a block `a` where its turn to be placed has come. -/
def ResumeRuns (s : State) (m : Nat) (a : Device) : Prop :=
  (Rung s.dev m 0x16 ∧ checkResume s.dev (s.dev.mb m) = 0 ∧ a = taken m s.dev)
    ∨ (serviceOn s.dev = true ∧ (s.dev.mb m).opcode = 0x16 ∧ (s.dev.mb m).between = true ∧ a = s.dev)

theorem ResumeRuns.section? {s : State} {m : Nat} {a : Device} (h : ResumeRuns s m a) (n : Nat) : a.section? n = s.dev.section? n := by
  obtain ⟨-, -, rfl⟩ | ⟨-, -, -, rfl⟩ := h
  · rfl
  · rfl

theorem ResumeRuns.arg {s : State} {m : Nat} {a : Device} (h : ResumeRuns s m a) : (a.mb m).arg 0 4 = (s.dev.mb m).arg 0 4 := by
  obtain ⟨-, -, rfl⟩ | ⟨-, -, -, rfl⟩ := h
  · exact taken_arg ..
  · rfl

theorem completes_resume {s : State} {m : Fin 16} {a : Device} {hold : Bool} {found : Ecc} {P : Device → Prop}
    (hturn : placeTurn a m.val = true) (hruns : ResumeRuns s m.val a) (h : P (resumeRow hold found m.val a)) :
    Completes (.resume m hold found) s P := by
  refine ⟨_, rfl, ?_⟩
  obtain ⟨hrung, hcheck, rfl⟩ | ⟨hservice, hop, hbetween, rfl⟩ := hruns
  · rwa [hostWork_runs hrung rfl hcheck (by rwa [← placeTurn_taken])]
  · rwa [hostWork_goes hservice hop hbetween hturn]

theorem runResume_done {found : Ecc} {m h : Nat} {a : Device} {sec : Section} (harg : (a.mb m).arg 0 4 = h)
    (hs : a.section? h = some sec) (hstate : sec.state ≠ .preempted) : runResume found m a = endDone m a := by
  unfold runResume
  simp only [harg, hs, bne_iff_ne.mpr hstate, ↓reduceIte]

theorem runResume_ok {found : Ecc} {m h : Nat} {a : Device} {sec : Section} {r : Device × Section} (harg : (a.mb m).arg 0 4 = h)
    (hs : a.section? h = some sec) (hstate : sec.state = .preempted) (hr : resumeSection h a = .ok r) (hfound : found ≠ .uncorrected) :
    runResume found m a = endDone m (replyReport m a r.2 (0, 0, 0) false (restoreFound h found r.1)) := by
  unfold runResume
  simp only [harg, hs, hstate, hr, hfound, bne_self_eq_false, Bool.false_eq_true, ↓reduceIte]

theorem runResume_uncorrected {m h : Nat} {a : Device} {sec : Section} {r : Device × Section} (harg : (a.mb m).arg 0 4 = h)
    (hs : a.section? h = some sec) (hstate : sec.state = .preempted) (hr : resumeSection h a = .ok r) :
    runResume .uncorrected m a = endFailed m 0x41 (restoreFound h .uncorrected r.1) := by
  unfold runResume
  simp only [harg, hs, hstate, hr, bne_self_eq_false, Bool.false_eq_true, ↓reduceIte]

theorem runResume_error {found : Ecc} {m h : Nat} {a : Device} {sec : Section} {f : PlaceFail} (harg : (a.mb m).arg 0 4 = h)
    (hs : a.section? h = some sec) (hstate : sec.state = .preempted) (hr : resumeSection h a = .error f) :
    runResume found m a = endFailed m f.1 (reportFailed m sec f false a) := by
  unfold runResume
  simp only [harg, hs, hstate, hr, bne_self_eq_false, Bool.false_eq_true, ↓reduceIte]

/-- R229: the section whose save fails to be read is halted. -/
theorem restoreFound_halts {h : Nat} {a : Device} {sec : Section} {r : Device × Section} (hs : a.section? h = some sec)
    (hr : resumeSection h a = .ok r) (m : Nat) (e : BitVec 8) :
    ((endFailed m e (restoreFound h .uncorrected r.1)).section? h).map (·.state) = some .halted := by
  obtain ⟨v, hv⟩ := resumeSection_save hs hr
  obtain ⟨-, -, hsection, -⟩ := resumeSection_section hs hv hr
  rw [(HostWork.endFailed .refl).still.section?]
  exact haltSection_state (((log_calm ..).section? h).trans hsection)

/-! ### CORE_OFFLINE and CORE_ONLINE -/

theorem checkCore_ok {d : Device} {x : Mailbox} (hcore : x.arg 0 1 ≤ 15) (hzero : x.arg 1 7 = 0) : checkCore d x = 0 := by
  simp [checkCore, argOk, hcore, hzero]

theorem completes_coreOffline {s : State} {m : Fin 16} {err : MuErr} {P : Device → Prop} (hrung : Rung s.dev m.val 0x41)
    (hcore : (s.dev.mb m.val).arg 0 1 ≤ 15) (hzero : (s.dev.mb m.val).arg 1 7 = 0) (h : P (runOffline err m.val (taken m.val s.dev))) :
    Completes (.coreOffline m err) s P :=
  ⟨_, rfl, by rwa [hostCmd_runs hrung rfl (checkCore_ok hcore hzero) rfl]⟩

theorem completes_coreOnline {s : State} {m : Fin 16} {P : Device → Prop} (hrung : Rung s.dev m.val 0x42)
    (hcore : (s.dev.mb m.val).arg 0 1 ≤ 15) (hzero : (s.dev.mb m.val).arg 1 7 = 0) (h : P (runOnline m.val (taken m.val s.dev))) :
    Completes (.coreOnline m) s P :=
  ⟨_, rfl, by rwa [hostCmd_runs hrung rfl (checkCore_ok hcore hzero) rfl]⟩

/-- A command that starts begins no region load. -/
theorem regionJob_taken {m h : Nat} {d : Device} (hregion : regionJob d h = none) : regionJob (taken m d) h = none := by
  rw [regionJob, List.findSome?_eq_none_iff] at hregion ⊢
  intro j hj
  by_cases hjm : j = m
  · rw [hjm, taken_mb_same]
  · rw [taken_mb_other d hjm]
    exact hregion j hj

theorem withLost_eq (sec : Section) (c : Nat) :
    sec.withLost c = if c ∈ sec.lostCores then sec.lostCores else sec.lostCores ++ [c] := by
  simp [Section.withLost]

theorem not_resetting_of_rung {d : Device} {m op : Nat} (h : Rung d m op) : d.boot.resetting = false := by
  obtain ⟨hservice, _⟩ := h
  simp only [serviceOn, Bool.and_eq_true, Bool.not_eq_true'] at hservice
  exact hservice.1

/-! ### The internal rows -/

theorem preemptionSave_eq {h : Nat} {err : MuErr} {d : Device} {sec : Section} (hs : d.section? h = some sec)
    (hstate : sec.state = .preempting) (hstopped : allStopped d sec = true) (hfinished : allFinished d sec = false)
    (hquiescent : quiescent d sec = true) : preemptionSave h err d = savePreempt h sec.autoResume err d := by
  unfold preemptionSave
  simp [hs, hstate, hstopped, hfinished, hquiescent]

theorem quiescenceLimit_eq {c : Nat} {d : Device} {sec : Section} (hheld : coreSection d c = some sec)
    (hstate : sec.state = .preempting) (hlimit : 2000000 ≤ (d.core c).quiesce) :
    quiescenceLimit c d = abandonPreempt sec.handle d := by
  unfold quiescenceLimit
  simp [hheld, hstate, hlimit]

theorem autoResume_first {d : Device} {sec : Section} {rest : List Section} (hruns : meridianRuns d = true)
    (hsections : d.sections.filter (autoResumes d) = sec :: rest) : autoResume .clean d = resumeFirst .clean (sec :: rest) d := by
  unfold autoResume
  rw [hruns, hsections]
  rfl

theorem resumeFirst_ok {d : Device} {sec : Section} {rest : List Section} {r : Device × Section}
    (hr : resumeSection sec.handle d = .ok r) : resumeFirst .clean (sec :: rest) d = r.1 := by
  unfold resumeFirst
  rw [hr]
  rfl

theorem resumeFirst_error {d : Device} {sec : Section} {rest : List Section} {f : PlaceFail}
    (hr : resumeSection sec.handle d = .error f) : resumeFirst .clean (sec :: rest) d = resumeFirst .clean rest (logUnplaced sec f d) := by
  conv_lhs => unfold resumeFirst
  rw [hr]

theorem key_core (u : UnitRef) : u.key / 80 = u.core.val := by
  have hrow := u.row.isLt
  have hcol := u.col.isLt
  unfold UnitRef.key
  omega

/-! ### The obligation -/

/-- Settles O39, clause by clause: the host's commands run once they are accepted (`hostCmd_runs`), a save leaves its section
PREEMPTED and its cores free (`savePreempt_saves`), an abandoned pre-emption lets its section go on (`abandonPreempt_goes`),
the loss of a core pre-empts a running section (`loseCore_preempts`), and a resumption gives back what the save holds
(`resumeSection_restores`). Two answers are the model's own: an uncorrected error in the restore of a save halts the section
with 0x41 (log entry 94, DESIGN CHOICE), and PREEMPT in an apply phase marks the section and suspends no core (log entry 38,
DEDUCED). -/
theorem preemptionCompletes : Obligations.PreemptionCompletes := by
  intro s m h sec err k x e saved settled clean
  refine ⟨fun harg hs => ⟨fun hrung hcheck hregion hfirst => ?_, fun a hturn hruns => ?_, ?_⟩, fun c hc hle hzero => ⟨?_, ?_, ?_⟩,
    ?_, ?_, ?_, ?_, ?_⟩
  · have hstart : ∀ {P : Device → Prop}, P (runPreempt err k e) → Completes (.preempt m err) s P := fun hP =>
      completes_preempt hrung hcheck (harg ▸ hs) (harg ▸ hregion) (harg ▸ hfirst) hP
    have harg' : (e.mb k).arg 0 4 = h := (taken_arg ..).trans harg
    refine ⟨fun hstate hsettled hpoison hclean => hstart ?_, fun hstate hcores happly => hstart ?_,
      fun hstate hcores happly => hstart ?_, fun hstate => hstart ?_, fun hstate => hstart ?_⟩
    · rw [runPreempt_idle harg' hs hstate]
      obtain ⟨hsection, hdone, hfree⟩ := savePreempt_saves (forced := false) (d := e) hs (by rw [hstate]; exact fun hne => nomatch hne)
        hsettled hpoison hclean
      have hend : HostWork (savePreempt h false err e) (endDone k (savePreempt h false err e)) := .endDone .refl
      refine ⟨by rw [endDone_mb_same]; rfl, ?_, ?_, fun c hc => ?_⟩
      · rw [hend.still.section?]
        exact hsection
      · rw [hend.still.sched]
        exact hdone
      · rw [hend.core]
        exact hfree c hc
    · rw [runPreempt_running harg' hs hstate]
      obtain ⟨hrunning, hjob, hsection⟩ := waitPreempt_waits (d := e) hs (taken_running ..)
      refine ⟨hrunning, hjob, hsection, fun c hc => ?_⟩
      have hsuspends := startPreempt_suspends (d := e) hs ((applyBegun_taken ..).trans happly)
      rw [hsuspends]
      exact suspendCores_sends hcores hc e
    · rw [runPreempt_running harg' hs hstate]
      obtain ⟨hrunning, hjob, hsection⟩ := waitPreempt_waits (d := e) hs (taken_running ..)
      refine ⟨hrunning, hjob, hsection, fun c hc => ?_⟩
      rw [startPreempt_waits (d := e) hs ((applyBegun_taken ..).trans happly)]
      rfl
    · rw [runPreempt_preempting harg' hs hstate, waitPreempt_mb]
      exact ⟨taken_running .., rfl, rfl⟩
    · exact runPreempt_preempted harg' hs hstate
  · have hrow : ResumeRuns s k a := hruns
    have hs' : a.section? h = some sec := (hrow.section? h).trans hs
    have harg' : (a.mb k).arg 0 4 = h := hrow.arg.trans harg
    refine ⟨fun f => completes_resume hturn hrow (by rw [resumeRow, if_pos rfl, harg']),
      fun hstate f => completes_resume hturn hrow (runResume_done harg' hs' hstate), fun r hstate hr => ⟨?_, ?_, ?_, ?_⟩,
      fun f g hstate hr => completes_resume hturn hrow (runResume_error harg' hs' hstate hr)⟩
    · exact completes_resume hturn hrow (runResume_ok harg' hs' hstate hr nofun)
    · exact completes_resume hturn hrow (runResume_ok harg' hs' hstate hr nofun)
    · exact completes_resume hturn hrow (runResume_ok harg' hs' hstate hr nofun)
    · refine completes_resume hturn hrow ?_
      have heq : resumeRow false .uncorrected k a = endFailed k 0x41 (restoreFound h .uncorrected r.1) :=
        runResume_uncorrected harg' hs' hstate hr
      rw [heq]
      exact ⟨rfl, restoreFound_halts hs' hr k 0x41⟩
  · intro a v r hs' hv hr hplaced hctrl
    obtain ⟨hhandle, hsave, hsection, hstate, hcommand⟩ := resumeSection_section hs' hv hr
    obtain ⟨hunits, hcores, htallies, hspills⟩ := resumeSection_restores hs' hv hr hplaced hctrl
    exact ⟨hhandle, hsave, hsection, hstate, hunits, hcores, htallies, hspills, hcommand⟩
  · intro hrung hfree
    have harg' : (e.mb k).arg 0 1 = c := (taken_arg ..).trans hc.symm
    refine completes_coreOffline hrung (hc ▸ hle) hzero ?_
    obtain ⟨hdone, hsched⟩ := runOffline_free (err := err) (m := k) (d := e) m.isLt (taken_running ..) (harg' ▸ hfree)
    refine ⟨hdone, ?_, ?_⟩
    · rw [hsched, harg']
      rfl
    · rw [hsched, harg']
      rfl
  · intro hrung hheld hstate hcover hregion _
    have harg' : (e.mb k).arg 0 1 = c := (taken_arg ..).trans hc.symm
    refine completes_coreOffline hrung (hc ▸ hle) hzero ?_
    obtain ⟨hrunning, hjob, hsection⟩ := runOffline_running (err := err) (m := k) (d := e) harg' (taken_running ..) hheld hstate hcover
      (regionJob_taken hregion)
    rw [withLost_eq] at hsection
    exact ⟨hrunning, hjob, hsection⟩
  · intro hrung
    have harg' : (e.mb k).arg 0 1 = c := (taken_arg ..).trans hc.symm
    refine completes_coreOnline hrung (hc ▸ hle) hzero ?_
    have hresetting : s.dev.boot.resetting = false := not_resetting_of_rung hrung
    exact runOnline_returns (d := e) harg' hresetting
  · intro handle hh hs hstate hstopped hfinished hquiescent hsettled hpoison hclean
    have hlive : sec.state ≠ .halted := by rw [hstate]; exact fun hne => nomatch hne
    refine ⟨_, rfl, ?_⟩
    rw [hh, preemptionSave_eq hs hstate hstopped hfinished hquiescent]
    exact ⟨savePreempt_saves hs hlive hsettled hpoison hclean,
      fun j g hj hstarted hjob => savePreempt_suspends hs hlive hsettled hpoison hclean hj hstarted hjob⟩
  · intro c hheld hstate hlimit
    refine ⟨_, rfl, ?_⟩
    rw [quiescenceLimit_eq hheld hstate hlimit]
    exact abandonPreempt_goes (coreSection_handle hheld)
  · intro rest hmeridian hsections
    refine ⟨fun r hr => ⟨_, rfl, ?_⟩, fun f hr => ⟨_, rfl, ?_⟩⟩
    · rw [autoResume_first hmeridian hsections, resumeFirst_ok hr]
    · rw [autoResume_first hmeridian hsections, resumeFirst_error hr]
  · intro u hfree hoffline hhost
    refine ⟨_, rfl, ?_⟩
    obtain ⟨g, hlog, hdefects⟩ := log_frame 0x22 (unitId u.key) 0 s.dev
    rw [← key_core] at hfree hoffline hhost
    rw [unitFailure_free hfree hoffline hhost]
    generalize log 0x22 (unitId u.key) 0 s.dev = a at hlog ⊢
    subst hlog
    refine ⟨rfl, rfl, rfl, ⟨mem_addDefect_self .., fun v hv => ?_⟩, mem_addDefect_self .., fun v hv => mem_addDefect_other _ hv⟩
    rw [← hdefects]
    exact mem_addDefect_other _ hv
  · intro u hheld hstate hcover hregion
    refine ⟨_, rfl, ?_⟩
    rw [← key_core] at hheld ⊢
    obtain ⟨hdefects, hoffline, t, ht, hpreempting, hauto, hlost⟩ := unitFailure_running (err := err) hheld hstate hcover hregion
    refine ⟨hdefects, hoffline, ?_, t, ht, hlost⟩
    rw [ht, Option.map_some, hpreempting, hauto]

end Sys2Proof.Machine
end
